-- ==== Sys2Proof/Word.lean ====
section
/-!
DEFINITION. The word types of the block, its index types (00_scope.md Table 0.4) and its status
codes (00_scope.md Table 0.6).
-/

namespace Sys2Proof

/-- A 64-bit register (18_register_map.md R719: every write is of a whole 64-bit register). -/
abbrev Word := BitVec 64
/-- A byte. -/
abbrev Byte := BitVec 8
/-- One aligned 64 B granule (R195); byte 0 is bits [7:0]. -/
abbrev Granule := BitVec 512
/-- A DXI word (R97), and a header word of a packet (R476). -/
abbrev Quad := BitVec 128
/-- A node ID (R170: 0 to 8,191). -/
abbrev Node := BitVec 13
/-- A byte offset in the home die's memory (Table 4.1). -/
abbrev Offset := BitVec 50

/-- A context, 0 to 15. -/
abbrev Ctx := Fin 16
/-- A partition, 0 to 3. -/
abbrev Part := Fin 4
/-- A sequencer, 0 to 63. -/
abbrev SeqId := Fin 64
/-- A racking engine, 0 to 15. -/
abbrev EngId := Fin 16
/-- A strait, 0 to 31. -/
abbrev StraitId := Fin 32
/-- A key slot, 0 to 15 (Table 9.4). -/
abbrev KeyIdx := Fin 16
/-- A collective instance, 0 to 255 (R318). -/
abbrev InstId := Fin 256
/-- A meter, 0 to 63 (R572). -/
abbrev MeterId := Fin 64
/-- A host agent, 0 to 3. -/
abbrev Agent := Fin 4
/-- A route bank, 0 or 1 (R502). -/
abbrev BankId := Fin 2
/-- A virtual channel, 0 to 7 (Table 11.8). -/
abbrev Vc := Fin 8
/-- A portal channel, 0 to 7 (Table 17.7). -/
abbrev Chan := Fin 8

/-- A sparse table: entries by rising key; an unlisted key reads as the table's default. The operations
`tget` and `tset` stand in Machine/Ops.lean. -/
abbrev Tbl (α : Type) := List (Nat × α)

/-- The status codes of Table 0.6 (R17). R18: there is no other. -/
inductive Status where
  | ok | busy | busyActive | busyDraining | busyInUse | noAlternate | notReady
  | refusedFit | access | keyRetired | dataPoison | staleEpoch | diverged
  deriving DecidableEq, Repr

/-- The 8-bit encoding of a status (Table 0.6). -/
def Status.code : Status → Byte
  | .ok => 0x00
  | .busy => 0x01
  | .busyActive => 0x02
  | .busyDraining => 0x03
  | .busyInUse => 0x04
  | .noAlternate => 0x05
  | .notReady => 0x06
  | .refusedFit => 0x07
  | .access => 0x08
  | .keyRetired => 0x09
  | .dataPoison => 0x0A
  | .staleEpoch => 0x0B
  | .diverged => 0x0C

/-- The path on which an access reaches the register window, which is also how the maintenance
arbiter names a requester (Tables 16.9 and 18.4). -/
inductive Path where
  | rot | fm | control | cellarer
  deriving DecidableEq, Repr

/-- The HOLDER number of a path (Table 16.9). -/
def Path.holder : Path → Nat
  | .rot => 1
  | .fm => 2
  | .control => 3
  | .cellarer => 4

end Sys2Proof
end

