-- ==== Sys2Proof/Syntax.lean ====
section
/-!
DEFINITION. The commands of the block: one constructor of `Instr` for each row of
spec/opcode_table.json, in the table's order, with the operands the row's rule gives it.
A DXI row names the sequencer that issues the word; the word's own fields (Tables 3.1 to 3.15)
stand in that sequencer's program store at PC (log 7).
-/

namespace Sys2Proof

/-- The signals of Table 17.7 that every tile request carries. -/
structure TileHdr where
  txn : BitVec 16
  ctx : Ctx
  rid : BitVec 10
  va : BitVec 57
  hint : BitVec 2
  deriving DecidableEq, Repr

/-- prt_req_dtv, prt_req_dt and prt_req_mode of Table 17.7. `units`: 0 BYTES, 1 UNITS. -/
structure TileTally where
  dtv : Bool
  dt : BitVec 12
  units : Bool
  deriving DecidableEq, Repr

/-- What brings a flit to a strait (R425 to R428): nothing new where the flit's last bits came with the codeword before;
on a SerDes strait the codeword that brings them, in logical order, symbol j at bits [10j+9:10j]; on a causeway the
flit's own slot. -/
inductive RxBits where
  | held
  | codeword (w : BitVec 5440)
  | slot (flit : BitVec 1024)
  deriving DecidableEq, Repr

/-- What a strait receives with a flit: what brings it, and, with the flit of slot 60 of a causeway's frame, the parity
that slots 62 and 63 bring, one bit for each lane (R428). -/
structure Rx where
  bits : RxBits
  parity : BitVec 64
  deriving DecidableEq, Repr

/-- What comes with a flit of a packet or a cell: the parity as for any flit, and the PHY time of the flit in 1/16 ns
(R635). -/
structure FlitEnd where
  parity : BitVec 64
  stamp : Word
  deriving DecidableEq, Repr

/-- The packet that a row looks at: the oldest of a VC in the ingress buffer of strait n. `hits` are its flits that the
cellar cannot correct on this read (R39), `acc` that such an error strikes the accumulator (Table 6.8). -/
structure PacketNext where
  n : StraitId
  vc : Vc
  hits : List Nat
  acc : Bool
  deriving DecidableEq, Repr

/-- The cell that a row looks at: the oldest on VC 0 of strait n, whether the cellar cannot correct it (R339), and
whether such an error strikes the ferry store (Table 7.4). -/
structure CellNext where
  n : StraitId
  hit : Bool
  store : Bool
  deriving DecidableEq, Repr

/-- Whose piece goes out: the instance by its group and sequence; `struck` that an uncorrectable cellar error strikes
the staged piece (Table 6.8). -/
structure PieceOf where
  group : Fin 1024
  sequence : BitVec 32
  struck : Bool
  deriving DecidableEq, Repr

/-- An attempt of strait n fails, on a causeway perhaps at module initialisation (R450, R695). -/
structure Attempt where
  n : StraitId
  initFailed : Bool
  deriving DecidableEq, Repr

/-- A flit boundary of strait n: whether the cellar cannot correct the flit that is read to be sent (R457), and the PHY
time of a TIME flit (R474). -/
structure Boundary where
  n : StraitId
  hit : Bool
  stamp : Word
  deriving DecidableEq, Repr

/-- What a training attempt found: the good physical lanes (R450), the causeway module's own success
(R695), the parameters the peer sent, its buffer sizes among them (R451), the epoch of ours that the peer last received and its
next expected FSEQ (R452), its initial XOFF mask (Table 10.7), the measured round trip, and the equaliser coefficients
that the lanes came to (Table 10.7, R469). -/
structure TrainResult where
  good : BitVec 5
  moduleOk : Bool
  role : Bool
  node : Node
  strait : BitVec 5
  cls : BitVec 2
  epoch : BitVec 16
  sawEpoch : BitVec 16
  expected : BitVec 12
  xoff : BitVec 8
  rtt : BitVec 32
  buffer : BitVec 16
  replay : BitVec 16
  tuning : List Byte
  deriving DecidableEq, Repr

/-- What a write to a route bank names (R516). -/
inductive BankTarget where
  | entry (node : Node)
  | mode
  | dateline
  | torusDim
  deriving DecidableEq, Repr

/-- The shared units of R648. -/
inductive EngUnit where
  | press | ferry | xlat
  deriving DecidableEq, Repr

/-- The commands. -/
inductive Instr where
  -- programs and sequencers (02)
  | seqLoad (p : Path) (q : SeqId)
  | loadChecksEnd (q : SeqId)
  | seqStart (p : Path) (q : SeqId)
  | seqStop (p : Path) (q : SeqId)
  | seqUnload (p : Path) (q : SeqId)
  | unloadDrainDone (q : SeqId)
  -- DXI words (03)
  | nop (q : SeqId)
  | set (q : SeqId)
  | alu (q : SeqId)
  | cmp (q : SeqId)
  | br (q : SeqId)
  | loop (q : SeqId)
  | move (q : SeqId)
  | get (q : SeqId)
  | put (q : SeqId)
  | atomic (q : SeqId)
  | signal (q : SeqId)
  | wait (q : SeqId)
  | fence (q : SeqId)
  | fenceRelease (q : SeqId)
  | coll (q : SeqId)
  | ferry (q : SeqId)
  | watch (q : SeqId)
  | mark (q : SeqId)
  | permitAcquire (q : SeqId)
  | permitRelease (q : SeqId)
  | awakeSet (q : SeqId)
  | awakeClear (q : SeqId)
  | keysel (q : SeqId)
  | complete (q : SeqId)
  | seqHoldRelease (q : SeqId)
  | seqEnterFrozen (q : SeqId)
  | tallyUpdate
  -- the portal (04, 17)
  | tileLoad (ch : Chan) (h : TileHdr) (size : BitVec 3)
  | tileStore (ch : Chan) (h : TileHdr) (mask : Word) (data : Granule) (t : TileTally)
  | tileAtomic (ch : Chan) (h : TileHdr) (aop : BitVec 3) (atype : BitVec 2) (res : Bool)
      (operand compare : Word) (t : TileTally)
  | tileSignal (ch : Chan) (h : TileHdr) (amount : BitVec 16) (t : TileTally)
  | fenceLocal (ch : Chan) (h : TileHdr)
  | fenceRemote (ch : Chan) (h : TileHdr)
  | portalFenceComplete (tag : Fin 16384)
  | portalHeldAccept
  -- packets and cells (11, 07)
  | packetRead (x : PacketNext)
  | packetWrite (x : PacketNext)
  | packetAtomic (x : PacketNext)
  | packetSignal (x : PacketNext)
  | packetForward (x : PacketNext)
  | packetData (x : PacketNext)
  | packetResp (x : PacketNext)
  | packetColl (x : PacketNext)
  | packetControl (x : PacketNext)
  | ferryCellUp (x : CellNext)
  | ferryCellDown (x : CellNext)
  -- engines and collectives (05, 06)
  | chunkIssue (e : EngId)
  | collChunkStart (i : InstId)
  | collPieceSend (x : PieceOf) (chunk : Nat) (level : Fin 16) (member : Nat)
  -- the memory port (17)
  | memReadData (slice : Fin 32) (tag : Fin 512) (poison : Bool) (data : Granule)
  | memWriteVisible (slice : Fin 32) (tag : Fin 512)
  -- the link layer (10)
  | flitReceive (n : StraitId) (rx : RxBits) (tail : FlitEnd)
  | idleFlit (n : StraitId) (rx : RxBits) (parity : BitVec 64)
  | stateFlit (n : StraitId) (rx : RxBits) (parity : BitVec 64)
  | nak (n : StraitId) (rx : RxBits) (parity : BitVec 64)
  | query (n : StraitId) (rx : RxBits) (parity : BitVec 64)
  | dozeReq (n : StraitId) (rx : RxBits) (parity : BitVec 64)
  | dozeAck (n : StraitId) (rx : RxBits) (parity : BitVec 64)
  | calReq (n : StraitId) (rx : RxBits) (parity : BitVec 64)
  | retrainReq (n : StraitId) (rx : RxBits) (parity : BitVec 64)
  | timeFlit (n : StraitId) (rx : RxBits) (parity : BitVec 64) (stamp : Word)
  | nakTimeout (n : StraitId)
  | replayTimeout (n : StraitId)
  | xoffQueryTimeout (n : StraitId)
  | signalLoss (n : StraitId)
  | signalDetect (n : StraitId) (lanes : BitVec 5)
  | trainingComplete (n : StraitId) (r : TrainResult)
  | trainingAttemptFailed (x : Attempt)
  | straitEnable (p : Path) (n : StraitId)
  | straitDisable (p : Path) (n : StraitId)
  | straitCalibrate (p : Path) (n : StraitId) (force : Bool)
  | straitRetrain (p : Path) (n : StraitId) (force : Bool)
  | drainComplete (n : StraitId)
  | drainAbandoned (n : StraitId)
  | calibrationEnd (n : StraitId) (good : BitVec 5) (r : TrainResult)
  | quickIdleExpiry (n : StraitId)
  | dozeReqLapse (n : StraitId)
  | deepIdleExpiry (n : StraitId)
  | offIdleExpiry (n : StraitId)
  | straitWake (n : StraitId)
  | straitWakeDone (n : StraitId)
  | wakeTimeout (n : StraitId)
  | laneAlarmSecond (n : StraitId) (lane : Fin 5)
  | egressPacketStart (n : StraitId)
  -- routing (11)
  | noRouteRechoose
  | routeSeal (p : Path) (b : BankId)
  | routeFlip (p : Path) (b : BankId)
  | bankEntryWrite (p : Path) (b : BankId) (t : BankTarget) (v : Word)
  -- translation (08)
  | invalidateRange (p : Path) (a : Agent) (ctx : Ctx) (seq : BitVec 32)
  | invalidateContext (p : Path) (a : Agent) (ctx : Ctx) (seq : BitVec 32)
  | invalidateAll (p : Path) (a : Agent) (ctx : Ctx) (seq : BitVec 32)
  | invalidationComplete (a : Agent)
  | invalidationBound (a : Agent)
  -- contexts and keys (09)
  | ctxBindWrite (p : Path) (c : Ctx) (valid : Bool) (part : Part)
  | ctxFreeze (p : Path) (c : Ctx)
  | ctxReset (p : Path) (c : Ctx)
  | contextResetDone (c : Ctx)
  | install
  | activate
  | retire
  | retireForce
  | weightInstall
  | weightGrant
  | rangeSet
  | snapshot
  | secCmdUndefined (opcode : Byte)
  -- power (14)
  | pmGrant (id : Fin 8)
  | pmRequestPresent
  | dpClockStop
  | dpClockRunning
  | hostAwakeWrite (p : Path) (v : Word)
  -- scheduling (13)
  | meterHoldRelease (m : MeterId)
  | meterSettingWrite (p : Path) (m : MeterId) (size : Bool) (v : Word)
  | meterCtrlWrite (p : Path) (m : MeterId) (v : Word)
  | tideChange (p : Path) (n : StraitId) (time : Word)
  | tideListSwitch (n : StraitId)
  | tideEntryStart (n : StraitId)
  | timeStep (time : Word)
  | schedQueueSample
  -- the thief (15)
  | sampleCapture
  | pcSample
  | thiefRecordWrite
  | thiefEnable (p : Path) (v : Word)
  | thiefDisable (p : Path) (v : Word)
  | compatBindWrite (p : Path) (k : Fin 8) (v : Word)
  | compatLatch (p : Path) (k : Fin 8)
  -- events (16, 17)
  | msixModerationExpiry (v : Fin 16)
  | evtRingEnable (p : Path) (v : Word)
  | strangerEventWindow
  | staleEpochWindow
  -- the fabric manager (12)
  | fmWrite
  | writeBlock
  | readBlock
  | noticeDiverged
  | noticePeerFault
  | noticeUndefined
  | reportAck
  | reportResend
  -- resets and maintenance (16)
  | engineResetPress (p : Path)
  | engineResetFerry (p : Path)
  | engineResetXlat (p : Path)
  | engineResetDone (u : EngUnit)
  | partitionReset (p : Path) (part : Part)
  | partitionResetDone (part : Part)
  | blockReset (p : Path) (confirm : BitVec 16)
  | blkRstReq
  | blockResetDone
  | porRelease (straps : Word)
  | powerOnReady
  | leesDump (p : Path) (c : Ctx)
  | leesSlotsClear (p : Path) (mask : BitVec 11)
  | maintAcquire (p : Path) (res : Byte)
  | maintRelease (p : Path) (res : Byte)
  | bistStart (p : Path)
  | bistDone (errors firstFail : BitVec 24)
  | quarLift (p : Path) (k : Fin 32)
  | fwActivate (p : Path)
  | fwActivateDone (selfTestOk : Bool)
  | standbySelftestPass (k : Fin 2)
  | cellarerHeartbeatMiss (faultCode : Byte)
  | readStatus
  | svcRead (addr : BitVec 32) (len : Nat)
  | stageBegin
  | svcWrite (addr : BitVec 32) (data : List Byte)
  | stageEnd (len : BitVec 32)
  | stageAbort
  | settingsRecord (words : List Word)
  | settingsNone
  | settingsAck
  | verifyResult (pass : Bool)
  | registerWrite (p : Path) (off : BitVec 24) (size8 : Bool) (v : Word)
  | flitBoundary (x : Boundary)
  | portalResponseTaken (ch : Chan) (txn : BitVec 16)
  | oeReadyRise (n : StraitId)
  | pageHeld
  | undefinedControlFlit (n : StraitId) (rx : RxBits) (parity : BitVec 64)
  | malformedPacket (x : PacketNext)
  deriving DecidableEq, Repr

end Sys2Proof
end

