-- ==== Sys2Proof/Config.lean ====
section
/-!
DEFINITION. What the manual leaves to an implementation or to a published standard it does not
restate. Every constant here is opaque: nothing in Lean can evaluate it, so a claim holds whatever
it is. notes/assumptions/4.md and 5.md say which rule leaves each one open.
-/

namespace Sys2Proof.Config

/-- DESIGN CHOICE (log 4). A free 64-bit value, applied to the counter `free` of the state: what the
servo of R707 decides, which no rule gives. -/
opaque freeWord : Nat → Word

/-- DESIGN CHOICE (log 5). The IEEE 1588-2019 message that a cellarer sends (10_straits_link_layer.md R473), of the
state's counter `free`. -/
opaque timeReply : Nat → BitVec 896

/-- DESIGN CHOICE (log 5). The set of the L2 TLB an entry falls in, of its context, its page size
level and its virtual page (R352: not specified). -/
opaque l2Set : Nat → Nat → Nat → Nat

/-- DESIGN CHOICE (log 5). Which way of a full L2 set a fill replaces (R352 gives no rule). -/
opaque l2Victim : Nat → Nat

/-- DESIGN CHOICE (log 5). SHA-384 of a firmware image (R413). -/
opaque sha384 : List Byte → BitVec 384

/-- DESIGN CHOICE (log 5). SHA-384 of the serialised configuration (R417); the serialisation itself
is not given beyond its list. -/
opaque configHash : List Word → BitVec 384

/-- DESIGN CHOICE (log 5). The version word of an image (FW.STATUS.RUN_VERSION); where it stands in
the image is not given. -/
opaque imageVersion : List Byte → BitVec 32

/-- DESIGN CHOICE (log 5). The VERSION that an image reads for a settings TYPE (R672). -/
opaque imageReads : List Byte → Byte → Byte

/-- DESIGN CHOICE (log 5). The body of a record migrated to the image's own VERSION (R673). -/
opaque migrateBody : List Byte → Byte → List Byte → List Byte

/-- DESIGN CHOICE (log 5). The signature block of an image, up to 128 words (R701 note: its format and place
are not given). -/
opaque imageSignature : List Byte → List Word

/-- DESIGN CHOICE (log 5). The class, the enable and the doze settings that a stored-settings body
of TYPE 3 or 4 holds for a strait: the manual gives the header (Table 16.11), not the body. Bit 0
enable, bits [2:1] which of the classes C, K and O (R421); for TYPE 4 the 64-bit value of STRAIT[n].DOZE; for TYPE 1
the lane map (R450) in bits [11:0]. -/
opaque settingsField : List Byte → Nat → Nat → Word

/-- DESIGN CHOICE (log 5). The stored-settings body of TYPE 1 that holds a strait's good lanes and its lane map (R450):
the manual gives the header, not the body. -/
opaque laneBody : BitVec 5 → BitVec 12 → List Byte

/-- DESIGN CHOICE (log 61). What a VALUE register reads whose SEL leads back to itself through other VALUE
registers (R631 states no value), of the state's counter `free`. -/
opaque selCycle : Nat → Word

end Sys2Proof.Config
end

