-- ==== Sys2Proof/Machine/Operands.lean ====
section
/-!
DEFINITION. Bit fields, byte strings and register words: how the tables of the spec cut a word into
fields. Multi-byte fields are little-endian (00_scope.md R10).
-/

namespace Sys2Proof.Machine

/-- Bits [hi:lo] of a word, as a number. -/
def bits {n : Nat} (w : BitVec n) (hi lo : Nat) : Nat := (w.toNat >>> lo) % 2 ^ (hi + 1 - lo)

/-- Bit i of a word. -/
def bitAt {n : Nat} (w : BitVec n) (i : Nat) : Bool := w.getLsbD i

/-- A word of fields, each given by its least significant bit and its value. -/
def packNat : List (Nat × Nat) → Nat
  | [] => 0
  | (lo, v) :: r => v <<< lo + packNat r

/-- A 64-bit register of fields. -/
def word (fs : List (Nat × Nat)) : Word := BitVec.ofNat 64 (packNat fs)

/-- A 128-bit word of fields. -/
def quad (fs : List (Nat × Nat)) : Quad := BitVec.ofNat 128 (packNat fs)

/-- A number as a 64-bit word. -/
def w64 (n : Nat) : Word := BitVec.ofNat 64 n

/-- `k` bytes of a number, least significant first (R10). -/
def natBytes : Nat → Nat → List Byte
  | 0, _ => []
  | k + 1, n => BitVec.ofNat 8 n :: natBytes k (n / 256)

/-- The number that bytes spell, least significant first (R10). -/
def bytesNat : List Byte → Nat
  | [] => 0
  | b :: r => b.toNat + 256 * bytesNat r

/-- The 64 bytes of a granule. -/
def granBytes (g : Granule) : List Byte := natBytes 64 g.toNat

/-- A granule of at most 64 bytes, from byte `at0`. -/
def granOf (at0 : Nat) (bs : List Byte) : Granule := BitVec.ofNat 512 (bytesNat bs <<< (8 * at0))

/-- Byte i of a byte string; bytes past its end read 0. -/
def byteAt (bs : List Byte) (i : Nat) : Byte := bs.getD i 0

/-- `len` bytes from `off`; bytes past the end read 0. -/
def slice (bs : List Byte) (off len : Nat) : List Byte := (List.range len).map fun i => byteAt bs (off + i)

/-- The mask of `len` byte enables from byte `at0`. -/
def maskOf (at0 len : Nat) : Word := BitVec.ofNat 64 ((2 ^ len - 1) <<< at0)

/-- A granule with the enabled bytes of another. -/
def merge (old new : Granule) (mask : Word) : Granule :=
  granOf 0 ((List.range 64).map fun i =>
    BitVec.ofNat 8 ((if bitAt mask i then new else old).toNat >>> (8 * i)))

/-- The indices below n whose bit is set. -/
def setBits {k : Nat} (n : Nat) (w : BitVec k) : List Nat := (List.range n).filter (bitAt w)

/-- A word whose bit i is `p i`, for i below n. -/
def wordOfBits (n : Nat) (p : Nat → Bool) : Word :=
  w64 ((List.range n).foldl (fun a i => a + ((p i).toNat <<< i)) 0)

/-- A field replaced in a register word. -/
def setField (w : Word) (hi lo v : Nat) : Word :=
  let m : Word := BitVec.ofNat 64 ((2 ^ (hi + 1 - lo) - 1) <<< lo)
  (w &&& ~~~m) ||| (BitVec.ofNat 64 (v <<< lo) &&& m)

/-- The bits [hi:lo] of a register kept, the others 0. -/
def keep (w : Word) (hi lo : Nat) : Word := BitVec.ofNat 64 (bits w hi lo <<< lo)

/-- Division rounded up. -/
def ceilDiv (a b : Nat) : Nat := (a + b - 1) / b

/-- A number as an index below n, when it is one. -/
def finOf (n k : Nat) : Option (Fin n) := if h : k < n then some ⟨k, h⟩ else none

end Sys2Proof.Machine
end

