-- ==== Sys2Proof/Machine/Flags.lean ====
section
/-!
DEFINITION. Status fields and write-one-to-clear flags (00_scope.md R11, R16, R17).
-/

namespace Sys2Proof.Machine

/-- A W1C write: each bit written 1 clears that bit (Table 0.5). -/
def w1c {n : Nat} (old w : BitVec n) : BitVec n := old &&& ~~~w

/-- A flag bit set in a register. -/
def setBit {n : Nat} (old : BitVec n) (i : Nat) : BitVec n := old ||| BitVec.ofNat n (2 ^ i)

/-- A flag bit cleared in a register. -/
def clearBit {n : Nat} (old : BitVec n) (i : Nat) : BitVec n := old &&& ~~~(BitVec.ofNat n (2 ^ i))

/-- The status that a code of Table 0.6 stands for; a code that the table does not list reads ACCESS
(R18: no such code is ever returned). -/
def statusOf (n : Nat) : Status :=
  match n with
  | 0 => .ok | 1 => .busy | 2 => .busyActive | 3 => .busyDraining | 4 => .busyInUse
  | 5 => .noAlternate | 6 => .notReady | 7 => .refusedFit | 8 => .access | 9 => .keyRetired
  | 10 => .dataPoison | 11 => .staleEpoch | 12 => .diverged
  | _ => .access

end Sys2Proof.Machine
end

