-- ==== Sys2Proof/Machine/State.lean ====
section
/-!
DEFINITION. The state of the block: every register field of the spec's register tables, every queue,
buffer and store its rules name, the command queue, and the machine right after reset. INVENTORY.md
lists each with its rule and its reset value. Values that the register tables mark "Set at boot" or
"Strapped" are log 2; values no rule gives are log 3.
-/

namespace Sys2Proof.Machine

/-- Why a step could stop with a fault. There is no reason: every command of the table has an effect
that the spec gives (log 1). Nobody raises one; safe. -/
inductive Fault
  deriving DecidableEq, Repr

/-- Why a command could be refused. -/
inductive Refusal where
  /-- No meaning yet for the command of this mnemonic. Raised by Dispatch alone; safe. -/
  | notModelled (mnemonic : String)
  deriving DecidableEq, Repr

/-! ### Records that leave the block -/

/-- An event entry (Table 16.3). -/
structure EventEntry where
  time : Word
  seq : BitVec 32
  code : Byte
  status : Byte
  ctx : Byte
  unit : Byte
  arg0 : Word
  arg1 : Word
  deriving DecidableEq, Repr

/-- A packet (R476): route word, operation word, payload, extension of Table 11.5. -/
structure Pkt where
  route : Quad
  op : Quad
  payload : List Byte
  ext : Option Word
  deriving DecidableEq, Repr

/-- A ferry cell (R320): header, payload as it travels, tag. -/
structure Cell where
  hdr : Quad
  payload : BitVec 256
  tag : Quad := 0
  deriving DecidableEq, Repr

/-- A packet that the ingress buffer of a strait holds, as a node reads it (R476): the route word and the operation word
of its header, its tag, its payload in plaintext, the extension of Table 11.5 when it carries one, the outcome of the
tag check of check 8, whether a BODY flit is poisoned (check 7), the PHY time of its HEAD flit in 1/16 ns (R635), and
whether a cellar error strikes the accumulator it goes to (Table 6.8). -/
structure Arrival where
  strait : StraitId
  vc : Vc
  id : Nat
  route : Quad
  op : Quad
  tag : Quad
  payload : List Byte
  ext : Option Word
  tagOk : Bool
  psn : Bool
  phy : Word
  hit : Bool
  deriving DecidableEq, Repr

/-- A ferry cell that the ingress buffer of a strait holds, as a node reads it (R320): as it came, its payload in
plaintext, the outcome of the tag check, and whether an uncorrectable cellar error struck it in the ingress buffer
(R339) or strikes the ferry store (Table 7.4). -/
structure CellIn where
  strait : StraitId
  id : Nat
  raw : Cell
  hdr : Quad
  payload : BitVec 256
  tagOk : Bool
  cellarError : Bool
  phy : Word
  store : Bool
  deriving DecidableEq, Repr

/-- A control flit (Table 10.3). -/
structure Ctrl where
  type : Byte
  nakSeq : BitVec 12
  deep : BitVec 16
  off : BitVec 16
  msg : BitVec 896
  deriving DecidableEq, Repr

/-- What left the block on a port that no command acknowledges. -/
inductive PortOut where
  /-- Event ring write (R708): host address, entry, phase bit. -/
  | event (addr : Word) (e : EventEntry) (phase : Bool)
  /-- MSI-X message (R711). -/
  | msix (v : Nat)
  /-- Mailbox message to the RoT (R700). -/
  | mailbox (words : List Word)
  /-- Power-manager request (R601). -/
  | pmRequest (id units : Nat)
  /-- Power-manager return (R603). -/
  | pmReturn (units : Nat)
  /-- A change of pm_alive (R706). -/
  | pmAlive (up : Bool)
  /-- A flit at the PHY of a strait (R429). -/
  | flit (n : Nat) (f : BitVec 1024)
  /-- A codeword of a SerDes strait, by physical lane: its number and its 136 symbols, the first on top (R425). -/
  | codeword (n : Nat) (lanes : List (Nat × BitVec 1360))
  /-- The end of a frame of a causeway: alignment marker, and the parity of each lane (R428). -/
  | frameEnd (n : Nat) (parity : BitVec 64)
  /-- The parameter exchange of a strait (R451): ROLE, NODE, STRAIT, CLASS, LINK_EPOCH and the buffer sizes. -/
  | params (n : Nat) (role : Bool) (node : Node) (strait : Nat) (cls : BitVec 2) (epoch : BitVec 16) (buffer replay : Nat)
  /-- The resume exchange of a strait (R452) and its initial XOFF mask (Table 10.7). -/
  | resume (n : Nat) (sawEpoch : BitVec 16) (expected : BitVec 12) (xoff : BitVec 8)
  /-- A wake signal on a strait's lanes (R463). -/
  | wakeSignal (n : Nat)
  /-- Output of the service port (R703). -/
  | service (bytes : List Byte)
  /-- time_stepped pulsed (R707). -/
  | timeStepped
  deriving DecidableEq, Repr

/-- A write that a command makes to the lees (R642, R644, R645), applied when the command ends. -/
inductive LeesOp where
  | words (off : Nat) (ws : List Word)
  | clear (off len : Nat)
  deriving DecidableEq, Repr

/-! ### Time, clock and power (14, 17) -/

/-- Network time (Table 18.3) and local elapsed time (R568), in ns; `due` the straits on which the cellarers have yet to
send time messages of this second (R473; log 100). -/
structure Clock where
  net : Word := 0
  steps : BitVec 32 := 0
  locked : Bool := false
  srcValid : Bool := false
  src : BitVec 5 := 0
  loc : Nat := 0
  due : BitVec 32 := 0
  deriving DecidableEq, Repr

/-- The states of the datapath clock (R590). -/
inductive DpState where
  | stopped | starting | running
  deriving DecidableEq, Repr

/-- Who needs a draw permit (Table 14.3). -/
inductive PermitWho where
  | press
  | wake
  | bist
  | rack (e : Nat)
  | seq (q : Nat)
  deriving DecidableEq, Repr

/-- A request to the die power manager: waiting (no ID yet) or outstanding (R600). -/
structure PermitReq where
  id : Nat
  who : PermitWho
  units : Nat
  since : Nat
  cancelled : Bool
  deriving DecidableEq, Repr

/-- A register write that waits for the datapath clock (R43). -/
structure HeldWrite where
  path : Path
  off : Nat
  val : Word
  deriving DecidableEq, Repr

/-- The power and clocks block (Table 14.5). -/
structure Power where
  dp : DpState := .stopped
  heldWrites : List HeldWrite := []
  dpIdle : BitVec 32 := 1000
  hostAwake : Word := 0
  held : Nat := 0
  outstanding : List PermitReq := []
  waiting : List PermitReq := []
  grants : Word := 0
  waitNs : Word := 0
  returnedUnused : Word := 0
  dpStarts : Word := 0
  dpStoppedNs : Word := 0
  alive : Bool := true
  deriving DecidableEq, Repr

/-! ### Events and the error log (16, 17) -/

/-- Moderation of one MSI-X vector (R711). -/
structure VecState where
  sent : Option Nat := none
  further : Bool := false
  deriving DecidableEq, Repr

/-- The event unit (Tables 17.17 and 18.3) and the lees registers of Table 16.12. -/
structure EventUnit where
  ringBase : Word := 0
  log2 : BitVec 5 := 0
  head : BitVec 32 := 0
  tail : BitVec 32 := 0
  enable : Bool := false
  completeVec : BitVec 4 := 1
  faultVec : BitVec 4 := 0
  moderation : BitVec 32 := 0
  dropped : Word := 0
  ctlIgnored : Word := 0
  alerts : Word := 0
  vecs : Tbl VecState := []
  logHead : BitVec 32 := 0
  slots : BitVec 11 := 0
  slotSeq : Tbl Nat := []
  dumpSeq : Nat := 0
  overwritten : Word := 0
  leesOps : List LeesOp := []
  deriving DecidableEq, Repr

/-! ### Contexts (02, 04, 05, 08, 09) -/

/-- The states of Table 9.1. -/
inductive CtxSt where
  | unbound | running | frozen | resetting
  deriving DecidableEq, Repr

/-- A translation fault record (Table 8.8). -/
structure FaultRec where
  va : BitVec 57 := 0
  type : BitVec 2 := 0
  cause : BitVec 4 := 0
  status : Byte := 0
  mask : BitVec 21 := 0
  valid : Bool := false
  deriving DecidableEq, Repr

/-- A harbour window (Table 8.9); BASE and LIMIT in 64 KiB units; `withdrawn` counts its withdrawals (R377). -/
structure Window where
  valid : Bool := false
  rd : Bool := false
  wr : Bool := false
  atm : Bool := false
  base : BitVec 34 := 0
  limit : BitVec 34 := 0
  withdrawn : Nat := 0
  deriving DecidableEq, Repr

/-- A window that an access passed its check against: context, window, and how often it had been withdrawn (R377). -/
structure WinRef where
  ctx : Nat
  win : Nat
  serial : Nat
  deriving DecidableEq, Repr

/-- The registers of one context. `keptKeys`: the slots, once for each reference, that uses of this context held when
it froze or that ended since (R385). -/
structure CtxRec where
  valid : Bool := false
  part : Part := 0
  engineMask : BitVec 16 := 0
  st : CtxSt := .unbound
  incarnation : BitVec 8 := 0
  frzSource : Byte := 0
  frzStatus : Byte := 0
  frzCause : Byte := 0
  frzTime : Word := 0
  dropped : Word := 0
  late : Word := 0
  sealTags : Word := 0
  tagLimit : BitVec 14 := 12288
  tagsHeld : Nat := 0
  pfVa : BitVec 57 := 0
  pfValid : Bool := false
  pfRequester : BitVec 10 := 0
  pfKind : BitVec 3 := 0
  pfStatus : Byte := 0
  csumLo : Word := 0
  csumHi : Word := 0
  csumSide : Word := 0
  root : Word := 0
  gen : BitVec 8 := 0
  harbNacks : Word := 0
  overflow : Word := 0
  faults : Tbl FaultRec := []
  windows : Tbl Window := []
  keptKeys : List Nat := []
  deriving DecidableEq, Repr

/-! ### Sequencers and the loader (02, 03) -/

/-- The states of Table 2.3. -/
inductive SeqSt where
  | idle | loading | loaded | running | waiting | halted | frozen
  deriving DecidableEq, Repr

/-- What holds a sequencer at its word (R112, Table 15.4). -/
inductive Hold where
  | none | engine | tag | inst | permit | result | fence | watch | record
  deriving DecidableEq, Repr

/-- One sequencer: the registers of Tables 2.2 and 2.9, its program store and what its program
reserved and started. `permitLent` are the units lent out of its holding, `permitOwed` those lent that the holding
has been lowered by since, which go back to the power manager (R160). `sealed`: its registers that came from a read
under a weight slot (R408): 0 to 15 G, 16 to 19 L, 20 the target of WAIT_INFO. -/
structure Seq where
  ownerValid : Bool := false
  owner : Ctx := 0
  st : SeqSt := .idle
  draining : Bool := false
  ctrlStatus : Byte := 0
  loadAddr : Word := 0
  loadCount : BitVec 32 := 0
  loadWord : BitVec 16 := 0
  loadDetail : Byte := 0
  loadStatus : Byte := 0
  pc : BitVec 11 := 0
  waitTally : BitVec 12 := 0
  waitTarget : Word := 0
  waitPd : BitVec 2 := 0
  crecAddr : Word := 0
  cseq : Word := 0
  faultValid : Bool := false
  faultPc : BitVec 16 := 0
  faultStatus : Byte := 0
  g : Tbl Word := []
  sealed : List Nat := []
  p : BitVec 4 := 0
  l : Tbl (BitVec 32) := []
  level : Byte := 0
  words : List Quad := []
  engines : List Nat := []
  instances : Nat := 0
  instSet : List Nat := []
  groups : List Nat := []
  slotBytes : Nat := 0
  tag : Word := 0
  started : Bool := false
  hold : Hold := .none
  fenceKind : BitVec 4 := 0
  stopPending : Bool := false
  freezePending : Bool := false
  permitHeld : Nat := 0
  permitLent : Nat := 0
  permitOwed : Nat := 0
  awake : Option (BitVec 32) := none
  recBusy : Bool := false
  recEvent : Option EventEntry := none
  deriving DecidableEq, Repr

/-- A granule the loader has read. -/
structure LoadGran where
  data : Granule := 0
  poison : Bool := false
  got : Bool := false
  deriving DecidableEq, Repr

/-- The loader (R68): accepted loads in order, the granules read for the first of them, and
PRESS.GROUP_BASE as it stood when that one began. -/
structure Loader where
  queue : List Nat := []
  base : Word := 0
  grans : Tbl LoadGran := []
  asked : List Nat := []
  deriving DecidableEq, Repr

/-- An increment that is ready (R735). `part` is the sender's partition (R86), `seq` the sequencer whose
transfer or instance it counts, `sig` the one whose SIGNAL to this node it is (R139), `tile` the requester, by
context and requester ID, whose SIGNAL to this node it is (R201). -/
structure Incr where
  ctx : Nat
  idx : Nat
  amount : Nat
  err : Bool
  part : Option Nat
  seq : Option Nat
  sig : Option Nat := none
  tile : Option (Nat × Nat) := none
  deriving DecidableEq, Repr

/-- The tally unit: tally n of context c at key 4096 c + n (R74), and the increments waiting. -/
structure TallyUnit where
  tallies : Tbl Word := []
  incs : List Incr := []
  deriving DecidableEq, Repr

/-! ### The portal (04) -/

/-- A tile request kind with its operands (Table 4.2). -/
inductive TileKind where
  | load (size : BitVec 3)
  | store (mask : Word) (data : Granule) (t : TileTally)
  | atomic (aop : BitVec 3) (atype : BitVec 2) (res : Bool) (operand compare : Word) (t : TileTally)
  | signal (amount : BitVec 16) (t : TileTally)
  | fenceLocal
  | fenceRemote
  deriving DecidableEq, Repr

/-- A tile request as presented on a channel. -/
structure TileReq where
  ch : Chan
  hdr : TileHdr
  kind : TileKind
  deriving DecidableEq, Repr

/-- Who issued a portal request. -/
inductive ReqSrc where
  | tile (ch : Chan) (txn : BitVec 16) (rid : BitVec 10)
  | seq (q : SeqId) (pc : BitVec 11)
  deriving DecidableEq, Repr

/-- What a portal request asks for. `gd` of a sequencer's read or atomic is the G register that takes
the result. -/
inductive ReqOp where
  | read (bytes : Nat)
  | write (mask : Word) (data : Granule)
  | atomic (aop : BitVec 3) (atype : BitVec 2) (res : Bool) (operand compare : Word)
  | signal (amount : BitVec 32) (node : Option (Node × Nat))
  | fence (remote : Bool)
  deriving DecidableEq, Repr

/-- How far a portal request has come (R182). -/
inductive Stage where
  | fenced | xlat | held | noRoute | sent | loop | done
  deriving DecidableEq, Repr

/-- A portal request that holds a tag (R112, R177). `queued`: the queue that its metering at acceptance chose
(R573). -/
structure PReq where
  tag : Nat
  src : ReqSrc
  ctx : Nat
  part : Part
  op : ReqOp
  va : Word
  hint : BitVec 2
  dt : Option (Nat × Bool)
  gd : Nat
  stage : Stage
  key : Option Nat
  weight : Bool
  node : Node
  off : Nat
  dctx : Nat
  queued : Option Nat := none
  deriving DecidableEq, Repr

/-- A response waiting on a response channel (R694). -/
structure PResp where
  ch : Chan
  txn : BitVec 16
  tag : Option Nat
  status : Status
  data : Granule
  deriving DecidableEq, Repr

/-- The portal. `latched`: requests accepted while the clock is stopped (R678). -/
structure Portal where
  reqs : List PReq := []
  heldReqs : List TileReq := []
  latched : List TileReq := []
  resps : List PResp := []
  rr : Nat := 0
  deriving DecidableEq, Repr

/-! ### The memory port and the home node (04, 11, 17) -/

/-- Why a memory-port request was made: what its response completes. -/
inductive MemWhy where
  | loader
  | walk (id : Nat)
  | home (id : Nat)
  | crec (q : Nat)
  | ferryWrite (i : Nat)
  | ackWord (a : Nat)
  | collRead (i chunk : Nat)
  | collWrite (i chunk bytes use : Nat)
  | watchRead (id : Nat)
  | watchWrite (id : Nat)
  | thief (serial : Nat)
  deriving DecidableEq, Repr

/-- A memory-port request (Table 17.6). `addr` is OFFSET bits [49:6]; `wins` the windows that its access passed its
check against, where no home access holds them (R377). -/
structure MemReq where
  write : Bool
  addr : BitVec 44
  hint : BitVec 2
  mask : Word
  data : Granule
  why : MemWhy
  wins : List WinRef := []
  deriving DecidableEq, Repr

/-- An outstanding request: its slice and tag (R685). -/
structure MemOut where
  slice : Nat
  tag : Nat
  req : MemReq
  deriving DecidableEq, Repr

/-- The memory port: outstanding requests, those waiting for a tag or for an atomic's granule, and those refused at
once for a protected range (R405), whose askers are told when the command ends. -/
structure MemPort where
  outstanding : List MemOut := []
  waiting : List MemReq := []
  refused : List MemReq := []
  deriving DecidableEq, Repr

/-- Where a home-node access came from. -/
inductive HomeFrom where
  /-- A loopback portal request holding this tag (R172). -/
  | loop (tag : Nat)
  /-- A packet: its source, SCTX, INCARNATION, REQ_ID, and the slot its key matched. -/
  | remote (src : Node) (sctx : Nat) (inc : BitVec 8) (reqId : BitVec 16) (slot : Nat)
  /-- A chunk of a local engine: engine and in-flight slot. -/
  | chunk (e slot : Nat)
  deriving DecidableEq, Repr

/-- What a home-node access does. -/
inductive HomeWhat where
  | read (bytes : Nat)
  | write
  | atomic (aop : BitVec 3) (atype : BitVec 2) (res : Bool) (operand compare : Word)
  /-- The source read of a FORWARD (R488): its descriptor words and CLEN. -/
  | forward (d0 d1 : Quad) (clen : Nat)
  /-- The writes of a DATA packet or of a local chunk; `ack` is ACK_NODE. -/
  | data (ack : Node) (mismatch : Bool)
  /-- The source read of a LOCAL or PUSH chunk. -/
  | chunkRead
  deriving DecidableEq, Repr

/-- An access in progress at this home node: requests still to be answered, data gathered, tally to
increment, the windows it passed its checks against (R377). `started` of an atomic: its read has been issued (R186). -/
structure HomeOp where
  id : Nat
  origin : HomeFrom
  what : HomeWhat
  dctx : Nat
  part : Part
  off : Nat
  hint : BitVec 2
  dt : Option (Nat × Nat)
  window : Nat
  left : Nat
  grans : Tbl Granule
  side : Option (Nat × Granule)
  poison : Bool
  started : Bool
  old : Word
  wins : List WinRef := []
  deriving DecidableEq, Repr

/-- The home side: accesses in progress and the quarantine list (R215): a valid entry holds OFFSET bits
[49:16]. -/
structure Home where
  ops : List HomeOp := []
  nextId : Nat := 0
  quar : Tbl (Option Nat) := []
  deriving DecidableEq, Repr

/-! ### Racking engines (05) -/

/-- The states of Table 5.2. -/
inductive RackSt where
  | idle | permitWait | running | draining
  deriving DecidableEq, Repr

/-- A transfer (Table 3.10) as queued or running. -/
structure Xfer where
  seq : SeqId
  ctx : Nat
  pc : BitVec 11
  src : Word
  dst : Word
  len : Nat
  dt : Option (Nat × Bool)
  ct : Option Nat
  hint : BitVec 2
  rate : Nat
  weight : Option Nat
  key : Option Nat
  lent : Nat
  asked : Nat
  issued : Nat
  chunks : Nat
  errored : Bool
  firstErr : Byte
  stopped : Bool
  last : Option (Node × Nat)
  maint : Option Nat
  serial : Nat
  deriving DecidableEq, Repr

/-- The chunk kinds of Table 5.1. -/
inductive ChunkKind where
  | locl | push | pull | third
  deriving DecidableEq, Repr

/-- A chunk in flight (R225). -/
structure Chunk where
  slot : Nat
  kind : ChunkKind
  srcVa : Word
  dstVa : Word
  len : Nat
  srcNode : Node
  srcOff : Nat
  srcCtx : Nat
  dstNode : Node
  dstOff : Nat
  dstCtx : Nat
  cs : Nat
  sside : Nat
  dside : Nat
  grans : Tbl Granule
  sum : BitVec 32
  ingest : Option Nat
  tagWins : List WinRef := []
  deriving DecidableEq, Repr

/-- One racking engine (Table 5.5). `rems` are stopped transfers whose remainder waits for a walk (R249); `paceLeft` is the payload that R226 let it issue at local time `paceAt`. -/
structure Rack where
  st : RackSt := .idle
  reservedBy : Option SeqId := none
  run : Option Xfer := none
  queue : List Xfer := []
  inflight : List Chunk := []
  faultValid : Bool := false
  faultPc : BitVec 16 := 0
  faultStatus : Byte := 0
  bytesOut : Word := 0
  chunksOut : Word := 0
  csumMismatch : Word := 0
  mismatchVa : BitVec 57 := 0
  maintValid : Bool := false
  maintEntry : BitVec 5 := 0
  serial : Nat := 0
  rems : List Xfer := []
  paceLeft : Nat := 4096
  paceAt : Nat := 0
  deriving DecidableEq, Repr

/-! ### Groups, the press and the ferry (06, 07) -/

/-- A credit held (R271, R272): the counterpart, the slot, the window position, the level. -/
structure Credit where
  node : Nat
  slot : Nat
  pos : Nat
  level : Nat
  deriving DecidableEq, Repr

/-- The loader's own copy of a claimed group (R261): shape (innermost level first), this node's path,
the leaf node at each path, the fields of R262, the credits held and the start grants received (node,
sequence). `nodes` lists the leaves in the order in which index 1 varies fastest; `ended` the sequences whose
instance ended here before this node issued it (R275, R313). -/
structure Group where
  seq : SeqId
  ctx : Nat
  shape : List Nat
  path : List Nat
  nodes : List Nat
  chunk : Nat
  window : Nat
  slots : Nat
  cls : Nat
  nextSeq : Nat
  credits : List Credit
  grants : List (Nat × Nat)
  ended : List Nat := []
  deriving DecidableEq, Repr

/-- The states of INST[i].ID.STATE (Table 6.10). -/
inductive InstSt where
  | free | permitWait | running | diverged | ending | arrived
  deriving DecidableEq, Repr

/-- An accumulator of a reduce-scatter step (R273, R282): values in the carry format by element, counted
from the start of the chunk, an element that nothing has reached standing at the identity; poisoned
element ranges (first, count); elements arrived from each counterpart; whether the node's own
contribution is in; whether its value has been passed on. -/
structure Acc where
  chunk : Nat
  level : Nat
  vals : Tbl Word
  poison : List (Nat × Nat)
  pieces : List (Nat × Nat)
  own : Bool
  passed : Bool
  deriving DecidableEq, Repr

/-- A piece of result or carried data of a chunk: elements from `first`, packed bytes (elements, then
MX scale bytes), or poisoned; the checksum of the tile that the piece is, and of result tiles that are no
piece, by address (R306). -/
structure Piece where
  first : Nat
  count : Nat
  bytes : List Byte
  poison : Bool
  csum : Option (BitVec 32)
  sums : List (Nat × BitVec 32) := []
  deriving DecidableEq, Repr

/-- How far a chunk has come at this node: translated for an arrival only, its own data being read, its
own data read and under reduction, its own part done. -/
inductive ChunkPhase where
  | early | reading | reducing | own
  deriving DecidableEq, Repr

/-- What a node contributes at a level (R282): the elements from `first`, the poisoned ranges, and whether
its own part has gone into its own accumulator. -/
structure Contrib where
  level : Nat
  first : Nat
  vals : List Word
  poison : List (Nat × Nat)
  own : Bool
  deriving DecidableEq, Repr

/-- A translated 64 KiB page: page, local offset, destination context. -/
structure PagePlace where
  page : Nat
  off : Nat
  dctx : Nat
  deriving DecidableEq, Repr

/-- One chunk of an instance at this node (R283). `read` gathers the node's own contribution by granule of
local memory, `readBad` the poisoned ones; `sent` names the pieces sent, by level and member; `pend` the
gather packets that wait for a start grant (node, level, piece); `src` the translated pages of its source;
`held` the gathered data by the level it came in at, `opened` the levels at which it has been sent on (R280);
`wait` pieces whose write waits for a translation; `written` its result bytes that are counted, of `expect`. -/
structure CollChunk where
  k : Nat
  phase : ChunkPhase
  read : Tbl Granule
  readLeft : Nat
  readBad : List Nat
  contribs : List Contrib
  sent : List (Nat × Nat)
  pend : List (Nat × Nat × Piece)
  src : List PagePlace
  held : List (Nat × Piece) := []
  opened : List Nat := []
  wait : List Piece := []
  written : Nat
  expect : Nat
  deriving DecidableEq, Repr

/-- A collective or ferry instance (Table 6.10). `uses` numbers its uses of translations (R366). -/
structure Inst where
  st : InstSt := .free
  group : Nat := 0
  sequence : Nat := 0
  ctx : Nat := 0
  seq : Nat := 0
  pc : BitVec 11 := 0
  kind : Nat := 0
  issued : Bool := false
  gs : Word := 0
  gd : Word := 0
  count : Nat := 0
  root : Nat := 0
  op : Nat := 0
  ty : Nat := 0
  carry : Bool := false
  rt : Nat := 0
  hint : BitVec 2 := 0
  key : Option Nat := none
  chunksTotal : Nat := 0
  done : Nat := 0
  next : Nat := 0
  rtLeft : Nat := 0
  chunks : List CollChunk := []
  uses : Nat := 0
  accs : List Acc := []
  errored : Bool := false
  writes : Nat := 0
  facc : BitVec 256 := 0
  fpoison : Bool := false
  fups : List Nat := []
  fdown : Bool := false
  ffailed : List (Nat × Nat) := []
  fn : Nat := 0
  fsent : Bool := false
  fdone : Bool := false
  deriving DecidableEq, Repr

/-- The press permit (R289). -/
inductive PressPermit where
  | none | waiting | held
  deriving DecidableEq, Repr

/-- The press and groups block (Table 6.9). Key i of `insts` below 256 is INST[i]; an instance that is finished
but has packets left to send stands at a key from 256 on, outside the table (R154, R318). -/
structure Press where
  groupBase : Word := 0
  permit : PressPermit := .none
  lentBy : Option (Nat × Nat) := none
  elements : Word := 0
  saturated : Word := 0
  csumMismatch : Word := 0
  diverged : Word := 0
  discarded : Word := 0
  ldSequence : BitVec 32 := 0
  ldGroup : BitVec 10 := 0
  ldCause : BitVec 4 := 0
  ldChunk : BitVec 18 := 0
  blocked : Tbl Word := []
  groups : List (Nat × Group) := []
  insts : Tbl Inst := []
  arrivals : List Arrival := []
  deriving DecidableEq, Repr

/-- A copy of a ferry cell that has no eligible strait yet (R332): the cell in plaintext, the path index that spreads it,
the slot that encrypts it. -/
structure CellWait where
  cell : Cell
  index : Nat
  slot : Nat
  deriving DecidableEq, Repr

/-- The ferry block (Table 7.5). -/
structure Ferry where
  planeA : BitVec 32 := 0x303FFFFD
  planeB : BitVec 32 := 0xCFC00002
  cellsOut : Word := 0
  cellsIn : Word := 0
  duplicates : Word := 0
  copyFailed : Word := 0
  strangers : Word := 0
  preemptions : Word := 0
  nonceHigh : BitVec 16 := 0
  waiting : List CellWait := []
  deriving DecidableEq, Repr

/-! ### Translation (08) -/

/-- A TLB entry (R353): context, level of the leaf (2: 1 GiB, 3: 2 MiB, 4: 64 KiB), virtual page in
64 KiB units at the page's start, generation, and the leaf's 64 bits. -/
structure TlbEntry where
  ctx : Nat
  level : Nat
  page : Nat
  gen : BitVec 8
  leaf : Word
  deriving DecidableEq, Repr

/-- Who waits for a walk. `gone`: a requester of group g and mask bit `bit` (Table 8.3) that was refused since (R357). -/
inductive Waiter where
  | portal (tag : Nat)
  | rack (e : Nat)
  | coll (i : Nat)
  | ferry (i : Nat)
  | watch (id : Nat)
  | gone (g bit : Nat)
  deriving DecidableEq, Repr

/-- A walk in progress (R345, R355). -/
structure Walk where
  id : Nat
  ctx : Nat
  page : Nat
  level : Nat
  gen : BitVec 8
  waiters : List (Waiter × Nat × Word)
  deriving DecidableEq, Repr

/-- A live use of a translation (R366). -/
structure Use where
  who : Waiter
  sub : Nat
  ctx : Nat
  gen : BitVec 8
  deriving DecidableEq, Repr

/-- An invalidation register set and the invalidation in progress in it (Table 8.7). -/
structure Inv where
  addr : Word := 0
  units : BitVec 32 := 0
  ackAddr : Word := 0
  seq : BitVec 32 := 0
  frozen : BitVec 16 := 0
  active : Bool := false
  status : Byte := 0
  refSeq : BitVec 32 := 0
  refCount : BitVec 32 := 0
  curSeq : BitVec 32 := 0
  curFrozen : BitVec 16 := 0
  curStatus : Byte := 0
  old : List Use := []
  ctxs : List Nat := []
  order : Nat := 0
  acking : Bool := false
  deriving DecidableEq, Repr

/-- An increment of the generation of a context that waits until `oldest` has no uses (R371), for the start with
this order. -/
structure Delayed where
  order : Nat
  ctx : Nat
  oldest : BitVec 8
  deriving DecidableEq, Repr

/-- The translation block. `delayed`: increments of a generation that wait under R371. -/
structure Xlat where
  l1 : Tbl (List TlbEntry) := []
  l2 : List TlbEntry := []
  walks : List Walk := []
  nextWalk : Nat := 0
  uses : List Use := []
  invs : Tbl Inv := []
  nextOrder : Nat := 0
  delayed : List Delayed := []
  l1Misses : Word := 0
  l2Misses : Word := 0
  walkCount : Word := 0
  coalesced : Word := 0
  invalidations : Word := 0
  deriving DecidableEq, Repr

/-! ### Keys and custody (09) -/

/-- The states of a key slot (R392; SEC.SLOT[k].INFO.STATE). -/
inductive KeySt where
  | empty | staged | current | previous | weight
  deriving DecidableEq, Repr

/-- A key slot (Table 9.9; R395, R322). -/
structure KeySlot where
  st : KeySt := .empty
  key : BitVec 256 := 0
  vintage : BitVec 32 := 0
  setTag : BitVec 16 := 0
  pmask : BitVec 4 := 0
  refs : Nat := 0
  nonce : Nat := 0
  cells : Nat := 0
  high : Bool := false
  deriving DecidableEq, Repr

/-- A protected range (R404). -/
structure WRange where
  valid : Bool := false
  wslot : BitVec 2 := 0
  base : BitVec 34 := 0
  limit : BitVec 34 := 0
  deriving DecidableEq, Repr

/-- The security block (Table 9.9) and the stranger registers (Table 9.8). `strangerMark` is the sum of the counters
at the last stranger event, `strangerMs` the millisecond of network time it fell in (R412). -/
structure Keys where
  arg0 : Word := 0
  arg1 : Word := 0
  arg2 : Word := 0
  key : BitVec 256 := 0
  active : Bool := false
  resRefs : BitVec 32 := 0
  resHolder : Byte := 0
  resStatus : Byte := 0
  slots : Tbl KeySlot := []
  highest : Tbl (BitVec 32) := []
  ranges : Tbl WRange := []
  attGen : BitVec 32 := 0
  attStatus : Byte := 0x06
  attTag : BitVec 2 := 0
  attTime : Word := 0
  attRun : BitVec 384 := 0
  attStaged : BitVec 384 := 0
  attConfig : BitVec 384 := 0
  attStraps : Word := 0
  attScopes : BitVec 4 := 0
  generation : BitVec 32 := 0
  strangers : Tbl Word := []
  lastKind : BitVec 2 := 0
  lastPart : BitVec 2 := 0
  lastNode : Node := 0
  strangerMark : Word := 0
  strangerMs : Option Nat := none
  deriving DecidableEq, Repr

/-! ### Straits (10) -/

/-- The states of Table 10.6. -/
inductive StraitSt where
  | disabled | off | detect | train | up | qdoze | ddoze | retrain | drain | calibrate | failed
  | miswired
  deriving DecidableEq, Repr

/-- A flit held for replay, bit for bit (R434, R438); the route word of its packet, or the header of its cell; whether
it is the packet's last. -/
structure HeldFlit where
  fseq : BitVec 12
  vc : Vc
  image : BitVec 1024
  route : Quad
  last : Bool
  deriving DecidableEq, Repr

/-- A packet in an ingress buffer (R431): its VC, its route word, the flits it needs, the PHY time of its HEAD flit, the
bodies of the flits accepted, each with its PSN (R459), how many of them have been sent on (R500), and whether it has
been taken and waits for the press (R496). -/
structure InPkt where
  id : Nat
  vc : Vc
  route : Quad
  need : Nat
  phy : Word
  flits : List (BitVec 960 × Bool)
  gone : Nat := 0
  taken : Bool := false
  deriving DecidableEq, Repr

/-- A piece of the received stream that no flit has taken yet (R426, R427): its bits, the first on top, and whether its
codeword is uncorrectable. -/
structure RxSeg where
  bad : Bool
  len : Nat
  bits : Nat
  deriving DecidableEq, Repr

/-- How far a strait's wake has come (R606). -/
inductive WakeSt where
  | none | waiting | waking
  deriving DecidableEq, Repr

/-- The maintenance request a strait runs (R467). -/
inductive StraitReq where
  | none | calibrate | retrain
  deriving DecidableEq, Repr

/-- One strait: Table 10.10 and the state of its link layer. `rxSegs` is the received stream, `txBits` the `txLen` bits
of the sent stream that fill no codeword yet; `rxPlace` and `txPlace` the flit's place in its superframe, or its slot in
a causeway's frame, `rxParity` and `txParity` that frame's parity so far (R426, R428). `badRun` counts uncorrectable
codewords in a row (R453). `quiet`: no sequenced flit for QUICK_IDLE (R460). `nakDue`: a NAK goes at the next flit
boundary (R436). `reqWake`: a request waits for the strait's wake (Table 10.8). `tuning` are the equaliser
coefficients. `timeOut` are the last TIME messages sent, with their stamps (R474). -/
structure Strait where
  st : StraitSt := .disabled
  cause : BitVec 4 := 0
  cls : BitVec 2 := 0
  enable : Bool := false
  msHolder : Byte := 0
  msStatus : Byte := 0
  good : BitVec 5 := 0
  map : BitVec 12 := 0x688
  peerValid : Bool := false
  peerRole : Bool := false
  peerCls : BitVec 2 := 0
  peerEpoch : BitVec 16 := 0
  peerStrait : BitVec 5 := 0
  peerNode : Node := 0
  expect : Word := 0
  rtt : BitVec 32 := 0
  rxXoff : BitVec 8 := 0
  xoffNow : BitVec 8 := 0
  txXoff : BitVec 8 := 0
  doze : Word := 0x00000032_00C80001
  tsAsym : BitVec 32 := 0
  laneAlarm : BitVec 32 := 5000000
  flitsOut : Word := 0
  flitsIn : Word := 0
  cwCorrected : Word := 0
  cwUncorrectable : Word := 0
  crcErrors : Word := 0
  naksSent : Word := 0
  replays : Word := 0
  naksStray : Word := 0
  fcOverruns : Word := 0
  linkLosses : Word := 0
  packetsLost : Word := 0
  poisonedFlits : Word := 0
  dozes : Word := 0
  laneSymbols : Tbl Word := []
  laneMark : Tbl Word := []
  -- link state (R434 to R456)
  epoch : BitVec 16 := 0
  nextFseq : BitVec 12 := 0
  expected : BitVec 12 := 0
  acked : Bool := false
  nakWait : Bool := false
  replay : List HeldFlit := []
  replayPos : Option Nat := none
  replayRun : Nat := 0
  replayFrom : BitVec 12 := 0
  ctrl : List Ctrl := []
  ingress : List InPkt := []
  dropVc : List Nat := []
  attempts : Nat := 0
  retraining : Bool := false
  req : StraitReq := .none
  reqHolder : Nat := 0
  forced : Bool := false
  peerDrain : Bool := false
  wake : WakeSt := .none
  wakeUnits : Nat := 0
  dozeSent : Bool := false
  dozeGot : Option (BitVec 16 × BitVec 16) := none
  agreedDeep : BitVec 16 := 0
  agreedOff : BitVec 16 := 0
  oeReady : Bool := true
  oeFault : Bool := false
  timeIn : List (BitVec 896 × Word) := []
  timeOut : List (BitVec 896 × Word) := []
  nextIn : Nat := 0
  rxSegs : List RxSeg := []
  rxPlace : Nat := 0
  rxParity : BitVec 64 := 0
  badRun : Nat := 0
  txBits : Nat := 0
  txLen : Nat := 0
  txPlace : Nat := 0
  txParity : BitVec 64 := 0
  quiet : Bool := false
  nakDue : Bool := false
  reqWake : Bool := false
  tuning : List Byte := []
  peerBuffer : BitVec 16 := 0
  peerReplay : BitVec 16 := 0
  deriving DecidableEq, Repr

/-! ### Routing, egress and scheduling (11, 12, 13) -/

/-- The states of Table 11.12. -/
inductive BankSt where
  | opened | ready | current | old
  deriving DecidableEq, Repr

/-- A route bank (Tables 11.9 and 11.13). -/
structure Bank where
  st : BankSt := .opened
  torus : Bool := false
  dateline : BitVec 32 := 0
  dims : Word := 0
  arrivals : Word := 0
  entries : Tbl Word := []
  deriving DecidableEq, Repr

/-- What a queued packet belongs to: the portal tag or the chunk that waits for it, the answer of this
home with the slot it holds a reference on (R397), or an instance. -/
inductive PktUse where
  | none
  | tag (t : Nat)
  | chunk (e slot : Nat)
  | home (slot : Nat)
  | inst (i : Nat)
  deriving DecidableEq, Repr

/-- A packet in an egress queue, in a hold line or waiting for a route. `epoch` is none until it is
bound (R504). `q` is its queue of Table 13.1, `slot` the key slot that encrypts it, `counted` whether
it has been counted in ROUTE.NO_ROUTE_WAITS, `inVc` the VC it arrived on (R498), `fwd` the packet in the ingress buffer
of `inStrait` that a forwarded one sends on (R500), `frame` a packet of this node as encrypted (R499). -/
structure QPkt where
  pkt : Pkt
  q : Nat
  vc : Vc
  slot : Option Nat
  epoch : Option Bool
  use : PktUse
  forwarded : Bool
  inStrait : Nat
  since : Nat
  high : Bool
  counted : Bool
  inVc : Vc := 0
  fwd : Option Nat := none
  frame : List Byte := []
  deriving DecidableEq, Repr

/-- The packet in progress on a strait: flits sent of those it has. -/
structure Cur where
  qp : QPkt
  sent : Nat
  flits : Nat
  deriving DecidableEq, Repr

/-- A shaper's register (SHAPE) and ullage in 1/16 B (R568). `frac` holds the part of an accrual below
1/16 B, in 1/1000. -/
structure Shaper where
  shape : Word := 65536
  ullage : Int := 0x100000
  frac : Nat := 0
  last : Nat := 0
  deriving DecidableEq, Repr

/-- The egress of one strait (13). -/
structure Egress where
  queues : Tbl (List QPkt) := []
  s : Tbl (BitVec 48) := []
  f : Tbl (BitVec 48) := []
  elig : List Nat := []
  v : BitVec 48 := 0
  cur : Option Cur := none
  cells : List Cell := []
  ovh : Word := 0x010000F8
  strait : Shaper := {}
  parts : Tbl Shaper := []
  deriving DecidableEq, Repr

/-- A sample of one queue (R588). -/
structure QSample where
  depth : BitVec 32 := 0
  delay : BitVec 32 := 0
  deriving DecidableEq, Repr

/-- The scheduler registers (Table 13.8). `sampled` numbers the period whose sample has been written (R588). -/
structure Sched where
  samplePeriod : BitVec 32 := 10000
  sampleSeq : Word := 0
  sampled : Option Nat := none
  resetDiscards : Word := 0
  cfg : Tbl (Option Word) := []
  samples : Tbl QSample := []
  delays : Tbl Nat := []
  deriving DecidableEq, Repr

/-- A meter (Table 13.9, R574): buckets in milli-bytes. -/
structure Meter where
  ctrl : Word := 0
  rate : Word := 0
  size : Word := 0
  green : Word := 0
  yellow : Word := 0
  red : Word := 0
  refused : Word := 0
  tc : Nat := 0
  te : Nat := 0
  last : Nat := 0
  hold : List QPkt := []
  deriving DecidableEq, Repr

/-- The tide table of a strait (R578, Table 13.10). `began` is the network time at which the entry in STATUS
began (R579). -/
structure Tide where
  enable : Bool := false
  adminBase : Word := 0
  adminCycle : Word := 0
  admin : Tbl Word := []
  oper : Tbl Word := []
  operBase : Word := 0
  operCycle : Word := 0
  operValid : Bool := false
  pending : Bool := false
  switchTime : Word := 0
  cycles : BitVec 32 := 0
  entry : BitVec 6 := 0
  status : Byte := 0
  began : Word := 0
  deriving DecidableEq, Repr

/-- The router (Table 11.13). `waiting`: packets without a route (R509). `exhausted`: uses that found
their slot's packet counter exhausted (R395), to be failed when the command ends (R740). `staleMark` and `staleMs`:
the counter at the last STALE_EPOCH event, and its millisecond (R520). `left`: straits that have left the eligible set
in this command, whose queued packets are chosen again when it ends (R508). -/
structure Route where
  self : Node := 0
  status : Byte := 0
  banks : Tbl Bank := []
  spillAt : BitVec 20 := 16384
  staleEpoch : Word := 0
  staleBit : Bool := false
  staleNode : Node := 0
  staleMark : Word := 0
  staleMs : Option Nat := none
  misdelivered : Word := 0
  malformed : Word := 0
  hopLimit : Word := 0
  unreachable : Word := 0
  noRouteWaits : Word := 0
  forwarded : Word := 0
  controlDrops : Word := 0
  ptr : Nat := 0
  exhausted : List (Nat × PktUse) := []
  waiting : List QPkt := []
  left : List Nat := []
  deriving DecidableEq, Repr

/-- A control message in the control queue (R541). -/
structure CtlMsg where
  src : Node
  epoch : Bool
  w0 : Quad
  w1 : Quad
  body : List Byte
  deriving DecidableEq, Repr

/-- A report that no source has acknowledged (R552). -/
structure Report where
  seq : Nat
  code : Byte
  arg : BitVec 96
  deriving DecidableEq, Repr

/-- The fabric manager registers (Table 12.7), the control queue and the records of R544. `heldReports`: reports of a
boot, which NODE_READY goes before (Table 12.5): code and fields. -/
structure Fabric where
  sources : Tbl Word := []
  hostLock : Bool := false
  high : Word := 0
  applied : Word := 0
  duplicates : Word := 0
  tooOld : Word := 0
  rejected : Word := 0
  reportSeq : Word := 0
  reportsLost : Word := 0
  members : Tbl Word := []
  queue : List CtlMsg := []
  record : List (Nat × Byte × Nat) := []
  reports : List Report := []
  heldReports : List (Nat × List (Nat × Nat)) := []
  deriving DecidableEq, Repr

/-! ### The thief (15) -/

/-- A watch (Table 15.7). -/
structure Watch where
  ctrl : Word := 0
  captures : Word := 0
  deriving DecidableEq, Repr

/-- A compatibility set (Table 15.8); `base` is BASE of R630, `selNow` the counters that VALUE counts until
the next boundary (R631); `before` and `selBefore` those in force before the boundary of the command just
done (R633), when `boundary` is set. -/
structure Compat where
  bind : Word := 0
  snapSeq : BitVec 32 := 0
  snapBoundary : Bool := false
  snapTime : Word := 0
  sel : Tbl Word := []
  selNow : Tbl Word := []
  selBefore : Tbl Word := []
  base : Tbl Word := []
  before : Tbl Word := []
  snap : Tbl Word := []
  boundary : Bool := false
  deriving DecidableEq, Repr

/-- A staged record: its granules, and how many of its writes are not yet visible (R612). -/
structure Staged where
  serial : Nat
  grans : List Granule
  issued : Bool
  left : Nat
  deriving DecidableEq, Repr

/-- A copy of an accepted WATCH (R628): it waits for its translation until `asked`; then `srcs` are the
granules of its source in order, `left` the reads still out, `writesLeft` the granules of the watch buffer
not yet visible, `time` when the source read completed, and until then when its word issued. `noSpace`: the
watch buffer had too few free granules at issue. -/
structure WatchCopy where
  id : Nat
  seq : SeqId
  ctx : Nat
  watch : Nat
  step : Nat
  ga : Word
  len : Nat
  pc : Nat
  index : Nat
  asked : Bool
  srcs : List Nat
  left : Nat
  writesLeft : Nat
  time : Word
  noSpace : Bool
  deriving DecidableEq, Repr

/-- The thief (Tables 15.6 to 15.8). -/
structure Thief where
  ctrl : BitVec 6 := 0
  ringBase : Word := 0
  ringSize : Word := 0
  head : BitVec 32 := 0
  tail : BitVec 32 := 0
  samplePeriod : BitVec 32 := 100000
  pcPeriod : BitVec 32 := 10000
  pcMask : Word := 0
  traceCtrl : Word := 0
  matchShift : BitVec 6 := 20
  records : Word := 0
  dropped : Word := 0
  watchBase : Word := 0
  watchSize : BitVec 32 := 0
  watchHead : BitVec 32 := 0
  watchTail : BitVec 32 := 0
  seq : BitVec 32 := 0
  above : Bool := false
  staged : List Staged := []
  nextSerial : Nat := 0
  watches : Tbl Watch := []
  list : Tbl Word := []
  compats : Tbl Compat := []
  copies : List WatchCopy := []
  nextCopy : Nat := 0
  deriving DecidableEq, Repr

/-- Utilisation counters of one strait (Table 15.9). -/
structure UtilStrait where
  up : Word := 0
  qdoze : Word := 0
  ddoze : Word := 0
  off : Word := 0
  train : Word := 0
  deriving DecidableEq, Repr

/-- Utilisation counters (Table 15.9). -/
structure Util where
  straits : Tbl UtilStrait := []
  cellarCorrected : Word := 0
  cellarUncorrectable : Word := 0
  portalRequests : Word := 0
  tallyIncrements : Word := 0
  atomics : Word := 0
  dxiWords : Word := 0
  deriving DecidableEq, Repr

/-! ### Resets, maintenance, firmware (16, 17) -/

/-- RST.CELLARER[k].ROLE. -/
inductive Role where
  | booting | active | standby | failed
  deriving DecidableEq, Repr

/-- A cellarer (Table 16.12). -/
structure Cellarer where
  role : Role := .booting
  faultCode : Byte := 0
  selftests : BitVec 32 := 0
  lastPass : Nat := 0
  deriving DecidableEq, Repr

/-- A maintenance token (R655, R657): holder 0 is none. -/
structure Token where
  holder : Nat := 0
  explicit : Bool := false
  deriving DecidableEq, Repr

/-- MAINT.STATUS[h]. -/
structure MaintStatus where
  holder : Byte := 0
  resource : Byte := 0
  status : Byte := 0
  deriving DecidableEq, Repr

/-- FW.STATUS.B_STATE. -/
inductive BSlot where
  | empty | staging | staged | bad | booting
  deriving DecidableEq, Repr

/-- What the outstanding mailbox message asked for (Table 17.10). -/
inductive Mbox where
  | read (type strait : Nat)
  | write (type strait : Nat) (body : List Byte)
  | verify
  deriving DecidableEq, Repr

/-- How far a block reset or a power-on has come (Tables 16.7 and 17.3): the cellarers boot a staged image
(`verifying`) or the running one (`booting`), then load the stored settings; `done` waits for the straits. -/
inductive Boot where
  | idle | powerUp | waitImage | verifying | booting | settings | done
  deriving DecidableEq, Repr

/-- The reset and maintenance block (Table 16.12), cellarers, firmware, service port and mailbox. `pages` holds
the 256 B pages written into the B slot; `settings` the stored-settings bodies in use, at key 256 TYPE + STRAIT;
`cold` that the boot is a power-on; `actHolder` who asked for the activation. -/
structure Maint where
  frozen : BitVec 16 := 0
  status : Byte := 0
  block : Bool := false
  cause : Nat := 0
  blockResets : Nat := 0
  parts : List Nat := []
  engines : List EngUnit := []
  cellarers : Tbl Cellarer := []
  failovers : Word := 0
  restarting : Bool := false
  lost : Bool := false
  tokens : Tbl Token := []
  mstatus : Tbl MaintStatus := []
  bistErrors : BitVec 24 := 0
  bistFirst : BitVec 24 := 0
  bistState : BitVec 2 := 0
  bistStatus : Byte := 0
  bistHolder : Nat := 0
  bistWaiting : Bool := false
  runVersion : BitVec 32 := 0
  runImage : List Byte := []
  bState : BSlot := .empty
  fwStatus : Byte := 0
  stagedVersion : BitVec 32 := 0
  settingsDiscarded : Word := 0
  pages : Tbl (List Byte) := []
  imageLen : Nat := 0
  activating : Bool := false
  actHolder : Nat := 0
  verified : Option Bool := none
  svcLast : Byte := 0
  svcBusy : Bool := false
  mbox : Option Mbox := none
  mboxQueue : List (List Word × Mbox) := []
  boot : Boot := .idle
  cold : Bool := false
  settings : Tbl (List Byte) := []
  straps : Word := 0xFFFFFFFF_00000000
  quarStatus : Byte := 0
  quarEntered : Word := 0
  deriving DecidableEq, Repr

/-! ### The whole -/

/-- Everything of the block but the command queue and the lees store. `stopped` is the sequencer that a STOP
reached in the cycle at hand (R61; log 90), `kicked` that a start cause of the clock fell in it (R592). -/
structure Block where
  out : List PortOut := []
  free : Nat := 0
  stopped : Option SeqId := none
  kicked : Bool := false
  time : Clock := {}
  pwr : Power := {}
  evt : EventUnit := {}
  ctxs : Tbl CtxRec := []
  seqs : Tbl Seq := []
  loader : Loader := {}
  tally : TallyUnit := {}
  portal : Portal := {}
  mem : MemPort := {}
  home : Home := {}
  racks : Tbl Rack := []
  press : Press := {}
  ferry : Ferry := {}
  xlat : Xlat := {}
  keys : Keys := {}
  straits : Tbl Strait := []
  egress : Tbl Egress := []
  route : Route := {}
  fm : Fabric := {}
  sched : Sched := {}
  meters : Tbl Meter := []
  tides : Tbl Tide := []
  thief : Thief := {}
  util : Util := {}
  maint : Maint := {}
  deriving DecidableEq, Repr

/-- The state of the machine: the commands waiting, first in, first out; the lees, the block's 2 MiB
of retained SRAM, as bytes by offset (R643; an unlisted byte reads 0, R646); and the rest. -/
structure State where
  pending : List Instr
  lees : List Host.Cell
  blk : Block
  deriving DecidableEq, Repr

/-- Class of strait n at reset: M for straits 0 and 1 (R421). DESIGN CHOICE (log 2): straits 2 to 31
take the classes the manual gives for Shotrum (Table 10.1 text). -/
def shotrumClass (n : Nat) : BitVec 2 :=
  if n < 2 then 0 else if n < 16 then 1 else if n < 28 then 2 else 3

/-- The straits at reset: each with its class, every other field at its reset value. The pin oe_ready of
a class O strait has not risen yet; a class C or K strait ties it to 1 (R698; log 2). -/
def resetStraits : Tbl Strait :=
  (List.range' 2 30).map fun n => (n, { cls := shotrumClass n, oeReady := shotrumClass n != 3 })

/-- The block right after reset. -/
def Block.reset : Block := { straits := resetStraits }

/-- The machine right after reset (R723): every register at its Reset column, the lees cleared, no
command waiting. -/
def State.reset : State := { pending := [], lees := [], blk := Block.reset }

end Sys2Proof.Machine
end

