-- ==== Sys2Proof/Machine/Ops.lean ====
section
/-!
DEFINITION. The named operations over the state: tables, the lees memory, access to one context,
sequencer, engine, strait and so on, and what a command does as a whole (`State.run`).
-/

namespace Sys2Proof.Machine

/-! ### Tables -/

/-- The entry of a table at a key; an unlisted key reads `d`. -/
def tget {α : Type} (d : α) : Tbl α → Nat → α
  | [], _ => d
  | (k, v) :: r, n => if n = k then v else tget d r n

/-- A table with one entry set. -/
def tset {α : Type} : Tbl α → Nat → α → Tbl α
  | [], n, x => [(n, x)]
  | (k, v) :: r, n, x =>
    if n < k then (n, x) :: (k, v) :: r
    else if n = k then (n, x) :: r
    else (k, v) :: tset r n x

/-- A table with one entry changed. -/
def tmod {α : Type} (d : α) (t : Tbl α) (n : Nat) (f : α → α) : Tbl α := tset t n (f (tget d t n))

/-- A table without one entry. -/
def tdel {α : Type} (t : Tbl α) (n : Nat) : Tbl α := t.filter fun e => e.1 != n

/-! ### The lees memory (R643, R646) -/

/-- Bytes of the lees. -/
def leesBytes : Nat := 0x200000

/-- One byte of the lees; a byte that nothing has written reads 0 (R646). -/
def lget (m : List Host.Cell) (a : Nat) : Byte := tget 0 m a

/-- One byte of the lees written, in canonical form; an address outside the lees is not written. -/
def lput : List Host.Cell → Nat → Byte → List Host.Cell
  | [], n, x => if x = 0 then [] else [(n, x)]
  | (k, v) :: r, n, x =>
    if n < k then (if x = 0 then (k, v) :: r else (n, x) :: (k, v) :: r)
    else if n = k then (if x = 0 then r else (n, x) :: r)
    else (k, v) :: lput r n x

/-- One byte of the lees written. -/
def lset (m : List Host.Cell) (a : Nat) (v : Byte) : List Host.Cell :=
  if a < leesBytes then lput m a v else m

/-- Bytes written from an address on. -/
def lputs (m : List Host.Cell) (a : Nat) : List Byte → List Host.Cell
  | [] => m
  | b :: r => lputs (lset m a b) (a + 1) r

/-- A range cleared to 0. -/
def lclear (m : List Host.Cell) (off len : Nat) : List Host.Cell :=
  m.filter fun c => decide (c.1 < off ∨ off + len ≤ c.1)

/-- The 64-bit word at an offset of the lees (R10). -/
def lword (m : List Host.Cell) (a : Nat) : Word :=
  w64 (bytesNat ((List.range 8).map fun i => lget m (a + i)))

/-- One write of a command to the lees. -/
def leesApply (m : List Host.Cell) : LeesOp → List Host.Cell
  | .words off ws => lputs m off (ws.flatMap fun w => natBytes 8 w.toNat)
  | .clear off len => lclear m off len

/-- The keys of a memory rise strictly. -/
def keysRise : List Host.Cell → Bool
  | [] => true
  | [_] => true
  | a :: b :: r => decide (a.1 < b.1) && keysRise (b :: r)

/-- The canonical form of the lees memory: addresses strictly rising and inside the lees, no byte 0. -/
def Memory.wf (m : List Host.Cell) : Bool :=
  keysRise m && m.all fun c => decide (c.1 < leesBytes) && decide (c.2 ≠ 0)

/-! ### What a command does -/

/-- A command: `f` acts on the block, whose output record starts empty; then the writes that the
command made to the lees are applied. The queue of waiting commands stays as it is. -/
def State.run (f : Block → Block) (s : State) : State :=
  let b := f { s.blk with out := [] }
  { s with
    lees := b.evt.leesOps.foldl leesApply s.lees
    blk := { b with evt := { b.evt with leesOps := [] } } }

/-! ### Access to the parts -/

/-- Context c. -/
def Block.ctx (b : Block) (c : Nat) : CtxRec := tget {} b.ctxs c
/-- Context c changed. -/
def Block.modCtx (b : Block) (c : Nat) (f : CtxRec → CtxRec) : Block :=
  { b with ctxs := tmod {} b.ctxs c f }
/-- Sequencer q. -/
def Block.seq (b : Block) (q : Nat) : Seq := tget {} b.seqs q
/-- Sequencer q changed. -/
def Block.modSeq (b : Block) (q : Nat) (f : Seq → Seq) : Block :=
  { b with seqs := tmod {} b.seqs q f }
/-- Racking engine e. -/
def Block.rack (b : Block) (e : Nat) : Rack := tget {} b.racks e
/-- Racking engine e changed. -/
def Block.modRack (b : Block) (e : Nat) (f : Rack → Rack) : Block :=
  { b with racks := tmod {} b.racks e f }
/-- Strait n. -/
def Block.strait (b : Block) (n : Nat) : Strait := tget {} b.straits n
/-- Strait n changed. -/
def Block.modStrait (b : Block) (n : Nat) (f : Strait → Strait) : Block :=
  { b with straits := tmod {} b.straits n f }
/-- The egress of strait n. -/
def Block.eg (b : Block) (n : Nat) : Egress := tget {} b.egress n
/-- The egress of strait n changed. -/
def Block.modEg (b : Block) (n : Nat) (f : Egress → Egress) : Block :=
  { b with egress := tmod {} b.egress n f }
/-- Meter m. -/
def Block.meter (b : Block) (m : Nat) : Meter := tget {} b.meters m
/-- Meter m changed. -/
def Block.modMeter (b : Block) (m : Nat) (f : Meter → Meter) : Block :=
  { b with meters := tmod {} b.meters m f }
/-- The tide table of strait n. -/
def Block.tide (b : Block) (n : Nat) : Tide := tget {} b.tides n
/-- The tide table of strait n changed. -/
def Block.modTide (b : Block) (n : Nat) (f : Tide → Tide) : Block :=
  { b with tides := tmod {} b.tides n f }
/-- Instance i. -/
def Block.inst (b : Block) (i : Nat) : Inst := tget {} b.press.insts i
/-- Instance i changed. -/
def Block.modInst (b : Block) (i : Nat) (f : Inst → Inst) : Block :=
  { b with press := { b.press with insts := tmod {} b.press.insts i f } }
/-- Key slot k. -/
def Block.slot (b : Block) (k : Nat) : KeySlot := tget {} b.keys.slots k
/-- Key slot k changed. -/
def Block.modSlot (b : Block) (k : Nat) (f : KeySlot → KeySlot) : Block :=
  { b with keys := { b.keys with slots := tmod {} b.keys.slots k f } }
/-- Invalidation register set a. -/
def Block.inv (b : Block) (a : Nat) : Inv := tget {} b.xlat.invs a
/-- Invalidation register set a changed. -/
def Block.modInv (b : Block) (a : Nat) (f : Inv → Inv) : Block :=
  { b with xlat := { b.xlat with invs := tmod {} b.xlat.invs a f } }
/-- Route bank k. -/
def Block.bank (b : Block) (k : Nat) : Bank := tget {} b.route.banks k
/-- Route bank k changed. -/
def Block.modBank (b : Block) (k : Nat) (f : Bank → Bank) : Block :=
  { b with route := { b.route with banks := tmod {} b.route.banks k f } }
/-- Watch w of the thief. -/
def Block.watch (b : Block) (w : Nat) : Watch := tget {} b.thief.watches w
/-- Compatibility set k. -/
def Block.compat (b : Block) (k : Nat) : Compat := tget {} b.thief.compats k
/-- Compatibility set k changed. -/
def Block.modCompat (b : Block) (k : Nat) (f : Compat → Compat) : Block :=
  { b with thief := { b.thief with compats := tmod {} b.thief.compats k f } }
/-- Cellarer k. -/
def Block.cellarer (b : Block) (k : Nat) : Cellarer := tget {} b.maint.cellarers k
/-- Cellarer k changed. -/
def Block.modCellarer (b : Block) (k : Nat) (f : Cellarer → Cellarer) : Block :=
  { b with maint := { b.maint with cellarers := tmod {} b.maint.cellarers k f } }
/-- Tally n of context c (R74). -/
def Block.tallyOf (b : Block) (c n : Nat) : Word := tget 0 b.tally.tallies (4096 * c + n)
/-- Tally n of context c set. -/
def Block.setTally (b : Block) (c n : Nat) (v : Word) : Block :=
  { b with tally := { b.tally with tallies := tset b.tally.tallies (4096 * c + n) v } }

/-- Something put on a port. -/
def Block.emit (b : Block) (o : PortOut) : Block := { b with out := b.out ++ [o] }

/-- A fresh free value (log 4): the opaque constant at the state's counter, which advances. -/
def Block.fresh (b : Block) : Word × Block := (Config.freeWord b.free, { b with free := b.free + 1 })

/-- A fold over indices. -/
def Block.each {α : Type} (l : List α) (f : α → Block → Block) (b : Block) : Block :=
  l.foldl (fun b x => f x b) b

/-! ### The clock of the datapath (14) -/

/-- The datapath clock is RUNNING. -/
def Block.dpRuns (b : Block) : Bool := b.pwr.dp == .running

/-- A start cause of R42 falls in this cycle (R592). -/
def kick (b : Block) : Block := { b with kicked := true }

/-- A start cause of R42: a STOPPED clock becomes STARTING (R590). -/
def startClock (b : Block) : Block :=
  if b.pwr.dp == .stopped then
    kick { b with pwr := { b.pwr with dp := .starting, dpStarts := b.pwr.dpStarts + 1 } }
  else kick b

/-! ### Permits toward the die power manager (R599 to R603) -/

/-- A need for units, which waits to be presented (R600). -/
def askPermit (who : PermitWho) (units : Nat) (b : Block) : Block :=
  { b with pwr := { b.pwr with
    waiting := b.pwr.waiting ++ [{ id := 0, who, units, since := 0, cancelled := false }] } }

/-- The operations that asked and match `p` are cancelled: their requests stay (R602). -/
def cancelPermits (p : PermitWho → Bool) (b : Block) : Block :=
  let f (r : PermitReq) : PermitReq := if p r.who then { r with cancelled := true } else r
  { b with pwr := { b.pwr with outstanding := b.pwr.outstanding.map f, waiting := b.pwr.waiting.map f } }

/-- A return of units, as its own message (R603). -/
def returnUnits (units : Nat) (b : Block) : Block :=
  if units = 0 then b
  else { b with pwr := { b.pwr with held := b.pwr.held - units }, out := b.out ++ [.pmReturn units] }

/-! ### Events (16, 17) -/

/-- The 64 B of an event entry as eight words (Table 16.3); bit 0 of byte 32 is PHASE in the ring
(R708) and 0 in the log. -/
def eventWords (e : EventEntry) : List Word :=
  [e.time,
   word [(0, e.seq.toNat), (32, e.code.toNat), (40, e.status.toNat), (48, e.ctx.toNat), (56, e.unit.toNat)],
   e.arg0, e.arg1, 0, 0, 0, 0]

/-- The MSI-X message of one ring entry, under moderation (R711). -/
def msixFor (v : Nat) (b : Block) : Block :=
  let st := tget ({} : VecState) b.evt.vecs v
  let free := match st.sent with
    | none => true
    | some t => decide (t + b.evt.moderation.toNat ≤ b.time.loc)
  if free then
    { b with
      evt := { b.evt with vecs := tset b.evt.vecs v { sent := some b.time.loc, further := false } }
      out := b.out ++ [.msix v] }
  else { b with evt := { b.evt with vecs := tset b.evt.vecs v { st with further := true } } }

/-- An entry offered to the event ring (R708, R710). -/
def ringWrite (e : EventEntry) (b : Block) : Block :=
  if b.evt.enable then
    if (b.evt.head - b.evt.tail).toNat = 2 ^ b.evt.log2.toNat then
      { b with evt := { b.evt with dropped := b.evt.dropped + 1 } }
    else
      let n := b.evt.head.toNat
      let addr := b.evt.ringBase + w64 (n % 2 ^ b.evt.log2.toNat * 64)
      let phase := (n >>> b.evt.log2.toNat) % 2 == 0
      let b := { b with
        evt := { b.evt with head := b.evt.head + 1 }
        out := b.out ++ [.event addr e phase] }
      msixFor (if e.code = 0x20 then b.evt.completeVec.toNat else bits b.evt.faultVec 3 0) b
  else b

/-- An event is raised (R640, R725): its alert is set, it is logged unless it is COMPLETE, and it is
offered to the ring. -/
def raiseEvent (code status ctx unit : Nat) (arg0 arg1 : Word) (b : Block) : Block :=
  let e : EventEntry :=
    { time := b.time.net, seq := b.evt.logHead, code := BitVec.ofNat 8 code,
      status := BitVec.ofNat 8 status, ctx := BitVec.ofNat 8 ctx, unit := BitVec.ofNat 8 unit, arg0, arg1 }
  let ev := { b.evt with alerts := setBit b.evt.alerts code }
  let ev := if code = 0x20 then ev else
    { ev with
      leesOps := ev.leesOps ++ [.words (0x010000 + ev.logHead.toNat % 8192 * 64) (eventWords e)]
      logHead := ev.logHead + 1 }
  ringWrite e { b with evt := ev }

/-! ### Tallies (02) -/

/-- An increment that is ready (R735), to be applied by the tally unit. -/
def enqueueIncr (i : Incr) (b : Block) : Block :=
  { b with tally := { b.tally with incs := b.tally.incs ++ [i] } }

end Sys2Proof.Machine
end

