-- ==== Sys2Proof/Machine/Clock.lean ====
section
/-!
DEFINITION. One cycle of the always-on clock (01_architecture.md Table 1.4: 100 MHz, so 10 ns), which
is what a step does when no command waits (log 9, DESIGN CHOICE).
-/

namespace Sys2Proof.Machine

/-- Which time counter of UTIL.STRAIT[n] runs in a strait state (15_counters_sampling_tracing.md
Table 15.9). -/
def utilStep (st : StraitSt) (u : UtilStrait) : UtilStrait :=
  match st with
  | .up => { u with up := u.up + 10 }
  | .qdoze => { u with qdoze := u.qdoze + 10 }
  | .ddoze => { u with ddoze := u.ddoze + 10 }
  | .off => { u with off := u.off + 10 }
  | .detect | .train | .retrain | .drain | .calibrate => { u with train := u.train + 10 }
  | .disabled | .failed | .miswired => u

/-- The cycle of a boundary is over: no compatibility set stands in it any more (R633; log 90). -/
def newBoundary (b : Block) : Block :=
  { b with thief := { b.thief with compats := b.thief.compats.map fun x => (x.1, { x.2 with boundary := false }) } }

/-- A new cycle: the last boundary, the last STOP and the last start cause lie in an earlier one (R633, R61, R592;
log 90). -/
def newCycle (b : Block) : Block := { newBoundary b with stopped := none, kicked := false }

/-- The network time that comes after 10 ns begins a second (log 100). -/
def secondBegins (net : Word) : Bool := decide (net.toNat / 1000000000 ≠ (net.toNat + 10) / 1000000000)

/-- 10 ns pass: network time (R707), local time, UTIL.STRAIT[n] (Table 15.9), PWR.DP_STOPPED_NS
(Table 14.5); with a second of network time the cellarers have time messages to send (R473; log 100). -/
def tick (b : Block) : Block :=
  let straits := (List.range 32).foldl
    (fun t n => tmod {} t n (utilStep (b.strait n).st)) b.util.straits
  { b with
    time := { b.time with net := b.time.net + 10, loc := b.time.loc + 10
                          due := if secondBegins b.time.net then ~~~0 else b.time.due }
    pwr := if b.pwr.dp == .stopped then { b.pwr with dpStoppedNs := b.pwr.dpStoppedNs + 10 } else b.pwr
    util := { b.util with straits } }

/-- A step on an empty queue. -/
def execTick (s : State) : Host.Outcome State Fault Refusal := .next (s.run fun b => tick (newCycle b))

end Sys2Proof.Machine
end

