-- ==== Sys2Proof/Machine/Float.lean ====
section
/-!
DEFINITION. Arithmetic: binary floating point rounded to nearest, ties to even, with subnormals
(03_dxi_reference.md R132, 06_groups_collectives_press.md R294 to R299), integers, the atomic unit
(R130), the element types and carry formats of the press (Tables 3.12, 6.4, 6.6), MX blocks (R295 to
R297) and the ferry's lanes (R155, R330).
-/

namespace Sys2Proof.Machine

/-! ### Formats -/

/-- A floating-point format: exponent and mantissa bits, whether it has infinities, its canonical NaN
(2^(bits − 1) where it has none), its largest finite code; codes without sign. -/
structure Fmt where
  e : Nat
  m : Nat
  inf : Bool
  nan : Nat
  top : Nat

def fp64 : Fmt := { e := 11, m := 52, inf := true, nan := 0x7FF8000000000000, top := 0x7FEFFFFFFFFFFFFF }
def fp32 : Fmt := { e := 8, m := 23, inf := true, nan := 0x7FC00000, top := 0x7F7FFFFF }
def bf16 : Fmt := { e := 8, m := 7, inf := true, nan := 0x7FC0, top := 0x7F7F }
def fp16 : Fmt := { e := 5, m := 10, inf := true, nan := 0x7E00, top := 0x7BFF }
def e4m3 : Fmt := { e := 4, m := 3, inf := false, nan := 0x7F, top := 0x7E }
def e5m2 : Fmt := { e := 5, m := 2, inf := true, nan := 0x7E, top := 0x7B }
def e2m3 : Fmt := { e := 2, m := 3, inf := false, nan := 0x20, top := 0x1F }
def e3m2 : Fmt := { e := 3, m := 2, inf := false, nan := 0x20, top := 0x1F }
def e2m1 : Fmt := { e := 2, m := 1, inf := false, nan := 0x8, top := 0x7 }

/-- A value: NaN, an infinity, or ±mant × 2^exp. -/
inductive FV where
  | nan
  | inf (neg : Bool)
  | fin (neg : Bool) (mant : Nat) (exp : Int)
  deriving DecidableEq, Repr

/-- The exponent of the least subnormal of a format. -/
def Fmt.least (f : Fmt) : Int := 2 - (2 ^ (f.e - 1) : Nat) - (f.m : Int)

/-- The value of a code. -/
def Fmt.decode (f : Fmt) (c : Nat) : FV :=
  let neg := c / 2 ^ (f.e + f.m) % 2 == 1
  let mag := c % 2 ^ (f.e + f.m)
  let ef := mag / 2 ^ f.m
  let mf := mag % 2 ^ f.m
  if f.inf ∧ ef = 2 ^ f.e - 1 then (if mf = 0 then .inf neg else .nan)
  else if !f.inf ∧ mag = f.nan then .nan
  else if ef = 0 then .fin neg mf f.least
  else .fin neg (2 ^ f.m + mf) (f.least + (ef - 1 : Nat))

/-- m × 2^(−k) rounded to nearest, ties to even. -/
def roundShift (m k : Nat) : Nat :=
  let q := m / 2 ^ k
  let r := m % 2 ^ k
  if 2 ^ k < 2 * r ∨ (2 * r = 2 ^ k ∧ q % 2 = 1) then q + 1 else q

/-- The magnitude code of mant × 2^exp, without an upper bound. -/
def Fmt.magnitude (f : Fmt) (mant : Nat) (exp : Int) : Nat :=
  if mant = 0 then 0
  else
    let q := max (Nat.log2 mant + exp - f.m) f.least
    let r := if q ≤ exp then mant * 2 ^ (exp - q).toNat else roundShift mant (q - exp).toNat
    ((q - f.least).toNat * 2 ^ f.m) + r

/-- A value rounded into a format; beyond its range it becomes an infinity, or the largest finite value
where it has none or `sat` says so. NaN is the canonical one (Table 6.6). -/
def Fmt.encode (f : Fmt) (sat : Bool) (v : FV) : Nat :=
  let sign (neg : Bool) : Nat := if neg then 2 ^ (f.e + f.m) else 0
  let top : Nat := if f.inf ∧ !sat then (2 ^ f.e - 1) * 2 ^ f.m else f.top
  match v with
  | .nan => f.nan
  | .inf neg => sign neg + top
  | .fin neg m e =>
    let c := f.magnitude m e
    sign neg + (if f.top < c then top else c)

/-- The exact sum of two values; an exact zero is +0 unless both are −0. -/
def FV.add : FV → FV → FV
  | .nan, _ => .nan
  | _, .nan => .nan
  | .inf a, .inf b => if a = b then .inf a else .nan
  | .inf a, _ => .inf a
  | _, .inf b => .inf b
  | .fin sa ma ea, .fin sb mb eb =>
    let e := min ea eb
    let x : Int := (ma * 2 ^ (ea - e).toNat : Nat) * (if sa then -1 else 1)
    let y : Int := (mb * 2 ^ (eb - e).toNat : Nat) * (if sb then -1 else 1)
    let s := x + y
    if s = 0 then .fin (sa && sb) 0 e else .fin (decide (s < 0)) s.natAbs e

/-- a < b, with −0 below +0 (R132, R299); neither is NaN. -/
def FV.below : FV → FV → Bool
  | .nan, _ => false
  | _, .nan => false
  | .inf a, .inf b => a && !b
  | .inf a, _ => a
  | _, .inf b => !b
  | .fin sa ma ea, .fin sb mb eb =>
    let e := min ea eb
    let x : Int := (ma * 2 ^ (ea - e).toNat : Nat) * (if sa then -1 else 1)
    let y : Int := (mb * 2 ^ (eb - e).toNat : Nat) * (if sb then -1 else 1)
    decide (x < y) || (decide (x = y) && sa && !sb)

/-- Operations SUM, MIN, MAX (Table 3.11) on values; NaN operands give NaN. -/
def FV.op (op : Nat) (a b : FV) : FV :=
  if op = 0 then a.add b
  else if a = .nan ∨ b = .nan then .nan
  else if op = 1 then (if b.below a then b else a)
  else (if a.below b then b else a)

/-! ### Integers -/

/-- The two's complement value of the low n bits. -/
def sint (n c : Nat) : Int := (BitVec.ofNat n c).toInt

/-- The low n bits of an integer. -/
def ofInt (n : Nat) (i : Int) : Nat := (BitVec.ofInt n i).toNat

/-- An integer clamped to n bits, and whether it was. -/
def clamp (n : Nat) (i : Int) : Int × Bool :=
  let hi : Int := (2 ^ (n - 1) : Nat) - 1
  let lo : Int := -(2 ^ (n - 1) : Nat)
  if hi < i then (hi, true) else if i < lo then (lo, true) else (i, false)

/-- SUM, MIN, MAX of two integers. -/
def intOp (op : Nat) (a b : Int) : Int := if op = 0 then a + b else if op = 1 then min a b else max a b

/-! ### The atomic unit (R130 to R133) -/

/-- The new value of an ATOMIC: operation and type as Table 3.8, old value, operand, compare value, all in
the low bits. -/
def atomicOp (aop : BitVec 3) (ty : BitVec 2) (old opnd cmp : Nat) : Nat :=
  let n := if ty = 1 then 64 else 32
  let o := old % 2 ^ n
  let x := opnd % 2 ^ n
  if ty = 2 ∨ ty = 3 then
    let f := if ty = 2 then fp32 else bf16
    f.encode false ((f.decode o).op aop.toNat (f.decode x))
  else if aop = 0 then ofInt n (sint n o + sint n x)
  else if aop = 1 then ofInt n (min (sint n o) (sint n x))
  else if aop = 2 then ofInt n (max (sint n o) (sint n x))
  else if aop = 3 then x
  else if aop = 4 then (if o = cmp % 2 ^ n then x else o)
  else if aop = 5 then o &&& x
  else if aop = 6 then o ||| x
  else o ^^^ x

/-- The operation and type pairs of R130: only ADD, MIN and MAX on the floating-point types. -/
def atomicPair (aop : BitVec 3) (ty : BitVec 2) : Bool := decide (ty.toNat ≤ 1) || decide (aop.toNat ≤ 2)

/-! ### Element types of the press (Tables 3.12 and 6.4) -/

/-- A TYPE of Table 3.12. -/
def tyKnown (t : Nat) : Bool := decide (t ≤ 3) || (decide (8 ≤ t) && decide (t ≤ 15))
/-- An MX type. -/
def tyMx (t : Nat) : Bool := decide (10 ≤ t) && decide (t ≤ 14)
/-- Bits per element. -/
def tyBits (t : Nat) : Nat :=
  if t = 0 ∨ t = 3 then 32 else if t = 1 ∨ t = 2 then 16 else if t ≤ 11 then 8 else if t ≤ 13 then 6 else 4
/-- Elements per block. -/
def tyBlock (t : Nat) : Nat := if tyMx t then 32 else if t = 15 then 2 else 1
/-- The floating-point format of an element, none for an integer. -/
def tyFmt (t : Nat) : Option Fmt :=
  if t = 0 then some fp32 else if t = 1 then some bf16 else if t = 2 then some fp16
  else if t = 8 ∨ t = 10 then some e4m3 else if t = 9 ∨ t = 11 then some e5m2
  else if t = 12 then some e2m3 else if t = 13 then some e3m2 else if t = 14 then some e2m1 else none
/-- e_max of an MX element (R297). -/
def mxEmax (t : Nat) : Int := if t = 10 then 8 else if t = 11 then 15 else if t = 13 then 4 else 2

/-- The floating-point format of a carry, none for an integer carry (Table 6.4). -/
def carryFmt (t : Nat) (same : Bool) : Option Fmt :=
  if same then tyFmt t
  else if t = 0 then some fp64
  else if t = 3 ∨ t = 15 then none
  else some fp32

/-- Bytes of a carry element (Table 6.4). -/
def carryBytes (t : Nat) (same : Bool) : Nat :=
  if same then tyBits t / 8 else if t = 0 ∨ t = 3 then 8 else 4

/-- An element converted into the carry (R294, R296); `scale` is the MX scale byte of its block. -/
def toCarry (t : Nat) (same : Bool) (code scale : Nat) : Word :=
  match tyFmt t, carryFmt t same with
  | some f, some g =>
    let v := if tyMx t then
        (if scale = 0xFF then FV.nan
         else match f.decode code with
           | .fin s m e => FV.fin s m (e + (scale : Int) - 127)
           | .inf s => FV.inf s
           | .nan => FV.nan)
      else f.decode code
    w64 (g.encode false v)
  | _, _ => w64 (ofInt 64 (sint (tyBits t) code))

/-- The identity of an operation (R273); where the carry has no infinity, its largest value stands for it. -/
def identity (t : Nat) (same : Bool) (op : Nat) : Word :=
  match carryFmt t same with
  | some g =>
    if op = 0 then 0 else w64 (g.encode false (.inf (op == 2)))
  | none =>
    let n := 8 * carryBytes t same
    if op = 0 then 0
    else w64 (ofInt 64 (if op = 1 then (2 ^ (n - 1) : Nat) - 1 else -(2 ^ (n - 1) : Nat)))

/-- One contribution added into a carry, and whether an integer carry saturated (R294, R300). -/
def accumulate (t : Nat) (same : Bool) (op : Nat) (a x : Word) : Word × Bool :=
  match carryFmt t same with
  | some g => (w64 (g.encode false ((g.decode a.toNat).op op (g.decode x.toNat))), false)
  | none =>
    let r := intOp op a.toInt x.toInt
    if same then
      let (v, s) := clamp 32 r
      (w64 (ofInt 64 v), s)
    else (w64 (ofInt 64 r), false)

/-- A carry rounded to an element of a type without blocks (Table 6.6), and whether an integer result
saturated. -/
def fromCarry (t : Nat) (same : Bool) (w : Word) : Nat × Bool :=
  match tyFmt t, carryFmt t same with
  | some f, some g => (if same then w.toNat else f.encode false (g.decode w.toNat), false)
  | _, _ =>
    let (v, s) := clamp (tyBits t) w.toInt
    (ofInt (tyBits t) v, s)

/-- An MX block of sums encoded: element codes and the scale byte (R297). -/
def mxEncode (t : Nat) (ws : List Word) : List Nat × Nat :=
  match tyFmt t with
  | none => ([], 0)
  | some f =>
    let vs := ws.map fun w => fp32.decode w.toNat
    let bad := vs.any fun v => match v with
      | .nan | .inf _ => true
      | .fin .. => false
    let lg (v : FV) : Option Int := match v with
      | .fin _ m e => if m = 0 then none else some (Nat.log2 m + e)
      | _ => none
    let top := (vs.filterMap lg).foldl (fun (a : Option Int) x =>
      match a with
      | none => some x
      | some y => some (max x y)) none
    if bad then (ws.map fun _ => 0, 0xFF)
    else match top with
      | none => (ws.map fun _ => 0, 0)
      | some l =>
        let x := max (-127) (min 127 (l - mxEmax t))
        (vs.map fun v => match v with
          | .fin s m e => f.encode true (.fin s m (e - x))
          | _ => 0, (x + 127).toNat)

/-! ### Packing (R295) -/

/-- Element j of packed bytes. -/
def elemAt (t : Nat) (bs : List Byte) (j : Nat) : Nat :=
  let b := tyBits t
  if t = 12 ∨ t = 13 then
    bytesNat (slice bs (j / 32 * 24) 24) / 2 ^ (6 * (j % 32)) % 64
  else if b = 4 then (byteAt bs (j / 2)).toNat / 2 ^ (4 * (j % 2)) % 16
  else bytesNat (slice bs (j * (b / 8)) (b / 8))

/-- Packed bytes of a list of element codes. -/
def packElems (t : Nat) (es : List Nat) : List Byte :=
  let b := tyBits t
  natBytes (es.length * b / 8) (packNat ((List.range es.length).zip es |>.map fun x => (x.1 * b, x.2)))

/-- Bytes of n packed elements. -/
def elemBytes (t n : Nat) : Nat := n * tyBits t / 8

/-- Bytes of a run of n elements in the input format, one scale byte a block included (R154, R493). -/
def runBytes (t n : Nat) : Nat := elemBytes t n + (if tyMx t then n / 32 else 0)

/-- The carries of n elements that a piece holds in the input format (R493). -/
def carriesIn (t : Nat) (same : Bool) (bs : List Byte) (n : Nat) : List Word :=
  (List.range n).map fun j =>
    toCarry t same (elemAt t bs j) (byteAt bs (elemBytes t n + j / 32)).toNat

/-- The carries of n elements that a piece holds in the carry format (R281). -/
def carriesWire (t : Nat) (same : Bool) (bs : List Byte) (n : Nat) : List Word :=
  let c := carryBytes t same
  (List.range n).map fun j =>
    let v := bytesNat (slice bs (c * j) c)
    match carryFmt t same with
    | some _ => w64 v
    | none => w64 (ofInt 64 (sint (8 * c) v))

/-- Bytes of carries on the wire. -/
def wireCarries (t : Nat) (same : Bool) (ws : List Word) : List Byte :=
  ws.flatMap fun w => natBytes (carryBytes t same) w.toNat

/-- Carries rounded to the input format: packed elements, then scale bytes; and how many results
saturated (R298, R300). -/
def roundOut (t : Nat) (same : Bool) (ws : List Word) : List Byte × Nat :=
  if tyMx t then
    let blocks := (List.range (ws.length / 32)).map fun i => mxEncode t ((ws.drop (32 * i)).take 32)
    (packElems t (blocks.flatMap fun x => x.1) ++ blocks.map (fun x => BitVec.ofNat 8 x.2), 0)
  else
    let rs := ws.map (fromCarry t same)
    (packElems t (rs.map fun x => x.1), (rs.filter fun x => x.2).length)

/-! ### The ferry (R155, R330) -/

/-- Lanes of a ferry payload: bits a lane, by TYPE of Table 3.13. -/
def ferryBits (ty : Nat) : Nat := if ty = 1 then 64 else if ty = 3 then 16 else 32

/-- One lane combined; OP as Table 3.13. -/
def ferryLane (op ty a b : Nat) : Nat :=
  let n := ferryBits ty
  if ty = 2 ∨ ty = 3 then
    let f := if ty = 2 then fp32 else bf16
    f.encode false ((f.decode a).op op (f.decode b))
  else if op = 0 then (a + b) % 2 ^ n
  else if op = 1 then ofInt n (min (sint n a) (sint n b))
  else if op = 2 then ofInt n (max (sint n a) (sint n b))
  else if op = 3 then a &&& b
  else if op = 4 then a ||| b
  else a ^^^ b

/-- Two payloads of k registers combined lane by lane. -/
def ferryCombine (op ty k : Nat) (a b : BitVec 256) : BitVec 256 :=
  let n := ferryBits ty
  BitVec.ofNat 256 (packNat ((List.range (64 * k / n)).map fun i =>
    (n * i, ferryLane op ty (bits a (n * i + n - 1) (n * i)) (bits b (n * i + n - 1) (n * i)))))

/-- The accumulator of a ferry before any contribution (R273): the identity of the operation. -/
def ferryIdentity (op ty k : Nat) : BitVec 256 :=
  let n := ferryBits ty
  let lane : Nat :=
    if op = 1 then (if ty = 2 then fp32.encode false (.inf false) else if ty = 3 then bf16.encode false (.inf false)
      else 2 ^ (n - 1) - 1)
    else if op = 2 then (if ty = 2 then fp32.encode false (.inf true) else if ty = 3 then bf16.encode false (.inf true)
      else 2 ^ (n - 1))
    else if op = 3 then 2 ^ n - 1
    else 0
  BitVec.ofNat 256 (packNat ((List.range (64 * k / n)).map fun i => (n * i, lane)))

end Sys2Proof.Machine
end

