-- ==== Sys2Proof/Machine/Aes.lean ====
section
/-!
DEFINITION. AES-256-GCM, the cipher of packets, cells and sealed tiles (09_contexts_keys_weights.md R393, R394, R409;
07_ferry.md R321). PRESUMED (log 98): the cipher is that of FIPS 197 and the mode that of NIST SP 800-38D, which
R393 names.
-/

namespace Sys2Proof.Machine

/-! ### The block cipher of FIPS 197 -/

/-- The S-box: byte x stands at bits [8x+7:8x]. -/
def aesBox : Nat :=
  0x16BB54B00F2D99416842E6BF0D89A18CDF2855CEE9871E9B948ED9691198F8E19E1DC186B95735610EF6034866B53E708A8BBD4B1F74DDE8C6B4A61C2E2578BA08AE7A65EAF4566CA94ED58D6D37C8E779E4959162ACD3C25C2406490A3A32E0DB0B5EDE14B8EE4688902A22DC4F816073195D643D7EA7C41744975FEC130CCDD2F3FF1021DAB6BCF5389D928F40A351A89F3C507F02F94585334D43FBAAEFD0CF584C4A39BECB6A5BB1FC20ED00D153842FE329B3D63B52A05A6E1B1A2C830975B227EBE28012079A059618C323C7041531D871F1E5A534CCF73F362693FDB7C072A49CAFA2D4ADF04759FA7DC982CA76ABD7FE2B670130C56F6BF27B777C63

/-- SubBytes of one byte. -/
def aesSub (x : Nat) : Nat := (aesBox >>> (8 * x)) % 256

/-- Multiplication of a byte by x in the field of FIPS 197. -/
def aesTime (x : Nat) : Nat := if x < 128 then 2 * x else (2 * x - 256) ^^^ 0x1B

/-- One column of MixColumns. -/
def aesMix : List Nat → List Nat
  | a :: b :: c :: d :: r =>
    let t := a ^^^ b ^^^ c ^^^ d
    [a ^^^ t ^^^ aesTime (a ^^^ b), b ^^^ t ^^^ aesTime (b ^^^ c), c ^^^ t ^^^ aesTime (c ^^^ d),
      d ^^^ t ^^^ aesTime (d ^^^ a)] ++ aesMix r
  | _ => []

/-- ShiftRows: the place that each byte of the state comes from. -/
def aesRows : List Nat := [0, 5, 10, 15, 4, 9, 14, 3, 8, 13, 2, 7, 12, 1, 6, 11]

/-- SubBytes and ShiftRows. -/
def aesShift (st : List Nat) : List Nat := aesRows.map fun i => aesSub (st.getD i 0)

/-- AddRoundKey. -/
def aesXor (a b : List Nat) : List Nat := a.zipWith (fun x y => x ^^^ y) b

/-- Word i of a key schedule from the words before it, the newest first. -/
def aesNextWord (i rc : Nat) (ws : List (List Nat)) : List Nat :=
  let prev := ws.headD []
  let t :=
    if i % 8 = 0 then
      match prev with
      | [a, b, c, d] => [aesSub b ^^^ rc, aesSub c, aesSub d, aesSub a]
      | l => l
    else if i % 8 = 4 then prev.map aesSub
    else prev
  aesXor (ws.getD 7 []) t

/-- The words of a key schedule, the newest first: `n` more words from word i on. -/
def aesExpand : Nat → Nat → Nat → List (List Nat) → List (List Nat)
  | 0, _, _, ws => ws
  | n + 1, i, rc, ws =>
    aesExpand n (i + 1) (if i % 8 = 0 then aesTime rc else rc) (aesNextWord i rc ws :: ws)

/-- A list cut into pieces of k. -/
def piecesOf {α : Type} (k : Nat) : Nat → List α → List (List α)
  | 0, _ => []
  | n + 1, l => l.take k :: piecesOf k n (l.drop k)

/-- The 15 round keys of a 256-bit key, given as 32 bytes. -/
def aesKeys (key : List Nat) : List (List Nat) :=
  piecesOf 16 15 (aesExpand 52 8 1 (piecesOf 4 8 key).reverse).reverse.flatten

/-- The rounds after the first key addition; the last one has no MixColumns. -/
def aesRounds : List (List Nat) → List Nat → List Nat
  | [], st => st
  | [k], st => aesXor (aesShift st) k
  | k :: ks, st => aesRounds ks (aesXor (aesMix (aesShift st)) k)

/-- One block under a key schedule. -/
def aesBlock (ks : List (List Nat)) (st : List Nat) : List Nat :=
  match ks with
  | [] => st
  | k :: r => aesRounds r (aesXor st k)

/-! ### GCM of NIST SP 800-38D -/

/-- A block as a number, its first byte on top. -/
def blockNum (bs : List Nat) : Nat := bs.foldl (fun a b => 256 * a + b) 0

/-- A number as `k` bytes, the top one first. -/
def numBytes : Nat → Nat → List Nat
  | 0, _ => []
  | k + 1, n => (n >>> (8 * k)) % 256 :: numBytes k n

/-- The product of two blocks: `n` bits of x are left, the highest first; v is y times the power reached. -/
def gcmMul : Nat → Nat → Nat → Nat → Nat
  | 0, _, _, z => z
  | n + 1, x, v, z =>
    gcmMul n x (if v % 2 = 1 then v / 2 ^^^ (0xE1 <<< 120) else v / 2) (if (x >>> n) % 2 = 1 then z ^^^ v else z)

/-- The blocks of a byte string, the last one filled with 0. -/
def gcmBlocks (bs : List Nat) : List Nat :=
  (piecesOf 16 (ceilDiv bs.length 16) bs).map fun p => blockNum (p ++ List.replicate (16 - p.length) 0)

/-- GHASH of blocks under the hash key h. -/
def ghash (h : Nat) (xs : List Nat) : Nat := xs.foldl (fun y x => gcmMul 128 (y ^^^ x) h 0) 0

/-- Counter block n of a 96-bit IV. -/
def gcmCounter (iv : List Nat) (n : Nat) : List Nat := iv ++ numBytes 4 n

/-- A text under the key stream, from counter block 2 on. -/
def gcmStream (ks : List (List Nat)) (iv text : List Nat) : List Nat :=
  ((piecesOf 16 (ceilDiv text.length 16) text).zipIdx.map fun p =>
    aesXor p.1 (aesBlock ks (gcmCounter iv (p.2 + 2)))).flatten

/-- The tag of a cipher text and its additional data. -/
def gcmTagNum (ks : List (List Nat)) (iv aad cipher : List Nat) : List Nat :=
  let h := blockNum (aesBlock ks (List.replicate 16 0))
  let s := ghash h (gcmBlocks aad ++ gcmBlocks cipher ++ [8 * aad.length * 2 ^ 64 + 8 * cipher.length])
  aesXor (numBytes 16 s) (aesBlock ks (gcmCounter iv 1))

/-- The bytes of a 256-bit key, least significant first (R10). -/
def keyBytes (key : BitVec 256) : List Nat := (natBytes 32 key.toNat).map fun b => b.toNat

/-- Bytes as numbers. -/
def byteNums (bs : List Byte) : List Nat := bs.map fun b => b.toNat
/-- Numbers as bytes. -/
def numsBytes (ns : List Nat) : List Byte := ns.map fun n => BitVec.ofNat 8 n

/-- A text encrypted, and the same way back (R393). -/
def gcmText (key : BitVec 256) (iv text : List Byte) : List Byte :=
  numsBytes (gcmStream (aesKeys (keyBytes key)) (byteNums iv) (byteNums text))

/-- The 16 B tag of a cipher text (R393), as one little-endian value (R10). -/
def gcmTag (key : BitVec 256) (iv aad cipher : List Byte) : Quad :=
  BitVec.ofNat 128 (bytesNat (numsBytes
    (gcmTagNum (aesKeys (keyBytes key)) (byteNums iv) (byteNums aad) (byteNums cipher))))

end Sys2Proof.Machine
end

