-- ==== Sys2Proof/Machine/Crc.lean ====
section
/-!
DEFINITION. The two cyclic redundancy checks: the link CRC of a flit (10_straits_link_layer.md R430)
and CRC-32C, the tile checksum (05_racking_engines.md R241) and the checksum of a stored-settings
record (Table 16.11). Both are reflected, start at all ones and end with an exclusive or of all ones.
-/

namespace Sys2Proof.Machine

/-- One bit of a reflected CRC whose reversed polynomial is `poly`. -/
def crcBit (poly c : Nat) : Nat := if c % 2 = 1 then c / 2 ^^^ poly else c / 2

/-- One byte of a reflected CRC. -/
def crcByte (poly c : Nat) (b : Byte) : Nat :=
  let c := c ^^^ b.toNat
  crcBit poly (crcBit poly (crcBit poly (crcBit poly
    (crcBit poly (crcBit poly (crcBit poly (crcBit poly c)))))))

/-- A reflected CRC of bytes. -/
def crcOf (poly : Nat) (bs : List Byte) : BitVec 32 :=
  BitVec.ofNat 32 (bs.foldl (crcByte poly) 0xFFFFFFFF ^^^ 0xFFFFFFFF)

/-- The link CRC: polynomial 0x04C1_1DB7 (R430), reversed 0xEDB8_8320. -/
def crc32 (bs : List Byte) : BitVec 32 := crcOf 0xEDB88320 bs

/-- CRC-32C: polynomial 0x1EDC_6F41, reversed 0x82F6_3B78. -/
def crc32c (bs : List Byte) : BitVec 32 := crcOf 0x82F63B78 bs

end Sys2Proof.Machine
end

