-- ==== Sys2Proof/Machine/Fec.lean ====
section
/-!
DEFINITION. The forward error correction of a SerDes strait (10_straits_link_layer.md R425, R426): RS(544,514) over
GF(2^10), and the order of a flit's bits in the stream. PRESUMED (log 99): the field polynomial x^10 + x^3 + 1 and the
generator's roots α^0 to α^29, which R425 does not give, are those of the Ethernet code RS(544,514).
-/

namespace Sys2Proof.Machine

/-! ### The field -/

/-- Multiplication by α. -/
def gfTime (x : Nat) : Nat := if x < 512 then 2 * x else (2 * x - 1024) ^^^ 9

/-- A product: the `n` low bits of b are left, the highest first. -/
def gfMulFrom (a b : Nat) : Nat → Nat → Nat
  | 0, z => z
  | n + 1, z => gfMulFrom a b n (gfTime z ^^^ (if (b >>> n) % 2 = 1 then a else 0))

/-- The product of two symbols. -/
def gfMul (a b : Nat) : Nat := gfMulFrom a b 10 0

/-- A power. -/
def gfPow (a : Nat) : Nat → Nat
  | 0 => 1
  | n + 1 => gfMul a (gfPow a n)

/-- α^n: the powers repeat after 1,023. -/
def gfAlpha (n : Nat) : Nat := (List.range (n % 1023)).foldl (fun x _ => gfTime x) 1

/-- The inverse: x^1022, which is x^2 · x^4 · … · x^512. -/
def gfInv (a : Nat) : Nat :=
  ((List.range 9).foldl (fun (p : Nat × Nat) _ => (gfMul p.1 p.1, gfMul p.2 (gfMul p.1 p.1))) (a, 1)).2

/-- A polynomial, lowest coefficient first, at x. -/
def gfEval (p : List Nat) (x : Nat) : Nat := p.foldr (fun c a => c ^^^ gfMul a x) 0

/-- The sum of two polynomials. -/
def gfAdd : List Nat → List Nat → List Nat
  | [], q => q
  | p, [] => p
  | a :: p, b :: q => (a ^^^ b) :: gfAdd p q

/-- A polynomial times a symbol. -/
def gfScale (c : Nat) (p : List Nat) : List Nat := p.map (gfMul c)

/-- The product of two polynomials. -/
def gfTimes : List Nat → List Nat → List Nat
  | [], _ => []
  | a :: p, q => gfAdd (gfScale a q) (0 :: gfTimes p q)

/-! ### The code -/

/-- The generator polynomial, lowest coefficient first: the product of x + α^i for i below 30. -/
def rsGen : List Nat := (List.range 30).foldl (fun g i => gfTimes [gfAlpha i, 1] g) [1]

/-- The 30 parity symbols of message symbols, the first sent first: the remainder of the message times x^30. -/
def rsParity (msg : List Nat) : List Nat :=
  let g := (rsGen.take 30).reverse
  msg.foldl (fun r m =>
    let f := m ^^^ r.headD 0
    (r.drop 1 ++ [0]).zipWith (fun x c => x ^^^ gfMul f c) g) (List.replicate 30 0)

/-- A codeword: 514 message symbols, then the parity. -/
def rsEncode (msg : List Nat) : List Nat := msg ++ rsParity msg

/-- The 30 syndromes of a received word, whose first symbol has the highest power. -/
def rsSyndromes (w : List Nat) : List Nat :=
  (List.range 30).map fun i =>
    let a := gfAlpha i
    w.foldl (fun s c => gfMul s a ^^^ c) 0

/-- The search for the error locator (Berlekamp and Massey): locator, former locator, its discrepancy, the steps
since, the length. -/
structure RsSearch where
  loc : List Nat
  old : List Nat
  gap : Nat
  shift : Nat
  len : Nat

/-- One step of the search, at syndrome n. -/
def rsSearchStep (syn : List Nat) (z : RsSearch) (n : Nat) : RsSearch :=
  let d := (List.range (z.len + 1)).foldl (fun a i => a ^^^ gfMul (z.loc.getD i 0) (syn.getD (n - i) 0)) 0
  if d = 0 then { z with shift := z.shift + 1 }
  else
    let loc := gfAdd z.loc (List.replicate z.shift 0 ++ gfScale (gfMul d (gfInv z.gap)) z.old)
    if 2 * z.len ≤ n then { loc, old := z.loc, gap := d, shift := 1, len := n + 1 - z.len }
    else { z with loc, shift := z.shift + 1 }

/-- The error locator of syndromes, and the number of errors that it stands for. -/
def rsLocator (syn : List Nat) : List Nat × Nat :=
  let z := (List.range 30).foldl (rsSearchStep syn) { loc := [1], old := [1], gap := 1, shift := 1, len := 0 }
  (z.loc, z.len)

/-- The places of the errors: symbol j has the power 543 - j. -/
def rsPlaces (loc : List Nat) : List Nat :=
  (List.range 544).filter fun j => gfEval loc (gfAlpha (1023 - (543 - j))) == 0

/-- The derivative of a polynomial. -/
def gfDerive (p : List Nat) : List Nat := (p.drop 1).zipIdx.map fun x => if x.2 % 2 = 0 then x.1 else 0

/-- The value of the error at symbol j (Forney). -/
def rsError (syn loc : List Nat) (j : Nat) : Nat :=
  let x := gfAlpha (543 - j)
  let xi := gfAlpha (1023 - (543 - j))
  gfMul x (gfMul (gfEval ((gfTimes syn loc).take 30) xi) (gfInv (gfEval (gfDerive loc) xi)))

/-- What the decoder makes of a received word: the corrected symbols and the places corrected, at most 15 of them, or
none when the word is uncorrectable (R425). -/
def rsDecode (w : List Nat) : Option (List Nat × List Nat) :=
  let syn := rsSyndromes w
  if syn.all (· == 0) then some (w, [])
  else
    let (loc, len) := rsLocator syn
    let places := rsPlaces loc
    if 15 < len ∨ places.length ≠ len then none
    else some (places.foldl (fun w j => w.set j (w.getD j 0 ^^^ rsError syn loc j)) w, places)

/-! ### Symbols, lanes and the stream -/

/-- Symbol j of a codeword stands at bits [10j+9:10j]. -/
def codeSymbols (w : BitVec 5440) : List Nat := (List.range 544).map fun j => (w.toNat >>> (10 * j)) % 1024

/-- The number that a stream of symbols spells, its first bit on top. -/
def symbolsNum (l : List Nat) : Nat := l.foldl (fun a x => 1024 * a + x) 0

/-- The `k` symbols of the top of a stream of 10k bits: the first bit becomes symbol bit 9 (R425). -/
def numSymbols : Nat → Nat → List Nat
  | 0, _ => []
  | k + 1, n => (n >>> (10 * k)) % 1024 :: numSymbols k n

/-- The symbols that logical lane k carries: every fourth one (R425). -/
def symbolsOfLane (l : List Nat) (k : Nat) : List Nat := (l.zipIdx.filter fun x => x.2 % 4 == k).map fun x => x.1

/-- A flit as a piece of the stream, its first bit on top: bytes in order from byte 0, bit 7 of each first (R426). -/
def flitStream (f : BitVec 1024) : Nat :=
  (List.range 128).foldl (fun a i => 256 * a + (f.toNat >>> (8 * i)) % 256) 0

/-- The flit that 1,024 bits of the stream spell. -/
def streamFlit (n : Nat) : BitVec 1024 :=
  BitVec.ofNat 1024 ((List.range 128).foldl (fun a i => 256 * a + (n >>> (8 * i)) % 256) 0)

/-- Lane l of a causeway carries bytes l and l + 64 of a flit (log 99): the parity of its bits, for each of the 64
lanes. -/
def causewayParity (f : BitVec 1024) : BitVec 64 :=
  let fold (n : Nat) : Nat := ((List.range 8).foldl (fun a i => a ^^^ (n >>> i)) 0) % 2
  BitVec.ofNat 64 ((List.range 64).foldl (fun a l =>
    a + (fold (((f.toNat >>> (8 * l)) % 256) ^^^ ((f.toNat >>> (8 * (l + 64))) % 256))) * 2 ^ l) 0)

end Sys2Proof.Machine
end

