-- ==== Sys2Proof/Machine/Wire.lean ====
section
/-!
DEFINITION. The wire formats: route word, operation words and extension of a packet
(11_packets_routing_flow.md Tables 11.1 to 11.6), ferry cell header (Table 7.1), flit and control flit
(Tables 10.2 and 10.3).
-/

namespace Sys2Proof.Machine

/-! ### The route word (Table 11.1) -/

/-- TYPE of a route word. -/
def rType (r : Quad) : Nat := bits r 127 123
/-- EPOCH. -/
def rEpoch (r : Quad) : Bool := bitAt r 122
/-- HOPS. -/
def rHops (r : Quad) : Nat := bits r 121 116
/-- DST. -/
def rDst (r : Quad) : Nat := bits r 115 103
/-- SRC. -/
def rSrc (r : Quad) : Nat := bits r 102 90
/-- PARTITION. -/
def rPart (r : Quad) : Nat := bits r 89 88
/-- WEIGHT. -/
def rWeight (r : Quad) : Bool := bitAt r 87
/-- KEY_ID. -/
def rKey (r : Quad) : Nat := bits r 86 79
/-- POISON. -/
def rPoison (r : Quad) : Bool := bitAt r 78
/-- LENGTH. -/
def rLen (r : Quad) : Nat := bits r 77 65
/-- DCTX. -/
def rDctx (r : Quad) : Nat := bits r 64 61
/-- SCTX. -/
def rSctx (r : Quad) : Nat := bits r 60 57
/-- INCARNATION. -/
def rInc (r : Quad) : Nat := bits r 56 49
/-- NONCE. -/
def rNonce (r : Quad) : Nat := bits r 47 0

/-- Packet types (Table 11.2). -/
def tyRead : Nat := 0x01
def tyWrite : Nat := 0x02
def tyAtomic : Nat := 0x03
def tySignal : Nat := 0x04
def tyForward : Nat := 0x05
def tyData : Nat := 0x06
def tyResp : Nat := 0x08
def tyColl : Nat := 0x0C
def tyControl : Nat := 0x10

/-- The fields of a route word that its sender sets at formation; EPOCH and NONCE follow when the
packet enters an egress queue (R504), HOPS is 0 (R477). -/
structure RouteFields where
  type : Nat
  dst : Nat
  src : Nat
  part : Nat
  weight : Bool
  key : Nat
  poison : Bool
  len : Nat
  dctx : Nat
  sctx : Nat
  inc : Nat

/-- The route word of these fields. -/
def mkRoute (f : RouteFields) : Quad :=
  quad [(123, f.type), (103, f.dst), (90, f.src), (88, f.part), (87, f.weight.toNat), (79, f.key),
    (78, f.poison.toNat), (65, f.len), (61, f.dctx), (57, f.sctx), (49, f.inc)]

/-- A bit field of a 128-bit word replaced. -/
def setQuad (w : Quad) (hi lo v : Nat) : Quad :=
  let m : Quad := BitVec.ofNat 128 ((2 ^ (hi + 1 - lo) - 1) <<< lo)
  (w &&& ~~~m) ||| (BitVec.ofNat 128 (v <<< lo) &&& m)

/-- EPOCH and NONCE bound into a route word. -/
def bindRoute (r : Quad) (epoch : Bool) (nonce : Nat) : Quad :=
  setQuad (setQuad r 122 122 epoch.toNat) 47 0 nonce

/-- HOPS one higher (R477). -/
def hopRoute (r : Quad) : Quad := setQuad r 121 116 (rHops r + 1)

/-- CSV of a DATA operation word. -/
def opCsv (op : Quad) : Bool := bitAt op 45

/-- Frame bytes F of a packet (R560). -/
def pktBytes (p : Pkt) : Nat :=
  48 + rLen p.route + (if rType p.route = tyData ∧ opCsv p.op then 8 else 0)

/-- Flits of a packet (R479). -/
def pktFlits (p : Pkt) : Nat := ceilDiv (pktBytes p) 120

/-- The flits that a HEAD flit's route and operation words announce. -/
def hdrFlits (route op : Quad) : Nat := pktFlits { route, op, payload := [], ext := none }

/-- The VC that Table 11.2 gives for a TYPE; DATA is VC5 here, and a PUSH sender uses VC4. -/
def typeVc (ty : Nat) : Vc :=
  if ty = tyControl then 1
  else if ty = tyResp then 3
  else if ty = tyData then 5
  else if ty = tyColl then 6
  else 2

/-! ### Malformed packets (R480) -/

/-- The LENGTH range of Table 11.2. -/
def lenOk (route op : Quad) : Bool :=
  let l := rLen route
  let ty := rType route
  if ty = tyWrite then (if bitAt op 45 then l == 72 else decide (1 ≤ l ∧ l ≤ 64))
  else if ty = tyAtomic then l == 16
  else if ty = tyForward then l == 32
  else if ty = tyData then decide (64 ≤ l ∧ l ≤ 4096 ∧ l % 64 = 0)
  else if ty = tyResp then decide (l ≤ 64)
  else if ty = tyColl ∨ ty = tyControl then decide (l ≤ 4096)
  else l == 0

/-- The bits of an operation word that Table 11.3 does not list are 0; AMOUNT_HI and ERR of a SIGNAL
are 0 except in a remainder increment (R483, R741); DCTX of a COLL is 0 (R743). A CONTROL message's own
zero fields are the cellarers' to check (Table 12.4). -/
def zerosOk (route op : Quad) : Bool :=
  let ty := rType route
  !bitAt route 48 &&
  (if ty = tyRead then bits op 52 0 == 0
   else if ty = tyWrite then bits op 44 0 == 0
   else if ty = tyAtomic then bits op 42 0 == 0
   else if ty = tySignal then
     bits op 58 0 == 0 && (bits op 127 126 == 2 || bits op 67 59 == 0)
   else if ty = tyForward then bits op 46 0 == 0
   else if ty = tyData then true
   else if ty = tyResp then bits op 101 0 == 0
   else if ty = tyColl then
     bits op 36 32 == 0 && rDctx route == 0 &&
       (if bits op 63 61 = 0 ∨ bits op 63 61 = 2 then bits op 23 0 == 0 else true)
   else true)

/-- TYPE stands in Table 11.2. -/
def typeOk (ty : Nat) : Bool :=
  [tyRead, tyWrite, tyAtomic, tySignal, tyForward, tyData, tyResp, tyColl, tyControl].contains ty

/-- The extension's bits [61:48] are 0 (Table 11.5). Only a destination sees them, once it has decrypted the packet: a
HEAD flit need not hold the extension (R495). -/
def extOk (ext : Option Word) : Bool :=
  match ext with
  | some e => bits e 61 48 == 0
  | none => true

/-- A packet is malformed, as far as its HEAD flit shows (R480, R495 check 1). -/
def malformed (route op : Quad) : Bool := !(typeOk (rType route) && lenOk route op && zerosOk route op)

/-! ### Encryption (R393, R394, R321, R409) -/

/-- The 12 B IV of a packet (R394). -/
def packetIv (src nonce : Nat) : List Byte := natBytes 1 0 ++ natBytes 2 src ++ natBytes 3 0 ++ natBytes 6 nonce

/-- The additional data of a packet: header bytes 0 to 31, HOPS taken as 0 (R394, R477). -/
def packetAad (route op : Quad) : List Byte := natBytes 16 (setQuad route 121 116 0).toNat ++ natBytes 16 op.toNat

/-- The 12 B IV of a cell (R321). -/
def cellIv (src nonce : Nat) : List Byte := natBytes 1 0xFE ++ natBytes 2 src ++ natBytes 3 0 ++ natBytes 6 nonce

/-- The additional data of a cell: its header, COPY taken as 0 (R321). -/
def cellAad (hdr : Quad) : List Byte := natBytes 16 (setQuad hdr 54 54 0).toNat

/-- The 12 B IV of a sealed tile (R409). -/
def tileIv (i : Nat) : List Byte := natBytes 4 0xFD ++ natBytes 8 i

/-- A sealed tile opened (R409): its plain text when its tag verifies. -/
def openTile (key : BitVec 256) (i : Nat) (setTag : BitVec 16) (cipher : List Byte) (tag : Quad) : Option (List Byte) :=
  if gcmTag key (tileIv i) (natBytes 2 setTag.toNat) cipher = tag then some (gcmText key (tileIv i) cipher) else none

/-- The body of a packet: its payload, then the extension of a DATA packet with CSV = 1 (R479). -/
def pktBody (p : Pkt) : List Byte :=
  slice p.payload 0 (rLen p.route) ++
    (if rType p.route = tyData ∧ opCsv p.op then natBytes 8 (p.ext.getD 0).toNat else [])

/-- A packet as it travels (R476): header, tag, body. Under a key the body is encrypted and the tag covers it (log 99);
a control packet, which no key encrypts, has tag 0 (R541). -/
def frameOf (key : Option (BitVec 256)) (p : Pkt) : List Byte :=
  let hdr := natBytes 16 p.route.toNat ++ natBytes 16 p.op.toNat
  match key with
  | none => hdr ++ natBytes 16 0 ++ pktBody p
  | some k =>
    let iv := packetIv (rSrc p.route) (rNonce p.route)
    let body := gcmText k iv (pktBody p)
    hdr ++ natBytes 16 (gcmTag k iv (packetAad p.route p.op) body).toNat ++ body

/-! ### Ferry cells (Table 7.1) -/

/-- KIND: 0 UP, 1 DOWN. -/
def cKind (h : Quad) : Nat := bits h 127 126
/-- OP. -/
def cOp (h : Quad) : Nat := bits h 125 123
/-- TYPE. -/
def cType (h : Quad) : Nat := bits h 122 121
/-- N − 1. -/
def cNm1 (h : Quad) : Nat := bits h 120 119
/-- POISON. -/
def cPoison (h : Quad) : Bool := bitAt h 118
/-- PARTITION. -/
def cPart (h : Quad) : Nat := bits h 117 116
/-- SRC. -/
def cSrc (h : Quad) : Nat := bits h 115 103
/-- DST. -/
def cDst (h : Quad) : Nat := bits h 102 90
/-- GROUP. -/
def cGroup (h : Quad) : Nat := bits h 89 80
/-- SEQ_LOW. -/
def cSeqLow (h : Quad) : Nat := bits h 79 64
/-- VINTAGE. -/
def cVintage (h : Quad) : Nat := bits h 63 56
/-- EPOCH. -/
def cEpoch (h : Quad) : Bool := bitAt h 55
/-- COPY. -/
def cCopy (h : Quad) : Bool := bitAt h 54
/-- NONCE. -/
def cNonce (h : Quad) : Nat := bits h 47 0

/-- A cell in plain text encrypted under a key (R321, R322). -/
def sealCell (key : BitVec 256) (c : Cell) : Cell :=
  let iv := cellIv (cSrc c.hdr) (cNonce c.hdr)
  let body := gcmText key iv (natBytes 32 c.payload.toNat)
  { c with payload := BitVec.ofNat 256 (bytesNat body), tag := gcmTag key iv (cellAad c.hdr) body }

/-- The payload of a cell in plain text under a key, and whether its tag verifies. -/
def openCell (key : BitVec 256) (c : Cell) : BitVec 256 × Bool :=
  let iv := cellIv (cSrc c.hdr) (cNonce c.hdr)
  let body := natBytes 32 c.payload.toNat
  (BitVec.ofNat 256 (bytesNat (gcmText key iv body)), gcmTag key iv (cellAad c.hdr) body == c.tag)

/-- The 64 bytes of a cell (R320). -/
def cellBytes (c : Cell) : List Byte := natBytes 16 c.hdr.toNat ++ natBytes 32 c.payload.toNat ++ natBytes 16 c.tag.toNat

/-! ### Flits (Tables 10.2 and 10.3) -/

/-- Byte i of a flit. -/
def flitByte (f : BitVec 1024) (i : Nat) : Byte := BitVec.ofNat 8 (f.toNat >>> (8 * i))

/-- Bytes of a flit. -/
def flitBytes (f : BitVec 1024) (off len : Nat) : List Byte :=
  (List.range len).map fun i => flitByte f (off + i)

/-- The trailer: byte 120 holds bits [63:56] (R429). -/
def flitTrailer (f : BitVec 1024) : Word :=
  w64 ((flitBytes f 120 8).foldl (fun a b => 256 * a + b.toNat) 0)

/-- The CRC of the trailer is that of bytes 0 to 123 (R430). -/
def flitCrcOk (f : BitVec 1024) : Bool :=
  bits (flitTrailer f) 31 0 == (crc32 (flitBytes f 0 124)).toNat

/-- FSEQ. -/
def tFseq (t : Word) : BitVec 12 := BitVec.ofNat 12 (bits t 63 52)
/-- VC. -/
def tVc (t : Word) : Nat := bits t 51 49
/-- KIND: 0 HEAD, 1 BODY, 2 CONTROL, 3 reserved. -/
def tKind (t : Word) : Nat := bits t 48 47
/-- ACK. -/
def tAck (t : Word) : BitVec 12 := BitVec.ofNat 12 (bits t 46 35)
/-- ACKV. -/
def tAckv (t : Word) : Bool := bitAt t 34
/-- PSN. -/
def tPsn (t : Word) : Bool := bitAt t 33

/-- The 128-bit little-endian value at a byte of a flit (R476). -/
def flitQuad (f : BitVec 1024) (off : Nat) : Quad := BitVec.ofNat 128 (f.toNat >>> (8 * off))

/-- Control flit types (Table 10.3). -/
def cfIdle : Nat := 0
def cfState : Nat := 1
def cfNak : Nat := 2
def cfQuery : Nat := 3
def cfDozeReq : Nat := 4
def cfDozeAck : Nat := 5
def cfCalReq : Nat := 6
def cfRetrainReq : Nat := 7
def cfTime : Nat := 8

/-- TYPE of a control flit. -/
def cfType (f : BitVec 1024) : Nat := (flitByte f 0).toNat
/-- XOFF of a control flit. -/
def cfXoff (f : BitVec 1024) : BitVec 8 := flitByte f 1
/-- NAK_SEQ. -/
def cfNakSeq (f : BitVec 1024) : BitVec 12 := BitVec.ofNat 12 (bytesNat (flitBytes f 2 2))
/-- DEEP_IDLE. -/
def cfDeep (f : BitVec 1024) : BitVec 16 := BitVec.ofNat 16 (bytesNat (flitBytes f 6 2))
/-- OFF_IDLE. -/
def cfOff (f : BitVec 1024) : BitVec 16 := BitVec.ofNat 16 (bytesNat (flitBytes f 8 2))

/-- The body of a flit: its bytes 0 to 119. -/
def flitBodyOf (f : BitVec 1024) : BitVec 960 := BitVec.ofNat 960 f.toNat

/-- The body that bytes make, filled with 0 (R431). -/
def bodyOf (bs : List Byte) : BitVec 960 := BitVec.ofNat 960 (bytesNat (bs.take 120))

/-- Flit i of a packet's frame (R431). -/
def frameFlit (frame : List Byte) (i : Nat) : BitVec 960 := bodyOf (frame.drop (120 * i))

/-- A flit whose bytes 0 to 123 are those of a number, with its CRC (R430): byte 124 holds bits [31:24]. -/
def withCrc (n : Nat) : BitVec 1024 :=
  let c := (crc32 (natBytes 124 n)).toNat
  BitVec.ofNat 1024 (n % 2 ^ 992 + bytesNat (natBytes 4 c).reverse * 2 ^ 992)

/-- A flit (R429, Table 10.2). -/
def flitImage (body : BitVec 960) (fseq : BitVec 12) (vc kind : Nat) (ack : BitVec 12) (ackv psn : Bool) : BitVec 1024 :=
  let high := packNat [(20, fseq.toNat), (17, vc), (15, kind), (3, ack.toNat), (2, ackv.toNat), (1, psn.toNat)]
  withCrc (body.toNat + bytesNat (natBytes 4 high).reverse * 2 ^ 960)

/-- A flit sent with PSN = 1 and a CRC over the bytes sent (R457): PSN, trailer bit 33, is bit 1 of byte 123. -/
def poisonFlit (f : BitVec 1024) : BitVec 1024 := withCrc ((f ||| BitVec.ofNat 1024 (2 ^ 985)).toNat % 2 ^ 992)

/-- The body of a control flit (Table 10.3); byte 8 on is MESSAGE in TIME and OFF_IDLE in the others. -/
def ctrlBody (c : Ctrl) (xoff : BitVec 8) : BitVec 960 :=
  BitVec.ofNat 960 (packNat [(0, c.type.toNat), (8, xoff.toNat), (16, c.nakSeq.toNat), (48, c.deep.toNat),
    (64, if c.type.toNat = cfTime then c.msg.toNat else c.off.toNat)])

/-- A control flit with only a type. -/
def ctl (type : Nat) : Ctrl := { type := BitVec.ofNat 8 type, nakSeq := 0, deep := 0, off := 0, msg := 0 }

end Sys2Proof.Machine
end

