-- ==== Sys2Proof/Machine/Records.lean ====
section
/-!
DEFINITION. Records of the thief (15_counters_sampling_tracing.md R612, R613, R618): their header,
their staging, TRACE records (Table 15.5) and MATCH records (R634, R635).
-/

namespace Sys2Proof.Machine

/-- M of a ring: the largest multiple of its size that does not exceed 2^32. -/
def ringMod (size : Nat) : Nat := if size = 0 then 0 else 2 ^ 32 / size * size

/-- (head − tail) modulo M. -/
def ringUsed (head tail size : Nat) : Nat :=
  if ringMod size = 0 then 0 else (head + ringMod size - tail % ringMod size) % ringMod size

/-- A running index advanced modulo M. -/
def ringAdd (i n size : Nat) : Nat := if ringMod size = 0 then i else (i + n) % ringMod size

/-- THIEF.CTRL.ENABLE and a further enable bit are 1. -/
def thiefOn (b : Block) (bit : Nat) : Bool := bitAt b.thief.ctrl 0 && bitAt b.thief.ctrl bit

/-- The granules of a byte string. -/
def toGranules (n : Nat) (bs : List Byte) : List Granule :=
  (List.range n).map fun i => granOf 0 (slice bs (64 * i) 64)

/-- A record is generated (R613): it takes a SEQ; it is staged, or dropped and counted. `body` starts at
byte 16. -/
def stageRecord (type grans flags : Nat) (time : Word) (body : List Byte) (b : Block) : Block :=
  let t := b.thief
  let bytes := natBytes 1 type ++ natBytes 1 grans ++ natBytes 2 flags ++ natBytes 4 t.seq.toNat ++
    natBytes 8 time.toNat ++ body
  let size := bits t.ringSize 31 0
  let staged := (t.staged.map fun r => r.grans.length).foldl (· + ·) 0
  let t1 := { t with seq := t.seq + 1, records := t.records + 1 }
  if size < ringUsed t.head.toNat t.tail.toNat size + staged + grans ∨ 256 < staged + grans then
    { b with thief := { t1 with dropped := t1.dropped + 1 } }
  else
    { b with thief := { t1 with
      nextSerial := t.nextSerial + 1
      staged := t.staged ++
        [{ serial := t.nextSerial, grans := toGranules grans bytes, issued := false, left := grans }] } }

/-- A trace event (R625, Table 15.5). `seq` is 0xFF when no word started it. -/
def traceEvent (kind code : Nat) (value ref : Word) (seq ctx status pc : Nat) (b : Block) : Block :=
  if thiefOn b 4 ∧ bitAt b.thief.traceCtrl kind ∧ bitAt b.thief.traceCtrl (16 + ctx) then
    stageRecord 0x04 1 0 b.time.net
      (natBytes 1 kind ++ natBytes 1 seq ++ natBytes 1 ctx ++ natBytes 1 status ++ natBytes 2 pc ++
        natBytes 2 code ++ natBytes 8 value.toNat ++ natBytes 8 ref.toNat) b
  else b

/-- A PHY time in 1/16 ns corrected by STRAIT[n].TS_ASYM, in ps (R474). -/
def phyTime (b : Block) (n : Nat) (t : Word) : Word :=
  t + BitVec.ofInt 64 ((b.strait n).tsAsym.toInt * 16 / 1000)

/-- A MATCH record, when MATCH_EN is 1 and the nonce is selected (R634, R635). -/
def matchRecord (rx cell copy : Bool) (n vc type part : Nat) (weight : Bool) (src dst key nonce : Nat)
    (phy : Word) (b : Block) : Block :=
  if thiefOn b 5 ∧ nonce % 2 ^ b.thief.matchShift.toNat = 0 then
    stageRecord 0x06 1 (rx.toNat + 2 * cell.toNat + 4 * copy.toNat) b.time.net
      (natBytes 1 n ++ natBytes 1 vc ++ natBytes 1 type ++ natBytes 1 (part + 4 * weight.toNat) ++
        natBytes 2 src ++ natBytes 2 dst ++ natBytes 1 key ++ natBytes 1 0 ++ natBytes 6 nonce ++
        natBytes 8 (phyTime b n phy).toNat) b
  else b

/-- The MATCH record of a packet. -/
def matchPacket (rx : Bool) (n vc : Nat) (r : Quad) (phy : Word) (b : Block) : Block :=
  matchRecord rx false false n vc (rType r) (rPart r) (rWeight r) (rSrc r) (rDst r) (rKey r) (rNonce r)
    phy b

/-- The MATCH record of a ferry cell. -/
def matchCell (rx : Bool) (n : Nat) (h : Quad) (phy : Word) (b : Block) : Block :=
  matchRecord rx true (cCopy h) n 0 0 (cPart h) false (cSrc h) (cDst h) (cVintage h) (cNonce h)
    phy b

/-- Network time in 1/16 ns. -/
def net16 (b : Block) : Word := b.time.net * 16

end Sys2Proof.Machine
end

