-- ==== Sys2Proof/Machine/Sched.lean ====
section
/-!
DEFINITION. The egress scheduler (13_traffic_scheduling.md): link classes (Tables 10.1 and 10.5),
queues and tags, shapers, tide tables, meters.
-/

namespace Sys2Proof.Machine

/-! ### Link classes -/

/-- Round-trip budget in ns (Table 10.1). -/
def clsRtt (c : BitVec 2) : Nat := if c = 0 then 60 else if c = 1 then 200 else if c = 2 then 400 else 1100
/-- Flit time in ps (Table 10.1). -/
def clsFlitPs (c : BitVec 2) : Nat := if c = 0 then 525 else 1210
/-- VC buffer, flits (Table 10.5). -/
def clsBuffer (c : BitVec 2) : Nat := if c = 0 then 192 else if c = 1 then 256 else if c = 2 then 416 else 1024
/-- XOFF threshold (Table 10.5). -/
def clsXoff (c : BitVec 2) : Nat := if c = 0 then 42 else if c = 1 then 55 else if c = 2 then 50 else 79
/-- XON threshold (Table 10.5). -/
def clsXon (c : BitVec 2) : Nat := if c = 0 then 7 else if c = 1 then 20 else if c = 2 then 15 else 44
/-- Replay buffer, flits (Table 10.5). -/
def clsReplay (c : BitVec 2) : Nat := if c = 0 then 256 else if c = 1 then 256 else if c = 2 then 512 else 1024
/-- Replay timeout, ns (Table 10.5). -/
def clsTimeout (c : BitVec 2) : Nat := if c = 0 then 200 else if c = 1 then 400 else if c = 2 then 800 else 2200
/-- Link region of the cellar for one strait, KiB (R446). -/
def clsKib (c : BitVec 2) : Nat := if c = 0 then 224 else if c = 1 then 288 else if c = 2 then 480 else 1152

/-! ### Queues (Table 13.1) -/

/-- The reset value of SCHED.Q[q].CFG (Table 13.1). -/
def qCfgReset (q : Nat) : Word :=
  let (w, u) :=
    if q = 128 then (256, 4096)
    else if 129 ≤ q then (64, 0)
    else match q % 8 with
      | 0 => (64, 4096)
      | 1 => (64, 4096)
      | 7 => (1, 0)
      | _ => (32, 0)
  word [(0, w), (16, u)]

/-- SCHED.Q[q].CFG. -/
def qCfg (b : Block) (q : Nat) : Word := (tget none b.sched.cfg q).getD (qCfgReset q)
/-- WEIGHT; 0 acts as 1 (R566). -/
def qWeight (b : Block) (q : Nat) : Nat := max 1 (bits (qCfg b q) 11 0)
/-- BURST. -/
def qBurst (b : Block) (q : Nat) : Nat := bits (qCfg b q) 31 16

/-- The packets of queue q at strait n. -/
def queueOf (b : Block) (n q : Nat) : List QPkt := tget [] (b.eg n).queues q

/-- The instance that a collective data packet belongs to. -/
def dataInst (p : QPkt) : Option Nat :=
  match p.use with
  | .inst i => if p.high then none else some i
  | _ => none

/-- A class queue after a data packet of instance i has left it: credits and grants stay ahead, and the next instance
in increasing index has its turn (R288). -/
def inTurn (i : Nat) (l : List QPkt) : List QPkt :=
  let high := l.takeWhile fun p => p.high
  let data := l.dropWhile fun p => p.high
  let ids := data.filterMap dataInst
  match ((ids.filter fun j => decide (i < j)).min?).or ids.min? with
  | none => l
  | some j =>
    let at0 := data.findIdx fun p => dataInst p == some j
    high ++ (data.drop at0).take 1 ++ data.eraseIdx at0

/-- A queue when its head packet has left it. -/
def afterHead (p : QPkt) (rest : List QPkt) : List QPkt :=
  match dataInst p with
  | some i => inTurn i rest
  | none => rest

/-- Frame bytes of a list of packets. -/
def framesOf (l : List QPkt) : Nat := (l.map fun p => pktBytes p.pkt).foldl (· + ·) 0

/-- Bytes queued at a strait's egress, the unsent part of a packet in progress included (R507). -/
def backlog (b : Block) (n : Nat) : Nat :=
  let e := b.eg n
  (e.queues.map fun x => framesOf x.2).foldl (· + ·) 0 + 64 * e.cells.length +
    (match e.cur with
     | some c => pktBytes c.qp.pkt - 120 * c.sent
     | none => 0)

/-- Frame bytes queued for q over all straits (R588). -/
def depthOf (b : Block) (q : Nat) : Nat :=
  ((List.range 32).map fun n => framesOf (queueOf b n q)).foldl (· + ·) 0

/-! ### Shapers (R567 to R571) -/

/-- RATE of a shaper, MB/s. -/
def Shaper.rate (s : Shaper) : Nat := bits s.shape 63 32
/-- BURST of a shaper in 1/16 B. -/
def Shaper.burst16 (s : Shaper) : Int := (bits s.shape 31 0 * 16 : Nat)

/-- Accrual up to a local time (R568): U ← min(BURST, U + R × Δt / 1,000) bytes, in 1/16 B. -/
def accrue (now : Nat) (s : Shaper) : Shaper :=
  if s.rate = 0 then { s with last := now }
  else
    let t := s.frac + s.rate * (now - s.last) * 16
    let u := s.ullage + (t / 1000 : Nat)
    if s.burst16 ≤ u then { s with ullage := s.burst16, frac := 0, last := now }
    else { s with ullage := u, frac := t % 1000, last := now }

/-- A charge of L, in 1/16 B, on a shaped shaper (R569). -/
def charge (l : Nat) (s : Shaper) : Shaper :=
  if s.rate = 0 then s else { s with ullage := s.ullage - (l : Int) }

/-- A shaper lets a packet start: unshaped, or ullage at least 0 (R562, R568). -/
def shaperOpen (s : Shaper) : Bool := s.rate == 0 || decide (0 ≤ s.ullage)

/-- SHAPE written (R571): the ullage is kept and capped at the new BURST. -/
def writeShape (now : Nat) (v : Word) (s : Shaper) : Shaper :=
  let s := { accrue now s with shape := v }
  { s with ullage := if s.burst16 ≤ s.ullage then s.burst16 else s.ullage }

/-- L of a packet or cell in 1/16 B (R561): F + A + PKT + FLIT × n / 16. -/
def chargeOf (ovh : Word) (f n : Nat) : Nat :=
  16 * (f + (if bitAt ovh 24 then 120 * n - f else 0) + bits ovh 23 12) + bits ovh 11 0 * n

/-- The partition shaper over a queue, if any (R567). -/
def queuePart (b : Block) (q : Nat) : Option Nat :=
  if q < 128 then some (b.ctx (q / 8)).part.val
  else if q = 128 then none
  else some ((q - 129) % 4)

/-- Both shapers of a queue accrue to now. -/
def accrueAll (now : Nat) (e : Egress) : Egress :=
  { e with
    strait := accrue now e.strait
    parts := (List.range 4).foldl (fun t p => tmod {} t p (accrue now)) e.parts }

/-! ### Tide tables (R578 to R585) -/

/-- The segments of a list's cycle in ns: start, end, entry word, index (R579). -/
def tideSegs (cycleNs : Nat) (oper : Tbl Word) (entries : Nat) : List (Nat × Nat × Word × Nat) :=
  let starts := ((List.range entries).foldl
    (fun (acc : List (Nat × Word × Nat) × Nat) j =>
      let w := tget 0 oper j
      (acc.1 ++ [(acc.2, w, j)], acc.2 + 8 * bits w 26 0)) ([], 0)).1
  let live := starts.filter fun s => decide (s.1 < cycleNs)
  (live.zip ((live.drop 1).map (fun s => s.1) ++ [cycleNs])).map
    fun x => (x.1.1, x.2, x.1.2.1, x.1.2.2)

/-- C of the operating list in ns. -/
def tideCycleNs (t : Tide) : Nat := 8 * bits t.operCycle 26 0
/-- E of the operating list. -/
def tideEntries (t : Tide) : Nat := bits t.operCycle 38 32

/-- Position in the cycle at network time `net` (R579; k may be any integer). -/
def tidePhase (t : Tide) (net : Word) : Nat :=
  (((net.toNat : Int) - (t.operBase.toNat : Int)) % (tideCycleNs t : Int)).toNat

/-- A list operates on the strait (R581). -/
def tideActive (t : Tide) : Bool := t.enable && t.operValid && decide (tideCycleNs t ≠ 0)

/-- The segment that holds a phase. -/
def tideSegAt (t : Tide) (phase : Nat) : Option (Nat × Nat × Word × Nat) :=
  (tideSegs (tideCycleNs t) t.oper (tideEntries t)).find? fun s => decide (s.1 ≤ phase ∧ phase < s.2.1)

/-- The operating entry's word at network time `net`. -/
def tideEntryNow (t : Tide) (net : Word) : Option (Nat × Nat × Word × Nat) := tideSegAt t (tidePhase t net)

/-- A class is gated: RESPONSE is not (R580). -/
def classGated (k : Nat) : Bool := k != 1

/-- Time until class k next closes, in ns: 0 when it is closed now, none when it never closes. -/
def openFor (t : Tide) (net : Word) (k : Nat) : Option Nat :=
  let phase := tidePhase t net
  let segs := tideSegs (tideCycleNs t) t.oper (tideEntries t)
  let later := segs.filter fun s => decide (phase < s.2.1)
  let order := later ++ segs.filter fun s => decide (s.2.1 ≤ phase)
  let run := order.takeWhile fun s => bitAt s.2.2.1 (32 + k)
  if run.length = order.length then none
  else some ((run.map fun s => if s.1 ≤ phase ∧ phase < s.2.1 then s.2.1 - phase else s.2.1 - s.1).foldl (· + ·) 0)

/-- The class of queue q is open with time to finish `flits` flits at strait n (R584). -/
def gateOpen (b : Block) (n q flits : Nat) : Bool :=
  let t := b.tide n
  if 128 ≤ q ∨ !classGated (q % 8) ∨ !tideActive t then true
  else match openFor t b.time.net (q % 8) with
    | none => true
    | some ns => decide (0 < ns ∧ flits * clsFlitPs (b.strait n).cls ≤ ns * 1000)

/-- The strait is kept awake by its operating entry (R585, Table 14.1). -/
def tideKeeps (b : Block) (n : Nat) : Bool :=
  let t := b.tide n
  tideActive t && (match tideEntryNow t b.time.net with
    | some s => bitAt s.2.2.1 30
    | none => false)

/-! ### The queue level (R562 to R566) -/

/-- Tag comparison modulo 2^48 (R563). -/
def later48 (a b : BitVec 48) : BitVec 48 := if (a - b).toNat < 2 ^ 47 then a else b

/-- Queue q is eligible at strait n (R562). -/
def queueEligible (b : Block) (n q : Nat) : Bool :=
  match queueOf b n q with
  | [] => false
  | p :: _ =>
    let e := b.eg n
    !bitAt (b.strait n).txXoff p.vc.val && gateOpen b n q (pktFlits p.pkt) && shaperOpen e.strait &&
      (match queuePart b q with
       | some k => shaperOpen (tget {} e.parts k)
       | none => true)

/-- The head tag of a queue whose start tag is s (R563). -/
def headTag (b : Block) (n q : Nat) (s : BitVec 48) : BitVec 48 :=
  match queueOf b n q with
  | [] => s
  | p :: _ => s + BitVec.ofNat 48 (pktBytes p.pkt * 4096 / qWeight b q)

/-- Eligibility of every queue of strait n brought up to date; a queue that becomes eligible takes its
tags (R563). -/
def refreshElig (n : Nat) (b : Block) : Block :=
  let b := b.modEg n (accrueAll b.time.loc)
  let now := (List.range 133).filter (queueEligible b n)
  let fresh := now.filter fun q => !(b.eg n).elig.contains q
  let b := b.each fresh fun q b =>
    let e := b.eg n
    let s := later48 (tget 0 e.s q) (e.v - BitVec.ofNat 48 (qBurst b q * 4096 / qWeight b q))
    b.modEg n fun e => { e with s := tset e.s q s, f := tset e.f q (headTag b n q s) }
  b.modEg n fun e => { e with elig := now }

/-- The eligible queue with the earliest tag, lowest index first (R564). -/
def earliest (e : Egress) : Option Nat :=
  e.elig.foldl (fun best q =>
    match best with
    | none => some q
    | some p =>
      let a := tget 0 e.f p
      let c := tget 0 e.f q
      if (a - c).toNat ≠ 0 ∧ (a - c).toNat < 2 ^ 47 then some q else some p) none

/-! ### Meters (R572 to R577) -/

/-- The colours of R574. -/
inductive Colour where
  | green | yellow | red
  deriving DecidableEq, Repr

/-- The lowest-numbered meter for a context and class (R572). -/
def meterFor (b : Block) (ctx cls : Nat) : Option Nat :=
  (List.range 64).find? fun m =>
    let c := (b.meter m).ctrl
    bitAt c 63 && bits c 59 56 == ctx && decide (cls < 7) && bitAt c (48 + cls)

/-- The buckets accrued to a local time, and the colour they give a packet of F bytes, with the tokens
taken (R574). -/
def meterRun (m : Meter) (now f : Nat) : Colour × Meter :=
  let bb := f * 1000
  let dt := now - m.last
  let cir := bits m.rate 31 0
  let pir := bits m.rate 63 32
  let cbs := bits m.size 31 0 * 1000
  let ebs := bits m.size 63 32 * 1000
  let m := { m with last := now }
  if bitAt m.ctrl 62 then
    let tp := min ebs (m.te + pir * dt)
    let tc := min cbs (m.tc + cir * dt)
    if tp < bb then (.red, { m with te := tp, tc := tc })
    else if tc < bb then (.yellow, { m with te := tp - bb, tc := tc })
    else (.green, { m with te := tp - bb, tc := tc - bb })
  else
    let n := cir * dt
    let tc2 := min cbs (m.tc + n)
    let te := min ebs (m.te + (m.tc + n - tc2))
    if bb ≤ tc2 then (.green, { m with tc := tc2 - bb, te := te })
    else if bb ≤ te then (.yellow, { m with tc := tc2, te := te - bb })
    else (.red, { m with tc := tc2, te := te })

/-- The colour counted (R575). -/
def countColour (c : Colour) (m : Meter) : Meter :=
  match c with
  | .green => { m with green := m.green + 1 }
  | .yellow => { m with yellow := m.yellow + 1 }
  | .red => { m with red := m.red + 1 }

end Sys2Proof.Machine
end

