-- ==== Sys2Proof/Machine/Route.lean ====
section
/-!
DEFINITION. Ingress buffers (10_straits_link_layer.md R442 to R445), key slots as packets use them (09_contexts_keys_weights.md R391 to R397), the wake of
straits (R606), the choice of a strait (11_packets_routing_flow.md R507 to R509, R471) and the way of a
packet into an egress queue or a meter's hold line (R572 to R576).
-/

namespace Sys2Proof.Machine

/-! ### Ingress buffers (R442 to R445) -/

/-- Flits accepted of a packet in an ingress buffer. -/
def InPkt.got (p : InPkt) : Nat := p.flits.length

/-- Every flit of the packet has been accepted. -/
def InPkt.complete (p : InPkt) : Bool := decide (p.need ≤ p.got)

/-- Flits held in the ingress buffer of a VC: those accepted and not sent on. -/
def vcHeld (s : Strait) (v : Nat) : Nat :=
  ((s.ingress.filter fun p => p.vc.val == v).map fun p => p.got - p.gone).foldl (· + ·) 0

/-- The XOFF mask after a change of occupancy (Table 10.5). -/
def xoffMask (s : Strait) : BitVec 8 :=
  BitVec.ofNat 8 ((List.range 8).foldl (fun a v =>
    let o := vcHeld s v
    let off := if bitAt s.xoffNow v then decide (clsXon s.cls < o) else decide (clsXoff s.cls < o)
    a + (off.toNat <<< v)) 0)

/-- A control flit with only a type waits for the next flit boundary (R432). -/
def queueCtrl (n : Nat) (c : Ctrl) (b : Block) : Block := b.modStrait n fun s => { s with ctrl := s.ctrl ++ [c] }

/-- A change of the mask is sent in STATE, twice (R444). -/
def updateXoff (n : Nat) (b : Block) : Block :=
  let s := b.strait n
  let m := xoffMask s
  if m = s.xoffNow then b
  else b.modStrait n fun s => { s with xoffNow := m, ctrl := s.ctrl ++ [ctl cfState, ctl cfState] }

/-- A packet or cell leaves the ingress buffer (R496); what is still to come of it is discarded until the next HEAD
flit of its VC. -/
def releaseIngress (n id : Nat) (b : Block) : Block :=
  updateXoff n (b.modStrait n fun s =>
    { s with
      ingress := s.ingress.filter fun p => p.id != id
      dropVc := (s.dropVc ++ (s.ingress.filter fun p => p.id == id && !p.complete).map fun p => p.vc.val).eraseDups })

/-- A packet that has been taken stays in the ingress buffer (R289, R496). -/
def keepIngress (n id : Nat) (b : Block) : Block :=
  b.modStrait n fun s =>
    { s with ingress := s.ingress.map fun p => if p.id = id then { p with taken := true } else p }

/-- An uncorrectable cellar error (R39, Table 16.2) in a region of Table 1.3: counted, and raised with an address that no
rule gives. -/
def cellarHit (region : Nat) (b : Block) : Block :=
  let (v, b) := b.fresh
  raiseEvent 0x05 0 0xFF 0xFF v (w64 region)
    { b with util := { b.util with cellarUncorrectable := b.util.cellarUncorrectable + 1 } }

/-- A poisoned HEAD flit on VC v ends its packet at this node (R458). -/
def headPoisoned (n v : Nat) (b : Block) : Block :=
  raiseEvent 0x0A 0 0xFF n (w64 v) 0 (b.modStrait n fun s => { s with poisonedFlits := s.poisonedFlits + 1 })

/-! ### Key slots -/

/-- One reference more on a slot (R397). -/
def refSlot (k : Nat) (b : Block) : Block := b.modSlot k fun s => { s with refs := s.refs + 1 }
/-- One reference less. -/
def unrefSlot (k : Nat) (b : Block) : Block := b.modSlot k fun s => { s with refs := s.refs - 1 }

/-- The CURRENT slot of partition p (R392, R397). -/
def currentSlot (b : Block) (p : Nat) : Option Nat :=
  [3 * p, 3 * p + 1, 3 * p + 2].find? fun k => (b.slot k).st == .current

/-- KEY_ID of a slot (R396). -/
def slotKeyId (b : Block) (k : Nat) : Nat :=
  if k < 12 then (b.slot k).vintage.toNat % 256 else (b.slot k).setTag.toNat % 256

/-- The slot that decrypts a packet naming a key and a partition (R396, R407). -/
def matchSlot (b : Block) (weight : Bool) (key part : Nat) : Option Nat :=
  if weight then
    [12, 13, 14, 15].find? fun k =>
      (b.slot k).st == .weight && slotKeyId b k == key && bitAt (b.slot k).pmask part
  else
    [3 * part, 3 * part + 1, 3 * part + 2].find? fun k =>
      let st := (b.slot k).st
      (st == .staged || st == .current || st == .previous) && slotKeyId b k == key

/-- The packet counter of a slot is exhausted (R395). -/
def nonceSpent (b : Block) (k : Nat) : Bool := decide (2 ^ 48 - 1 ≤ (b.slot k).nonce)

/-- The slot's packet counter for one packet, and the counter advanced; at 2^47 HIGH is set and an
event raised (R395). -/
def takeNonce (k : Nat) (b : Block) : Nat × Block :=
  let n := (b.slot k).nonce
  let b := b.modSlot k fun s => { s with nonce := n + 1 }
  if n + 1 = 2 ^ 47 then
    (n, raiseEvent 0x0C 0 0xFF k 1 0 (b.modSlot k fun s => { s with high := true }))
  else (n, b)

/-! ### Waking straits (R463, R606) -/

/-- A strait in a state from which it wakes. -/
def StraitSt.dozing : StraitSt → Bool
  | .qdoze | .ddoze | .off => true
  | _ => false

/-- A state that is eligible for traffic (Table 10.6). -/
def StraitSt.carries : StraitSt → Bool
  | .off | .up | .qdoze | .ddoze => true
  | _ => false

/-- STRAIT[n].LSTATE.ELIGIBLE: the state of Table 10.6, no drain that the peer asked for (R470), and not
OFF once the cellarers are lost (R733). -/
def eligible (b : Block) (n : Nat) : Bool :=
  (b.strait n).st.carries && !(b.strait n).peerDrain && !((b.strait n).st == .off && b.maint.lost)

/-- Straits that are waking (R606). -/
def wakingCount (b : Block) : Nat := ((List.range 32).filter fun n => (b.strait n).wake == .waking).length

/-- Strait n begins to wake: its wake signal goes out; from OFF, and from
DISABLED at boot (Table 16.7), it enters DETECT and trains, which starts the clock (R463, R42). A strait that leaves the
eligible set so has its queued packets chosen again when the command ends (R508). -/
def beginWake (n : Nat) (b : Block) : Block :=
  let b := b.emit (.wakeSignal n)
  let b := if (b.strait n).st = .off ∧ eligible b n then { b with route := { b.route with left := b.route.left ++ [n] } } else b
  if (b.strait n).st = .off ∨ (b.strait n).st = .disabled then
    startClock (b.modStrait n fun s => { s with wake := .waking, st := .detect, attempts := 0, retraining := false })
  else b.modStrait n fun s => { s with wake := .waking }

/-- One wake cause for the straits of a list, in index order (R606): up to 8 wake at once; the others
wait, and 2 units are asked for each. -/
def wakeList (ns : List Nat) (b : Block) : Block :=
  let r := ns.foldl (fun (acc : Block × Nat) n =>
    if wakingCount acc.1 < 8 then (beginWake n acc.1, acc.2)
    else (acc.1.modStrait n fun s => { s with wake := .waiting }, acc.2 + 1)) (b, 0)
  if r.2 = 0 then r.1 else askPermit .wake (2 * r.2) r.1

/-- A wake cause reaches the straits of a list: those in QDOZE, DDOZE or OFF that have no wake yet. No wake from
OFF starts once the cellarers are lost (R733). -/
def wakeStraits (ns : List Nat) (b : Block) : Block :=
  wakeList (ns.filter fun n => (b.strait n).st.dozing && (b.strait n).wake == .none &&
    !((b.strait n).st == .off && b.maint.lost)) b

/-- A grant for waiting straits (R606 steps 3 and 4): in index order each takes a free place among the 8, or 2
granted units; the units that are left are counted and returned at once. -/
def grantWakes (units : Nat) (b : Block) : Block :=
  let ns := (List.range 32).filter fun n => (b.strait n).wake == .waiting
  let r := ns.foldl (fun (acc : Block × Nat) n =>
    if (acc.1.strait n).st = .off ∧ acc.1.maint.lost then (acc.1.modStrait n fun s => { s with wake := .none }, acc.2)
    else if wakingCount acc.1 < 8 then (beginWake n acc.1, acc.2)
    else if 2 ≤ acc.2 then (beginWake n (acc.1.modStrait n fun s => { s with wakeUnits := 2 }), acc.2 - 2)
    else acc) (b, units)
  returnUnits r.2 { r.1 with pwr := { r.1.pwr with returnedUnused := r.1.pwr.returnedUnused + w64 r.2 } }

/-- The wake of strait n is over or abandoned: its units return (Table 14.3). -/
def endWake (n : Nat) (b : Block) : Block :=
  let u := (b.strait n).wakeUnits
  returnUnits u (b.modStrait n fun s => { s with wake := .none, wakeUnits := 0 })

/-- Wake time in ns from a state (Table 1.5). -/
def wakeNs : StraitSt → Nat
  | .up => 0
  | .qdoze => 60
  | .ddoze => 2000
  | _ => 40000000

/-! ### Choosing a strait (R507) -/

/-- The CURRENT bank, whose number is the epoch that new packets take (R504). -/
def injectEpoch (b : Block) : Option Nat := [0, 1].find? fun k => (b.bank k).st == .current

/-- The straits of a mask. -/
def straitsOf (m : Nat) : List Nat := (List.range 32).filter fun n => (m >>> n) % 2 == 1

/-- VCs that use SAFE in a torus bank (Table 11.8). -/
def usesSafe (vc : Nat) : Bool := vc == 0 || vc == 2 || vc == 4 || vc == 5

/-- The masks of a destination for a packet's own VC: preferred, and spill (Table 11.9, R507 step 1). The entry of the
node itself is ignored (R503). -/
def routeMasks (b : Block) (bank dst vc : Nat) : List Nat × List Nat :=
  let k := b.bank bank
  let e := tget 0 k.entries dst
  if dst = b.route.self.toNat then ([], [])
  else if k.torus then
    if usesSafe vc then
      ((straitsOf (bits e 63 32)).filter fun n => !bitAt k.dateline n, [])
    else (straitsOf (bits e 31 0), [])
  else (straitsOf (bits e 31 0), straitsOf (bits e 63 32))

/-- Indices in the order of the rotating pointer. -/
def rotated (ptr : Nat) (ns : List Nat) : List Nat :=
  ((List.range 32).map fun i => (ptr + i) % 32).filter ns.contains

/-- The first of a list with the least measure. -/
def leastBy (f : Nat → Nat) : List Nat → Option Nat
  | [] => none
  | n :: r =>
    match leastBy f r with
    | none => some n
    | some m => if f m < f n then some m else some n

/-- A strait that a calibration or retrain under FORCE holds (R471). -/
def heldByForce (b : Block) (n : Nat) : Bool :=
  let s := b.strait n
  s.forced && (s.st == .drain || s.st == .calibrate || s.st == .retrain)

/-- The strait for a packet (R507), if there is a candidate; without one, the strait of the mask that alone is held under
FORCE (R471, R509). -/
def chooseStrait (b : Block) (bank dst vc : Nat) : Option Nat :=
  let (prim, spill) := routeMasks b bank dst vc
  let pe := prim.filter (eligible b)
  let se := spill.filter (eligible b)
  let cands := if pe.isEmpty then se else pe
  let up := rotated b.route.ptr (cands.filter fun n => (b.strait n).st == .up)
  match leastBy (backlog b) up with
  | some n =>
    let sup := rotated b.route.ptr (se.filter fun m => (b.strait m).st == .up)
    if pe.isEmpty then some n
    else match leastBy (backlog b) sup with
      | some m => if backlog b m + b.route.spillAt.toNat < backlog b n then some m else some n
      | none => some n
  | none =>
    let order := rotated b.route.ptr cands
    match leastBy (fun n => wakeNs (b.strait n).st) order with
    | some best =>
      leastBy (backlog b) (order.filter fun n => wakeNs (b.strait n).st == wakeNs (b.strait best).st)
    | none =>
      match ((prim ++ spill).eraseDups.filter (heldByForce b)) with
      | [n] => some n
      | _ => none

/-! ### Into an egress queue -/

/-- What a packet's use holds on its behalf once it has been sent or discarded: the home's reference on
the slot of an answer (R397). -/
def dropUse (u : PktUse) (b : Block) : Block :=
  match u with
  | .home k => unrefSlot k b
  | _ => b

/-- A packet joins its queue at strait n, at the tail; a credit or grant goes ahead of data (R288,
R558). The strait is woken if it sleeps (R45). -/
def pushEgress (n : Nat) (p : QPkt) (b : Block) : Block :=
  let p := { p with since := b.time.loc }
  let b := b.modEg n fun e =>
    { e with queues := tmod [] e.queues p.q fun l =>
        if p.high then (l.takeWhile fun x => x.high) ++ [p] ++ (l.dropWhile fun x => x.high) else l ++ [p] }
  refreshElig n (wakeStraits [n] b)

/-- The VC that a packet has away from a dateline (R512): a forwarded one that of its arrival (R498). -/
def ownVc (p : QPkt) : Vc :=
  let v := if p.forwarded then p.inVc else p.vc
  if v.val = 7 then typeVc (rType p.pkt.route) else v

/-- A packet of this node leaves on VC7 when its strait crosses the dateline (R511). -/
def originVc (b : Block) (n bank : Nat) (vc : Vc) : Vc :=
  let k := b.bank bank
  if k.torus ∧ bitAt k.dateline n ∧ (vc.val = 1 ∨ vc.val = 3 ∨ vc.val = 6) then 7 else vc

/-- A packet of this node with its EPOCH and its nonce bound, encrypted under a slot or under none (R499, R504, R541). -/
def sealed (b : Block) (k : Option Nat) (bank nonce : Nat) (p : QPkt) : QPkt :=
  let pkt := { p.pkt with route := bindRoute p.pkt.route (bank == 1) nonce }
  { p with epoch := some (bank == 1), pkt, frame := frameOf (k.map fun k => (b.slot k).key) pkt }

/-- A packet that this node originates binds its EPOCH and its nonce, is encrypted and joins the queue (R504, R395);
one whose slot is exhausted is not encrypted, and its use fails (R740). A packet whose slot is EMPTY, its key zeroised (R401), is dropped. -/
def bindAndPush (n bank : Nat) (p : QPkt) (b : Block) : Block :=
  let b := { b with route := { b.route with ptr := (b.route.ptr + 1) % 32 } }
  let p := { p with vc := originVc b n bank (ownVc p) }
  match p.slot with
  | none => pushEgress n (sealed b none bank 0 p) b
  | some k =>
    if (b.slot k).st == .empty then dropUse p.use b
    else if nonceSpent b k then
      { b with route := { b.route with exhausted := b.route.exhausted ++ [(k, p.use)] } }
    else
      let (nonce, b) := takeNonce k b
      pushEgress n (sealed b (some k) bank nonce p) b

/-- A packet waits without an EPOCH, not encrypted, counted once (R509). -/
def waitNoRoute (p : QPkt) (b : Block) : Block :=
  { b with route := { b.route with
    waiting := b.route.waiting ++ [{ p with epoch := none, frame := [], counted := true, vc := ownVc p }]
    noRouteWaits := if p.counted then b.route.noRouteWaits else b.route.noRouteWaits + 1 } }

/-- A packet that this node originates chooses its strait, or waits for a route (R504, R507, R509). -/
def routeOut (p : QPkt) (b : Block) : Block :=
  match injectEpoch b with
  | none => waitNoRoute p b
  | some bank =>
    match chooseStrait b bank (rDst p.pkt.route) p.vc.val with
    | some n => bindAndPush n bank p b
    | none => waitNoRoute p b

/-- A forwarded packet ends at this node: it leaves its ingress buffer (R509). -/
def endForward (p : QPkt) (b : Block) : Block :=
  match p.fwd with
  | some id => releaseIngress p.inStrait id b
  | none => b

/-- The VC on which a forwarded packet leaves on strait n: the one it arrived on (R498), but for the datelines (R511,
R512). -/
def forwardVc (b : Block) (n : Nat) (p : QPkt) : Vc :=
  let k := b.bank (rEpoch p.pkt.route).toNat
  let dim (m : Nat) : Nat := bits k.dims (2 * m + 1) (2 * m)
  let vc : Vc := if p.inVc.val = 7 ∧ dim n ≠ dim p.inStrait then typeVc (rType p.pkt.route) else p.inVc
  if bitAt k.dateline n ∧ (vc.val = 1 ∨ vc.val = 3 ∨ vc.val = 6) then 7 else vc

/-- A forwarded packet chooses its strait in the bank of its EPOCH (R505), or is discarded (R509). -/
def routeForward (p : QPkt) (b : Block) : Block :=
  match chooseStrait b (rEpoch p.pkt.route).toNat (rDst p.pkt.route) (ownVc p).val with
  | some n =>
    pushEgress n { p with vc := forwardVc b n p } { b with route := { b.route with ptr := (b.route.ptr + 1) % 32 } }
  | none => endForward p { b with route := { b.route with unreachable := b.route.unreachable + 1 } }

/-- A queued packet that has not started is chosen again (R508, R509): a forwarded one in the bank of
its EPOCH; one of this node keeps its EPOCH while it finds a candidate and gives it up otherwise. -/
def rechoose (p : QPkt) (b : Block) : Block :=
  if p.forwarded then routeForward p b
  else
    match p.epoch with
    | none => routeOut p b
    | some e =>
      match chooseStrait b e.toNat (rDst p.pkt.route) (ownVc p).val with
      | some n =>
        let b := { b with route := { b.route with ptr := (b.route.ptr + 1) % 32 } }
        pushEgress n { p with vc := originVc b n e.toNat (ownVc p) } b
      | none => waitNoRoute p b

/-- The packets of a strait that have not started: the one chosen to start next, and those queued. -/
def unstarted (e : Egress) : List QPkt :=
  (match e.cur with
   | some c => if c.sent = 0 then [c.qp] else []
   | none => []) ++ e.queues.flatMap fun x => x.2

/-- The packets that have not started on a strait that left the eligible set are chosen again (R508). -/
def rechooseAll (n : Nat) (b : Block) : Block :=
  let ps := unstarted (b.eg n)
  (b.modEg n fun e => { e with
    queues := [], cur := match e.cur with
      | some c => if c.sent = 0 then none else some c
      | none => none }).each ps rechoose

/-- The straits that left the eligible set in this command, each in its turn (R508); `k` bounds how many there are. -/
def rechooseLeft : Nat → Block → Block
  | 0, b => b
  | k + 1, b =>
    match b.route.left with
    | [] => b
    | n :: r =>
      let b := { b with route := { b.route with left := r } }
      rechooseLeft k (if eligible b n then b else rechooseAll n b)

/-! ### Metering and queueing of originated packets (R572 to R576) -/

/-- The queue of a context's class, or SCAVENGER (Table 13.1). -/
def ctxQueue (ctx cls : Nat) : Nat := 8 * ctx + cls

/-- What a meter did with a packet: no meter, a colour that queues it in a queue, red under DROP. -/
inductive Metered where
  | queue (q : Nat)
  | red (m : Nat)
  deriving DecidableEq, Repr

/-- One metering of a packet of F bytes for a queue (R573, R575). -/
def meterPacket (q f : Nat) (b : Block) : Metered × Block :=
  match meterFor b (q / 8) (q % 8) with
  | none => (.queue q, b)
  | some m =>
    let (c, mt) := meterRun (b.meter m) b.time.loc f
    let b := b.modMeter m fun _ => countColour c mt
    match c with
    | .green => (.queue q, b)
    | .yellow => (.queue (ctxQueue (q / 8) 7), b)
    | .red => if bitAt mt.ctrl 61 then (.red m, b) else (.queue (ctxQueue (q / 8) 7), b)

/-- A packet of this node is metered and queued; a red one under DROP is held (R576). -/
def originate (p : QPkt) (b : Block) : Block :=
  if 128 ≤ p.q then routeOut p b
  else
    match meterPacket p.q (pktBytes p.pkt) b with
    | (.queue q, b) => routeOut { p with q := q } b
    | (.red m, b) => b.modMeter m fun mt => { mt with hold := mt.hold ++ [p] }

/-- The partition that a context is bound to, if it is bound. -/
def boundPart (b : Block) (c : Nat) : Option Nat :=
  if (b.ctx c).valid then some (b.ctx c).part.val else none

/-- The queue of an answer: class `cls` of the context that performed or refused the request, when it
is bound to the partition that the request names; SYSTEM otherwise (R557). -/
def answerQueue (b : Block) (c part cls : Nat) : Nat :=
  if boundPart b c = some part then ctxQueue c cls else 128

/-- A new packet of this node, before it is queued. -/
def newPkt (route op : Quad) (payload : List Byte) (ext : Option Word) (q : Nat) (vc : Vc)
    (slot : Option Nat) (use : PktUse) : QPkt :=
  { pkt := { route, op, payload, ext }, q, vc, slot, epoch := none, use, forwarded := false,
    inStrait := 0, since := 0, high := false, counted := false, inVc := vc }

/-! ### Reports (12_topology_partitions.md R539, R541, R552) -/

/-- The 32 B header of a control message (Table 12.3). -/
def ctlHeader (kind instnc dup count status index seq code arg off : Nat) : List Byte :=
  natBytes 16 (packNat [(120, kind), (119, instnc), (118, dup), (96, count), (88, status), (64, index), (0, seq)]) ++
  natBytes 16 (packNat [(120, code), (24, arg), (0, off)])

/-- A CONTROL packet of this node to a fabric manager source (R541). -/
def sendControl (dst : Nat) (payload : List Byte) (b : Block) : Block :=
  let r := mkRoute { type := tyControl, dst, src := b.route.self.toNat, part := 0, weight := false, key := 0,
                     poison := false, len := payload.length, dctx := 0, sctx := 0, inc := 0 }
  routeOut (newPkt r 0 payload none 128 1 none .none) b

/-- The valid fabric manager sources (R538). -/
def fmSources (b : Block) : List Nat :=
  ([0, 1].filter fun i => bitAt (tget 0 b.fm.sources i) 63).map fun i => bits (tget 0 b.fm.sources i) 12 0

/-- A report put on its way to every valid source. -/
def transmitReport (r : Report) (b : Block) : Block :=
  b.each (fmSources b) fun d b => sendControl d (ctlHeader 0x82 0 0 0 0 0 r.seq r.code.toNat r.arg.toNat 0) b

/-- A report of the active cellarer (R552, R665); `arg` holds ARG, bits [119:24] of word 1, given by the
bit numbers of Table 12.5. One of a block that is still in its reset waits, since NODE_READY is the first (Table 12.5). -/
def sendReport (code : Nat) (fields : List (Nat × Nat)) (b : Block) : Block :=
  if b.maint.lost then b
  else if b.maint.block then { b with fm := { b.fm with heldReports := b.fm.heldReports ++ [(code, fields)] } }
  else if 64 ≤ b.fm.reports.length then
    raiseEvent 0x10 0 0xFF 0xFF b.fm.reportSeq 0
      { b with fm := { b.fm with reportsLost := b.fm.reportsLost + 1 } }
  else
    let seq := b.fm.reportSeq + 1
    let r : Report := { seq := seq.toNat, code := BitVec.ofNat 8 code, arg := BitVec.ofNat 96 (packNat fields >>> 24) }
    transmitReport r { b with fm := { b.fm with reportSeq := seq, reports := b.fm.reports ++ [r] } }

/-- The drain count of a bank (R515): packets and cells naming it that are held at this node. -/
def drainCount (b : Block) (k : Nat) : Nat :=
  let e := k == 1
  ((List.range 32).map fun n =>
    let g := b.eg n
    let s := b.strait n
    (g.queues.map fun x => (x.2.filter fun p => p.epoch == some e).length).foldl (· + ·) 0 +
    (g.cells.filter fun c => cEpoch c.hdr == e).length +
    (match g.cur with
     | some c => if c.qp.epoch == some e then 1 else 0
     | none => 0) +
    (s.replay.filter fun h => h.last && (if h.vc.val = 0 then cEpoch h.route else rEpoch h.route) == e).length +
    (s.ingress.filter fun p => (if p.vc.val = 0 then cEpoch p.route else rEpoch p.route) == e).length).foldl (· + ·) 0

end Sys2Proof.Machine
end

