-- ==== Sys2Proof/Machine/Tokens.lean ====
section
/-!
DEFINITION. The maintenance tokens (16_faults_reset_recovery.md R655 to R657, Table 16.9).
-/

namespace Sys2Proof.Machine

/-- Resource codes of Table 16.9; strait n is n. -/
def resCellar : Nat := 0x20
def resPress : Nat := 0x21
def resKeystore : Nat := 0x22
def resFwslot : Nat := 0x23

/-- The token of a resource. -/
def Block.token (b : Block) (r : Nat) : Token := tget {} b.maint.tokens r
/-- The token of a resource set. -/
def Block.setToken (b : Block) (r : Nat) (t : Token) : Block :=
  { b with maint := { b.maint with tokens := tset b.maint.tokens r t } }

/-- Another requester holds the token (R655). -/
def tokenBusy (b : Block) (r holder : Nat) : Bool :=
  (b.token r).holder != 0 && (b.token r).holder != holder

/-- A token taken for an operation; one that its requester already holds stays as it is. -/
def takeToken (r holder : Nat) (b : Block) : Block :=
  if (b.token r).holder = 0 then b.setToken r { holder, explicit := false } else b

/-- The operation under a token ends: a token not held explicitly is released (R657). -/
def endToken (r : Nat) (b : Block) : Block :=
  if (b.token r).explicit then b else b.setToken r {}

end Sys2Proof.Machine
end

