-- ==== Sys2Proof/Machine/MemPort.lean ====
section
/-!
DEFINITION. The memory port (17_ports_integration.md Table 17.6, R685): requests by slice and tag, and
the granule an atomic holds between its read and its write (04_remote_access_memory_model.md R187).
The memory of the host die itself is no part of the block (R190): its answers come as commands.
-/

namespace Sys2Proof.Machine

/-- The lowest number not in a list. -/
def lowestFree (used : List Nat) : Nat :=
  ((List.range (used.length + 1)).find? fun k => !used.contains k).getD 0

/-- The atomic that holds granule g, its read having been issued (R187). -/
def granHolder (b : Block) (g : Nat) : Option Nat :=
  (b.home.ops.find? fun o =>
    match o.what with
    | .atomic .. => o.started && o.off / 64 == g
    | _ => false).map fun o => o.id

/-- A WRITE of granule g has been made and is not visible yet. -/
def granWritten (b : Block) (g : Nat) : Bool :=
  (b.mem.outstanding.any fun o => o.req.write && o.req.addr.toNat == g) ||
    b.mem.waiting.any fun r => r.write && r.addr.toNat == g

/-- A request may go: a tag of its slice is free, and no atomic other than its own holds the granule it
writes (R187, R685). -/
def memMayGo (b : Block) (r : MemReq) : Bool :=
  let s := r.addr.toNat % 32
  decide ((b.mem.outstanding.filter fun o => o.slice == s).length < 512) &&
    (!r.write ||
      match granHolder b r.addr.toNat with
      | none => true
      | some i => r.why == .home i)

/-- The protected ranges that an access touches (R404). -/
def rangesOver (b : Block) (off len : Nat) : List Nat :=
  (List.range 16).filter fun j =>
    let r := tget ({} : WRange) b.keys.ranges j
    r.valid && decide (r.base.toNat * 65536 < off + len ∧ off < r.limit.toNat * 65536)

/-- The first protected range that an access touches without travelling under its weight slot (R405). -/
def protectedBy (b : Block) (off len : Nat) (slot : Option Nat) : Option Nat :=
  (rangesOver b off len).find? fun j =>
    slot != some (12 + (tget ({} : WRange) b.keys.ranges j).wslot.toNat)

/-- Accesses of units of their own, which travel under no weight slot and which no check 10 has seen. -/
def unchecked (w : MemWhy) : Bool :=
  match w with
  | .loader | .walk _ | .crec _ | .ackWord _ | .thief _ | .watchWrite _ => true
  | .home _ | .ferryWrite _ | .collRead .. | .collWrite .. | .watchRead _ => false

/-- The protected range for which a request is refused without a memory access (R405). Ranges are whole granules. -/
def memBarred (b : Block) (r : MemReq) : Option Nat :=
  if unchecked r.why then protectedBy b (64 * r.addr.toNat) 64 none else none

/-- A request goes out under the lowest free tag of its slice. -/
def memGo (r : MemReq) (b : Block) : Block :=
  let s := r.addr.toNat % 32
  let tag := lowestFree ((b.mem.outstanding.filter fun o => o.slice == s).map fun o => o.tag)
  { b with mem := { b.mem with outstanding := b.mem.outstanding ++ [{ slice := s, tag, req := r }] } }

/-- A request goes out, or waits, or is refused for a protected range (R405). -/
def memIssue (r : MemReq) (b : Block) : Block :=
  if (memBarred b r).isSome then { b with mem := { b.mem with refused := b.mem.refused ++ [r] } }
  else if memMayGo b r then memGo r b
  else { b with mem := { b.mem with waiting := b.mem.waiting ++ [r] } }

/-- Waiting requests that may go now do so, oldest first. -/
def memDrain (b : Block) : Block :=
  Block.each b.mem.waiting memIssue { b with mem := { b.mem with waiting := [] } }

/-- A READ of the granule that holds an offset (R195). -/
def memRead (off : Nat) (hint : BitVec 2) (why : MemWhy) (b : Block) : Block :=
  memIssue { write := false, addr := BitVec.ofNat 44 (off / 64), hint, mask := 0, data := 0, why } b

/-- A WRITE of the enabled bytes of a granule (R195). -/
def memWrite (off : Nat) (hint : BitVec 2) (mask : Word) (data : Granule) (why : MemWhy) (b : Block) : Block :=
  memIssue { write := true, addr := BitVec.ofNat 44 (off / 64), hint, mask, data, why } b

/-- A READ or WRITE that holds the windows which its access passed (R377). -/
def memReadIn (wins : List WinRef) (off : Nat) (hint : BitVec 2) (why : MemWhy) (b : Block) : Block :=
  memIssue { write := false, addr := BitVec.ofNat 44 (off / 64), hint, mask := 0, data := 0, why, wins } b
def memWriteIn (wins : List WinRef) (off : Nat) (hint : BitVec 2) (mask : Word) (data : Granule) (why : MemWhy)
    (b : Block) : Block :=
  memIssue { write := true, addr := BitVec.ofNat 44 (off / 64), hint, mask, data, why, wins } b

/-- The purpose of a request whose asker is gone: its response completes nothing (identifiers of home
accesses start at 1). -/
def deadWhy : MemWhy := .home 0

/-- Reads whose asker is gone: those outstanding complete nothing, those waiting do not go. -/
def forgetReads (p : MemWhy → Bool) (b : Block) : Block :=
  let gone (r : MemReq) : Bool := !r.write && p r.why
  { b with mem := {
    outstanding := b.mem.outstanding.map fun o =>
      if gone o.req then { o with req := { o.req with why := deadWhy } } else o
    waiting := b.mem.waiting.filter fun r => !gone r } }

/-- Hints of Table 3.3. -/
def hintKeep : BitVec 2 := 0
def hintStream : BitVec 2 := 1

end Sys2Proof.Machine
end

