-- ==== Sys2Proof/Machine/Parts.lean ====
section
/-!
DEFINITION. The parts of sequencers, portal, racking engines, collectives and translation that neither
freeze a context nor start new work: what a freeze and a completion build on.
-/

namespace Sys2Proof.Machine

/-! ### Partitions -/

/-- Node n is a member of partition p at this node (12_topology_partitions.md R527). The word of
PART[p].MEMBERS[i] stands at key 128 p + i. -/
def isMember (b : Block) (p n : Nat) : Bool := bitAt (tget 0 b.fm.members (128 * p + n / 64)) (n % 64)

/-- The state of a context is RUNNING. -/
def ctxRuns (b : Block) (c : Nat) : Bool := (b.ctx c).st == .running

/-! ### Uses of translations (08_address_translation.md R366, R371) -/

/-- The generations of a context with live uses. -/
def liveGens (b : Block) (c : Nat) : List (BitVec 8) :=
  ((b.xlat.uses.filter fun u => u.ctx == c).map fun u => u.gen).eraseDups

/-- The generation of context c goes up by 1 for the start with this order; uses it had until then are old to
that start (R364, R371). -/
def bumpGen (order c : Nat) (b : Block) : Block :=
  let uses := b.xlat.uses.filter fun u => u.ctx == c
  let b := b.each [0, 1, 2, 3, 4] fun a b =>
    if (b.inv a).order = order then b.modInv a fun i => { i with old := i.old ++ uses } else b
  b.modCtx c fun x => { x with gen := x.gen + 1 }

/-- The oldest generation of a context with live uses: the one furthest behind the current one. -/
def oldestGen (b : Block) (c : Nat) : BitVec 8 :=
  let now := (b.ctx c).gen
  (liveGens b c).foldl (fun best g => if (now - best).toNat < (now - g).toNat then g else best) now

/-- A start raises the generation of context c, at once or, where that would make a fifth generation with live uses,
when the oldest of the four has none left (R364, R371). -/
def raiseGen (order c : Nat) (b : Block) : Block :=
  if (liveGens b c).length < 4 then bumpGen order c b
  else { b with xlat := { b.xlat with delayed := b.xlat.delayed ++ [{ order, ctx := c, oldest := oldestGen b c }] } }

/-- Increments that waited under R371 for a generation that has no uses now happen. -/
def releaseDelayed (b : Block) : Block :=
  Block.each b.xlat.delayed (fun d b =>
    if (liveGens b d.ctx).contains d.oldest then
      { b with xlat := { b.xlat with delayed := b.xlat.delayed ++ [d] } }
    else bumpGen d.order d.ctx b)
    { b with xlat := { b.xlat with delayed := [] } }

/-- A use begins (R366). -/
def beginUse (who : Waiter) (sub c : Nat) (gen : BitVec 8) (b : Block) : Block :=
  { b with xlat := { b.xlat with uses := b.xlat.uses ++ [{ who, sub, ctx := c, gen }] } }

/-- The uses that match end. -/
def endUses (p : Use → Bool) (b : Block) : Block :=
  releaseDelayed { b with xlat := { b.xlat with uses := b.xlat.uses.filter fun u => !p u } }

/-- One use ends. -/
def endUse (who : Waiter) (sub : Nat) (b : Block) : Block := endUses (fun u => u.who == who && u.sub == sub) b

/-- A waiter of group g and requester bit `bit` waits no more. The walks that it had joined go on, and one that
ends in a fault of a frozen context still writes its record (R357). -/
def dropWaiter (w : Waiter) (g bit : Nat) (b : Block) : Block :=
  { b with xlat := { b.xlat with
    walks := b.xlat.walks.map fun k =>
      { k with waiters := k.waiters.map fun x => if x.1 = w then (.gone g bit, x.2) else x } } }

/-! ### Sequencer holdings (03_dxi_reference.md R159 to R162) -/

/-- The holding set to a lower amount: units not lent return at once, lent ones when their operations end
(R159, R160). -/
def lowerHolding (q units : Nat) (b : Block) : Block :=
  let s := b.seq q
  let drop := s.permitHeld - units
  let now := min drop (s.permitHeld - s.permitLent)
  returnUnits now (b.modSeq q fun s =>
    { s with permitHeld := s.permitHeld - drop, permitLent := s.permitLent - (drop - now)
             permitOwed := s.permitOwed + (drop - now) })

/-- Units lent by a sequencer come back to its holding, or return where it has been lowered (R160). -/
def returnLent (q units : Nat) (b : Block) : Block :=
  let back := min units (b.seq q).permitOwed
  returnUnits back (b.modSeq q fun s =>
    { s with permitOwed := s.permitOwed - back, permitLent := s.permitLent - (units - back) })

/-- Units for an operation of sequencer q: those it can lend, and the shortfall (R160, R599). -/
def drawUnits (q units : Nat) (b : Block) : Nat × Nat × Block :=
  let s := b.seq q
  let lent := min units (s.permitHeld - s.permitLent)
  (lent, units - lent, b.modSeq q fun s => { s with permitLent := s.permitLent + lent })

/-- The request of a sequencer's ACQUIRE is cancelled (R602). -/
def cancelAcquire (q : Nat) (b : Block) : Block := cancelPermits (fun w => w == .seq q) b

/-- What a halt, an UNLOAD or a freeze clears: the hint and the held permit (R162). -/
def dropHolding (q : Nat) (b : Block) : Block :=
  cancelAcquire q (lowerHolding q 0 (b.modSeq q fun s => { s with awake := none }))

/-! ### The program counter (R120 to R126, R745) -/

/-- The opcode of a word (Table 3.1). -/
def wOpcode (w : Quad) : Nat := bits w 127 120

/-- The loops of a program: index of the LOOP word, and its END. -/
def loopsOf (words : List Quad) : List (Nat × Nat) :=
  ((List.range words.length).zip words).filterMap fun x =>
    if wOpcode x.2 = 0x05 then some (x.1, bits x.2 42 32) else none

/-- The nesting depth of the LOOP at p: the bodies that contain it (R121). -/
def loopDepth (loops : List (Nat × Nat)) (p : Nat) : Nat :=
  (loops.filter fun l => decide (l.1 < p ∧ p ≤ l.2)).length

/-- The loops that end at word e, innermost first (R124), with their depths. -/
def loopsEnding (words : List Quad) (e : Nat) : List (Nat × Nat) :=
  let ls := loopsOf words
  (ls.reverse.filter fun l => l.2 == e).map fun l => (l.1, loopDepth ls l.1)

/-- The loops that end at a completed word are evaluated: the next word, and the counters (R123, R124). -/
def loopBack (e : Nat) : List (Nat × Nat) → Tbl (BitVec 32) → Nat × Tbl (BitVec 32)
  | [], l => (e + 1, l)
  | (p, d) :: r, l =>
    let v := tget 0 l d
    if 1 < v.toNat then (p + 1, tset l d (v - 1)) else loopBack e r (tset l d 0)

/-- PC set to a word; WORDS halts at PC 0 instead (R745). -/
def setPc (q target : Nat) (b : Block) : Block :=
  if target = (b.seq q).words.length then
    dropHolding q (b.modSeq q fun s => { s with pc := 0, st := .halted })
  else b.modSeq q fun s => { s with pc := BitVec.ofNat 11 target }

/-- Word e has completed without a taken branch. -/
def advanceFrom (q e : Nat) (b : Block) : Block :=
  let s := b.seq q
  let (n, l) := loopBack e (loopsEnding s.words e) s.l
  setPc q n (b.modSeq q fun s => { s with l := l })

/-- The word at PC has completed without a taken branch. -/
def advance (q : Nat) (b : Block) : Block := advanceFrom q (b.seq q).pc.toNat b

/-- The sequencer's first fault or failure is recorded (R115, R116). -/
def recordFault (q pc : Nat) (st : Status) (b : Block) : Block :=
  b.modSeq q fun s =>
    if s.faultValid then s
    else { s with faultValid := true, faultPc := BitVec.ofNat 16 pc, faultStatus := BitVec.ofNat 8 st.code.toNat }

/-- A sequencer of a frozen context, by its state (R62, R113, R114). One that awaits a result, or the
source of a WATCH, freezes when it has it (SEQ_ENTER_FROZEN). -/
def freezeSeq (q : Nat) (b : Block) : Block :=
  match (b.seq q).st with
  | .running | .waiting =>
    if (b.seq q).hold == .result ∨ (b.seq q).hold == .watch then
      b.modSeq q fun s => { s with freezePending := true }
    else
      dropHolding q (b.modSeq q fun s => { s with st := .frozen, hold := .none, stopPending := false })
  | .loaded | .halted => dropHolding q (b.modSeq q fun s => { s with st := .frozen })
  | .idle | .loading | .frozen => b

/-- The sequencers that a context owns (R51). -/
def ownSeqs (b : Block) (c : Nat) : List Nat :=
  (List.range 64).filter fun q => (b.seq q).ownerValid && (b.seq q).owner.val == c

/-! ### The portal (04_remote_access_memory_model.md) -/

/-- The request that holds a tag. -/
def Block.req (b : Block) (tag : Nat) : Option PReq := b.portal.reqs.find? fun r => r.tag == tag
/-- The request that holds a tag changed. -/
def Block.modReq (b : Block) (tag : Nat) (f : PReq → PReq) : Block :=
  { b with portal := { b.portal with reqs := b.portal.reqs.map fun r => if r.tag = tag then f r else r } }
/-- A tag freed; a tile's tag counts in CTX[c].TAGS_HELD. -/
def freeTag (tag : Nat) (b : Block) : Block :=
  match b.req tag with
  | none => b
  | some r =>
    let b := { b with portal := { b.portal with reqs := b.portal.reqs.filter fun r => r.tag != tag } }
    if tag < 12288 then b.modCtx r.ctx fun c => { c with tagsHeld := c.tagsHeld - 1 } else b

/-- A response offered on a channel. -/
def pushResp (ch : Chan) (txn : BitVec 16) (tag : Option Nat) (st : Status) (data : Granule) (b : Block) : Block :=
  { b with portal := { b.portal with resps := b.portal.resps ++ [{ ch, txn, tag, status := st, data }] } }

/-- Operand bytes of an atomic TYPE (R130): INT32, INT64, FP32, BF16. -/
def atomBytes (ty : BitVec 2) : Nat := if ty = 1 then 8 else if ty = 3 then 2 else 4

/-- The old value as a G register takes it (R131). -/
def extendOld (ty : BitVec 2) (v : Nat) : Word :=
  if ty = 0 then BitVec.signExtend 64 (BitVec.ofNat 32 v)
  else if ty = 1 then w64 v
  else if ty = 2 then w64 (v % 2 ^ 32)
  else w64 (v % 2 ^ 16)

/-- Registers of a sequencer that came from a read under a weight slot, or no longer do (R408). -/
def sealRegs (on : Bool) (rs old : List Nat) : List Nat :=
  let rest := old.filter fun r => !rs.contains r
  if on then rest ++ rs else rest

/-- A reference of a use of context c ends; a frozen context keeps it until its reset (R385). -/
def endRef (c k : Nat) (b : Block) : Block :=
  if (b.ctx c).st = .frozen ∨ (b.ctx c).st = .resetting then b.modCtx c fun x => { x with keptKeys := x.keptKeys ++ [k] }
  else unrefSlot k b

/-- The result of a sequencer's operation is back: G registers and PC, or the failure recorded (R112,
R114, R116). A failed read returns zero bytes (R214). -/
def seqOpEnd (r : PReq) (q : SeqId) (pc : BitVec 11) (st : Status) (data : Granule) (b : Block) : Block :=
  let b := if st = .ok then b else recordFault q pc.toNat st b
  let v (i : Nat) : Word := if st = .ok then w64 (bits data (64 * i + 63) (64 * i)) else 0
  match r.op with
  | .read n =>
    let b := b.modSeq q fun s =>
      { s with g := (List.range (n / 8)).foldl (fun g i => tset g (r.gd + i) (v i)) s.g, hold := .none
               sealed := sealRegs (r.weight && st == .ok) ((List.range (n / 8)).map fun i => r.gd + i) s.sealed }
    advanceFrom q pc.toNat b
  | .atomic _ ty res _ _ =>
    if res then
      advanceFrom q pc.toNat
        (b.modSeq q fun s => { s with g := tset s.g r.gd (extendOld ty (v 0).toNat), hold := .none
                                      sealed := sealRegs false [r.gd] s.sealed })
    else b
  | _ => b

/-- A request completes or is refused: its translation use and its key reference end, the tile is
answered or the sequencer goes on; a sequencer's tag is free at once, a tile's when its response is taken
(R180, R366, R694). -/
def finishReq (tag : Nat) (st : Status) (data : Granule) (b : Block) : Block :=
  match b.req tag with
  | none => b
  | some r =>
    let b := match r.key with
      | some k => endRef r.ctx k b
      | none => b
    let g := match r.src with
      | .tile .. => 0
      | .seq .. => 1
    let b := dropWaiter (.portal tag) g (16 + g) (endUse (.portal tag) 0 b)
    match r.src with
    | .tile ch txn _ =>
      pushResp ch txn (some tag) st data (b.modReq tag fun r => { r with stage := .done, key := none })
    | .seq q pc => seqOpEnd r q pc st data (freeTag tag b)

/-- A queued packet belongs to the request with this tag. -/
def ofTag (tag : Nat) (p : QPkt) : Bool := p.use == .tag tag

/-- A request's packet waits for a route (R509) or in a hold line (R576). -/
def pktWaits (b : Block) (p : QPkt → Bool) : Bool :=
  b.route.waiting.any p || b.meters.any fun m => m.2.hold.any p

/-- A packet has not left this node: it waits, stands in an egress queue, or is being sent. -/
def pktHere (b : Block) (p : QPkt → Bool) : Bool :=
  pktWaits b p || b.egress.any fun e =>
    (e.2.cur.any fun c => p c.qp) || e.2.queues.any fun x => x.2.any p

/-- Packets that wait for a route or in a hold line and match are taken away. -/
def dropWaiting (p : QPkt → Bool) (b : Block) : Block :=
  { b with
    route := { b.route with waiting := b.route.waiting.filter fun x => !p x }
    meters := b.meters.map fun m => (m.1, { m.2 with hold := m.2.hold.filter fun x => !p x }) }

/-- Packets in egress queues that match, and that have not started, are taken away. -/
def dropQueued (p : QPkt → Bool) (b : Block) : Block :=
  { b with egress := b.egress.map fun e =>
    (e.1, { e.2 with queues := e.2.queues.map fun x => (x.1, x.2.filter fun y => !p y) }) }

/-- A request has been accepted but not sent (R182). -/
def unsent (b : Block) (r : PReq) : Bool :=
  match r.stage with
  | .fenced | .xlat | .held | .noRoute => true
  | .sent => pktWaits b (ofTag r.tag)
  | .loop | .done => (match r.op with
    | .fence _ => r.stage != .done
    | _ => false)

/-- The portal refuses, with ACCESS, what it has accepted of a context and not sent (R182). -/
def refuseUnsent (c : Nat) (b : Block) : Block :=
  Block.each (b.portal.reqs.filter fun r => r.ctx == c && unsent b r) (fun r b =>
    finishReq r.tag .access 0 (dropWaiting (ofTag r.tag) b)) b

/-! ### Racking engines (05_racking_engines.md) -/

/-- The engines of a context's mask (R55). -/
def ownEngines (b : Block) (c : Nat) : List Nat := setBits 16 (b.ctx c).engineMask

/-- The length of the chunk that starts `at0` bytes into a transfer (R228). -/
def chunkLen (src dst at0 len : Nat) : Nat :=
  min (len - at0) (min (4096 - (dst + at0) % 4096) (65536 - (src + at0) % 65536))

/-- Chunks of a transfer from `at0` on (R228): one more than the cuts; where source and destination agree
modulo 4,096, each source cut is also a destination cut. -/
def chunksFrom (src dst at0 len : Nat) : Nat :=
  if len ≤ at0 then 0
  else
    let d := (dst + len - 1) / 4096 - (dst + at0) / 4096
    let s := (src + len - 1) / 65536 - (src + at0) / 65536
    1 + d + (if src % 4096 = dst % 4096 then 0 else s)

/-- Draw permit units of a RATE (Table 5.3). -/
def rateUnits (rate : Nat) : Nat := if rate = 0 then 8 else if rate = 1 then 4 else 0

/-- A RATE in bytes a nanosecond, which is GB/s (Table 3.10): 256, 128, 64, 32, 16. -/
def rateBytes (rate : Nat) : Nat := 256 >>> rate

/-- The payload that an engine may issue at a local time (R226): never more than 4,096 B, refilled at the
RATE of its running transfer. -/
def paceNow (now rate : Nat) (r : Rack) : Nat := min 4096 (r.paceLeft + rateBytes rate * (now - r.paceAt))

/-- The amount of an unsent remainder (R249). -/
def remainder (x : Xfer) : Nat :=
  match x.dt with
  | none => 0
  | some (_, units) =>
    if units then chunksFrom x.src.toNat x.dst.toNat x.issued x.len else x.len - x.issued

/-- The slot that a partition still holds, out of one that was bound (R741). -/
def stillHeld (b : Block) (part k : Nat) : Bool :=
  match (b.slot k).st with
  | .empty => false
  | .weight => bitAt (b.slot k).pmask part
  | _ => k / 3 == part

/-- One errored remainder increment to a node and context (R249, R741). -/
def sendRemainderTo (x : Xfer) (node dctx : Nat) (b : Block) : Block :=
  let amount := remainder x
  let part := (b.ctx x.ctx).part.val
  match x.dt with
  | none => b
  | some (dt, _) =>
    if amount = 0 then b
    else if node = b.route.self.toNat then
      enqueueIncr { ctx := dctx, idx := dt, amount, err := true, part := some part, seq := none } b
    else
      let slot := match x.key with
        | some k => if stillHeld b part k then some k else currentSlot b part
        | none => currentSlot b part
      match slot with
      | none => b
      | some k =>
        let r := mkRoute { type := tySignal, dst := node, src := b.route.self.toNat, part,
                           weight := decide (12 ≤ k), key := slotKeyId b k, poison := false, len := 0,
                           dctx, sctx := x.ctx, inc := (b.ctx x.ctx).incarnation.toNat }
        let op := quad [(126, 2), (100, dt), (68, amount % 2 ^ 32), (60, amount / 2 ^ 32 % 256), (59, 1)]
        routeOut (newPkt r op [] none (ctxQueue x.ctx 0) 2 (some k) .none) b

/-- The running transfer leaves RUNNING: its permit returns and a maintenance token is used up (R240,
R255). -/
def leaveRunning (e : Nat) (b : Block) : Block :=
  match (b.rack e).run with
  | none => b
  | some x =>
    let b := returnUnits x.asked (returnLent x.seq x.lent b)
    b.modRack e fun r =>
      { r with
        st := .draining
        run := some { x with lent := 0, asked := 0 }
        maintValid := r.maintValid && x.maint.isNone }

/-- A draining engine with no chunk in flight becomes IDLE: CT is incremented (R145, R250), the transfer
leaves DRAINING (trace kind 6) and its key reference ends. -/
def endTransfer (e : Nat) (b : Block) : Block :=
  let r := b.rack e
  match r.run with
  | none => b
  | some x =>
    if r.st = .draining ∧ r.inflight.isEmpty then
      let b := match x.ct with
        | some t => enqueueIncr { ctx := x.ctx, idx := t, amount := 1, err := x.errored,
                                  part := some (b.ctx x.ctx).part.val, seq := some x.seq.val } b
        | none => b
      let b := traceEvent 6 e (w64 x.issued) (w64 x.serial) x.seq x.ctx x.firstErr.toNat x.pc.toNat b
      let b := match x.key with
        | some k => endRef x.ctx k b
        | none => b
      b.modRack e fun r => { r with st := .idle, run := none }
    else b

/-- The first status of a failure is recorded for a transfer and its engine (R248). -/
def xferError (e : Nat) (st : Status) (b : Block) : Block :=
  b.modRack e fun r =>
    { r with run := r.run.map fun x =>
        { x with errored := true, firstErr := if x.errored then x.firstErr else BitVec.ofNat 8 st.code.toNat } }

/-- RACK[e].FAULT takes the first fault (Table 5.5). -/
def rackFault (e : Nat) (pc : BitVec 11) (st : Status) (b : Block) : Block :=
  b.modRack e fun r =>
    if r.faultValid then r
    else { r with faultValid := true, faultPc := BitVec.ofNat 16 pc.toNat, faultStatus := BitVec.ofNat 8 st.code.toNat }

/-! ### Collectives (06_groups_collectives_press.md) -/

/-- A COLL KIND that reduces. -/
def reduces (kind : Nat) : Bool := kind == 0 || kind == 1 || kind == 4

/-- A claimed group (R261). -/
def groupOf (b : Block) (g : Nat) : Option Group := (b.press.groups.find? fun x => x.1 == g).map fun x => x.2
/-- A claimed group changed. -/
def Block.modGroup (b : Block) (g : Nat) (f : Group → Group) : Block :=
  { b with press := { b.press with groups := b.press.groups.map fun x => if x.1 = g then (x.1, f x.2) else x } }

/-- An issued reducing COLL is unfinished, or a slot holds an accumulation (R290). One is finished when RT has
advanced by its figure (R154), and over when it has ended (R313). -/
def pressBusy (b : Block) : Bool :=
  b.press.insts.any fun i =>
    (i.2.st != .free && i.2.issued && reduces i.2.kind && decide (0 < i.2.rtLeft)) || !i.2.accs.isEmpty

/-- The press returns its permit when nothing keeps it (R290). -/
def pressRest (b : Block) : Block :=
  if b.press.permit = .held ∧ !pressBusy b then
    let b' := { b with press := { b.press with permit := .none, lentBy := none } }
    match b.press.lentBy with
    | some (q, u) => returnUnits (24 - u) (returnLent q u b')
    | none => returnUnits 24 b'
  else b

/-- PRESS.LAST_DIVERGED. -/
def lastDiverged (b : Block) : Word :=
  word [(32, b.press.ldSequence.toNat), (22, b.press.ldGroup.toNat), (18, b.press.ldCause.toNat),
    (0, b.press.ldChunk.toNat)]

/-- The state of an instance that has become DIVERGED: one that waits for the press's permit stays in
PERMIT_WAIT until it runs (log 35). -/
def divergedSt (st : InstSt) : InstSt := if st = .running ∨ st = .arrived then .diverged else st

/-- A cause of divergence strikes an instance at this node (R311, R341): recorded, event, report; the
instance runs on. PRESS.DIVERGED counts an instance once. -/
def divergeInst (i cause chunk : Nat) (b : Block) : Block :=
  let x := b.inst i
  let b := { b with press := { b.press with
    ldSequence := BitVec.ofNat 32 x.sequence, ldGroup := BitVec.ofNat 10 x.group
    ldCause := BitVec.ofNat 4 cause, ldChunk := BitVec.ofNat 18 chunk
    diverged := if x.errored then b.press.diverged else b.press.diverged + 1 } }
  let b := b.modInst i fun x => { x with st := divergedSt x.st, errored := true }
  let b := raiseEvent 0x04 Status.diverged.code.toNat x.ctx i (lastDiverged b) 0 b
  sendReport 0x04 [(110, x.group), (78, x.sequence), (60, chunk), (56, cause)] b

/-- Chunks whose results are written at this node (Table 6.10). -/
def doneChunks (x : Inst) : Nat :=
  x.done + (x.chunks.filter fun c => decide (0 < c.expect ∧ c.expect ≤ c.written)).length

/-- The end of an instance at this node in the trace: kind 8 or 10 (Table 15.5). -/
def traceEnd (i : Nat) (b : Block) : Block :=
  let x := b.inst i
  let code := if x.errored then Status.diverged.code.toNat else 0
  traceEvent (if x.kind = 7 then 10 else 8) i (if x.kind = 7 then 0 else w64 (doneChunks x))
    (w64 (x.group * 2 ^ 32 + x.sequence)) (if x.issued then x.seq else 0xFF) x.ctx code
    (if x.issued then x.pc.toNat else 0) b

/-- An instance leaves the table: its end is traced, its key reference ends, the press may rest (R313, R286,
R324). One that finished before has been traced then (R154). -/
def releaseInst (i : Nat) (b : Block) : Block :=
  let x := b.inst i
  let b := if i < 256 then traceEnd i b else b
  let b := match x.key with
    | some k => endRef x.ctx k b
    | none => b
  let b := endUses (fun u => u.who == .coll i || u.who == .ferry i) b
  let groups := b.press.groups.map fun g =>
    if g.1 = x.group then (g.1, { g.2 with grants := g.2.grants.filter fun t => t.2 != x.sequence }) else g
  pressRest { b with press := { b.press with insts := tdel b.press.insts i, groups } }

/-- A queued packet belongs to an instance. -/
def ofInst (i : Nat) (p : QPkt) : Bool := p.use == .inst i

/-- Ferry cells of an instance that have not left this node are taken away (R313). -/
def dropCells (x : Inst) (b : Block) : Block :=
  let mine (c : Cell) : Bool :=
    cSrc c.hdr == b.route.self.toNat && cGroup c.hdr == x.group && cSeqLow c.hdr == x.sequence % 2 ^ 16
  { b with
    egress := b.egress.map fun e => (e.1, { e.2 with cells := e.2.cells.filter fun c => !mine c })
    ferry := { b.ferry with waiting := b.ferry.waiting.filter fun w => !mine w.cell } }

/-- A memory write is a result write of instance i. -/
def resultOf (i : Nat) (w : MemWhy) : Bool :=
  match w with
  | .collWrite j _ _ _ => j == i
  | .ferryWrite j => j == i
  | _ => false

/-- The use `sub` of instance i still has a write that is not visible. -/
def writesOut (b : Block) (i sub : Nat) : Bool :=
  let of (w : MemWhy) : Bool := match w with
    | .collWrite j _ _ u => j == i && u == sub
    | _ => false
  (b.mem.outstanding.any fun o => of o.req.why) || b.mem.waiting.any fun r => of r.why

/-- What an instance that ends drops of its memory accesses: reads, and writes that have not been issued (R313);
their uses of translations end as refused (R366). -/
def dropAccesses (i : Nat) (b : Block) : Block :=
  let b := dropWaiter (.coll i) 4 18 (dropWaiter (.ferry i) 4 19 b)
  let b := forgetReads (fun w => match w with
    | .collRead j _ => j == i
    | _ => false) b
  let late := (b.mem.waiting.filter fun r => resultOf i r.why).length
  let b := { b with mem := { b.mem with waiting := b.mem.waiting.filter fun r => !resultOf i r.why } }
  let b := b.modInst i fun x => { x with writes := x.writes - late }
  endUses (fun u => u.who == .coll i && !writesOut b i u.sub ||
    u.who == .ferry i && decide ((b.inst i).writes = 0)) b

/-- An instance ends at this node (R313): it sends nothing more, its uncounted result bytes are counted
errored, and it leaves the table when its last write is visible. In a frozen context it stays ENDING in the
table, with its key reference, until the context is reset (R385). -/
def endInst (i : Nat) (b : Block) : Block :=
  let x := b.inst i
  if x.st = .free ∨ x.st = .ending then b
  else
    let b := dropAccesses i (dropCells x (dropQueued (ofInst i) (dropWaiting (ofInst i) b)))
    let b := if x.issued ∧ 0 < x.rtLeft then
      enqueueIncr { ctx := x.ctx, idx := x.rt, amount := x.rtLeft, err := true,
                    part := some (b.ctx x.ctx).part.val, seq := some x.seq } b else b
    let b := if x.issued then b else b.modGroup x.group fun g => { g with ended := g.ended ++ [x.sequence] }
    let b := b.modInst i fun x =>
      { x with st := .ending, rtLeft := 0, done := doneChunks x, accs := [], chunks := [], errored := true }
    if (b.inst i).writes = 0 ∧ (b.ctx x.ctx).st ≠ .frozen then releaseInst i b else pressRest b

/-- The unfinished instances that match. -/
def instsWhere (b : Block) (p : Inst → Bool) : List Nat :=
  (b.press.insts.filter fun x => decide (x.1 < 256) && x.2.st != .free && x.2.st != .ending && p x.2).map fun x => x.1

end Sys2Proof.Machine
end

