-- ==== Sys2Proof/Machine/Tlb.lean ====
section
/-!
DEFINITION. Translation up to a walk (08_address_translation.md): the TLBs (R352, R353), the checks of a
leaf (R349), walks as they start and are joined (R345, R355).
-/

namespace Sys2Proof.Machine

/-- The 64 KiB page of a virtual address. -/
def pageOf (va : Word) : Nat := va.toNat / 65536

/-- 64 KiB units of a leaf at a level (Table 8.1). -/
def leafPages (level : Nat) : Nat := if level = 2 then 16384 else if level = 3 then 32 else 1

/-- A TLB entry holds the translation of a page of a context. -/
def TlbEntry.covers (e : TlbEntry) (c page : Nat) : Bool :=
  e.ctx == c && page / leafPages e.level == e.page / leafPages e.level

/-- An entry put at the most recently used place of a group's L1 (R352: 64 entries, least recently used
replaced). -/
def l1Fill (g : Nat) (e : TlbEntry) (b : Block) : Block :=
  let l := (tget [] b.xlat.l1 g).filter fun x => !x.covers e.ctx e.page
  { b with xlat := { b.xlat with l1 := tset b.xlat.l1 g ((e :: l).take 64) } }

/-- The L2 set of an entry (R352: the function is not specified, log 5). -/
def l2SetOf (e : TlbEntry) : Nat := Config.l2Set e.ctx e.level (e.page / leafPages e.level) % 2048

/-- An entry put into the L2; in a full set it replaces a way that the manual does not name (log 5). -/
def l2Fill (e : TlbEntry) (b : Block) : Block :=
  let l := b.xlat.l2.filter fun x => !x.covers e.ctx e.page
  let l :=
    if l.length < 8 then l ++ [e]
    else
      let same := l.filter fun x => l2SetOf x == l2SetOf e
      if same.length < 8 then l ++ [e]
      else match same[Config.l2Victim (l2SetOf e) % 8]? with
        | some v => l.filter (fun x => x != v) ++ [e]
        | none => l ++ [e]
  { b with xlat := { b.xlat with l2 := l } }

/-- A lookup in a group's L1, then in the L2; misses are counted (Table 8.7). -/
def lookupTlb (g c page : Nat) (b : Block) : Option TlbEntry × Block :=
  match (tget [] b.xlat.l1 g).find? fun e => e.covers c page with
  | some e => (some e, l1Fill g e b)
  | none =>
    let b := { b with xlat := { b.xlat with l1Misses := b.xlat.l1Misses + 1 } }
    match b.xlat.l2.find? fun e => e.covers c page with
    | some e => (some e, l1Fill g e b)
    | none => (none, { b with xlat := { b.xlat with l2Misses := b.xlat.l2Misses + 1 } })

/-- The table index of a page at a level (Table 8.1). -/
def levelIndex (page level : Nat) : Nat :=
  if level = 0 then page / 2 ^ 32 % 512
  else if level = 1 then page / 2 ^ 23 % 512
  else if level = 2 then page / 2 ^ 14 % 512
  else if level = 3 then page / 2 ^ 5 % 512
  else page % 32

/-- The read of a table entry (R344: hint KEEP). -/
def readEntry (id table page level : Nat) (b : Block) : Block :=
  memRead (table + 8 * levelIndex page level) hintKeep (.walk id) b

/-- XLAT.CTX[c].ROOT.OFFSET. -/
def rootOffset (b : Block) (c : Nat) : Nat := (keep (b.ctx c).root 49 12).toNat

/-- A walk begins at the root. -/
def beginWalk (c page : Nat) (waiters : List (Waiter × Nat × Word)) (b : Block) : Block :=
  let id := b.xlat.nextWalk
  readEntry id (rootOffset b c) page 0 { b with xlat := { b.xlat with
    nextWalk := id + 1
    walkCount := b.xlat.walkCount + 1
    walks := b.xlat.walks ++
      [{ id, ctx := c, page, level := 0, gen := (b.ctx c).gen, waiters }] } }

/-- A miss starts a walk, or joins the one for the same page (R355). -/
def joinWalk (c page : Nat) (w : Waiter) (acc : Nat) (va : Word) (b : Block) : Block :=
  if b.xlat.walks.any fun k => k.ctx == c && k.page == page then
    { b with xlat := { b.xlat with
      coalesced := b.xlat.coalesced + 1
      walks := b.xlat.walks.map fun k =>
        if k.ctx = c ∧ k.page = page ∧ !(k.waiters.any fun x => x.1 == w && x.2.1 == acc) then
          { k with waiters := k.waiters ++ [(w, acc, va)] }
        else k } }
  else beginWalk c page [(w, acc, va)] b

/-- A translated address: home node, offset there, destination context. -/
structure Trans where
  node : Nat
  off : Nat
  dctx : Nat
  deriving DecidableEq, Repr

/-- What a translation answers: it waits for a walk, it faults with a cause of Table 8.4, or it holds. -/
inductive Xl where
  | wait
  | bad (cause : Nat)
  | ok (t : Trans)
  deriving DecidableEq, Repr

/-- Accesses: 0 READ, 1 WRITE, 2 ATOMIC (Table 8.8), 3 none (a SIGNAL touches no memory, log 40), 4 the
destination of a stopped transfer's remainder (R249). -/
def accNone : Nat := 3
def accRemainder : Nat := 4

/-- A leaf's permissions and home node are checked (R349, R171); the physical address (R346). -/
def checkLeaf (b : Block) (c acc level : Nat) (leaf va : Word) : Xl :=
  let rd := bitAt leaf 1
  let wr := bitAt leaf 2
  let okPerm := if acc = 0 then rd else if acc = 1 ∨ acc = 4 then wr
    else if acc = 2 then rd && wr && bitAt leaf 3 else true
  let node := bits leaf 62 50
  if !okPerm then .bad 2
  else if !isMember b (b.ctx c).part.val node then .bad 6
  else .ok { node, off := bits leaf 49 16 * 65536 + va.toNat % (65536 * leafPages level), dctx := bits leaf 15 12 }

/-- The waiter already waits for a walk of this page with this access. -/
def waitsFor (b : Block) (c page : Nat) (w : Waiter) (acc : Nat) : Bool :=
  b.xlat.walks.any fun k => k.ctx == c && k.page == page && k.waiters.any fun x => x.1 == w && x.2.1 == acc

/-- An address is translated for a waiter of group g; without a root it faults whatever a TLB holds (R345, R351,
R355). -/
def translate (g c : Nat) (va : Word) (acc : Nat) (w : Waiter) (b : Block) : Xl × Block :=
  if waitsFor b c (pageOf va) w acc then (.wait, b)
  else match lookupTlb g c (pageOf va) b with
  | (r, b) =>
    if !bitAt (b.ctx c).root 0 then (.bad 5, b)
    else match r with
    | some e => (checkLeaf b c acc e.level e.leaf va, b)
    | none => (.wait, joinWalk c (pageOf va) w acc va b)

/-- The status of a cause (Table 8.4). -/
def causeStatus (cause : Nat) : Status := if cause = 4 then .dataPoison else .access

end Sys2Proof.Machine
end

