-- ==== Sys2Proof/Machine/Freeze.lean ====
section
/-!
DEFINITION. The freeze of a context (09_contexts_keys_weights.md R383 to R386), once for all of its
causes, and translation faults (08_address_translation.md R356, R357).
-/

namespace Sys2Proof.Machine

/-- The fault record for a page and access type is written or its mask updated (R356); its index, or 0xFF
when all four are in use. -/
def writeFaultRec (c page type cause : Nat) (st : Status) (bit : Nat) (b : Block) : Nat × Block :=
  let va : BitVec 57 := BitVec.ofNat 57 (page * 65536)
  let fr (k : Nat) : FaultRec := tget {} (b.ctx c).faults k
  let same := [0, 1, 2, 3].find? fun k => (fr k).valid && (fr k).va == va && (fr k).type.toNat == type
  match same with
  | some k =>
    let f : FaultRec := { fr k with mask := setBit (fr k).mask bit }
    (k, b.modCtx c fun x => { x with faults := tset x.faults k f })
  | none =>
    match [0, 1, 2, 3].find? fun k => !(fr k).valid with
    | some k =>
      let f : FaultRec :=
        { va, type := BitVec.ofNat 2 type, cause := BitVec.ofNat 4 cause,
          status := BitVec.ofNat 8 st.code.toNat, mask := setBit 0 bit, valid := true }
      (k, b.modCtx c fun x => { x with faults := tset x.faults k f })
    | none => (0xFF, b.modCtx c fun x => { x with overflow := x.overflow + 1 })

/-- The remainder of a stopped transfer is sent to the home of its last issued chunk, or of its first,
translated for this purpose; `true`: a walk must end first (R249). A translation that is not present writes its
fault record, and no increment is sent (R356). -/
def tryRemainder (e : Nat) (x : Xfer) (b : Block) : Bool × Block :=
  match x.dt, x.last with
  | none, _ => (false, b)
  | some _, some (n, dc) => (false, sendRemainderTo x n.toNat dc b)
  | some _, none =>
    match translate (2 + e / 8) x.ctx x.dst accRemainder (.rack e) b with
    | (.ok t, b) => (false, sendRemainderTo x t.node t.dctx b)
    | (.bad c, b) => (false, (writeFaultRec x.ctx (pageOf x.dst) 1 c (causeStatus c) e b).2)
    | (.wait, b) => (true, b)

/-- The transfers of an engine stop: none issues a further chunk, each sends its remainder (R249). A
transfer in PERMIT_WAIT cancels its request (R602) and stays there until the context reset (log 41). -/
def stopRack (e : Nat) (b : Block) : Block :=
  let st := (b.rack e).st
  let b := if st = .running then leaveRunning e b else b
  let b := if st = .permitWait then cancelPermits (fun w => w == .rack e) b else b
  let stopOne (x : Xfer) (b : Block) : Xfer × Block :=
    if x.stopped then (x, b)
    else
      let (due, b) := tryRemainder e x b
      ({ x with stopped := true, errored := x.errored || remainder x != 0 },
        if due then b.modRack e fun r => { r with rems := r.rems ++ [x] } else b)
  let (run, b) := match (b.rack e).run with
    | some x => if x.issued < x.len then
        let (x, b) := stopOne x b
        (some x, b) else (some { x with stopped := true }, b)
    | none => (none, b)
  let (queue, b) := (b.rack e).queue.foldl (fun (acc : List Xfer × Block) x =>
    let (x, b) := stopOne x acc.2
    (acc.1 ++ [x], b)) ([], b)
  endTransfer e (b.modRack e fun r => { r with run, queue })

/-- CTX[c].FREEZE (Table 9.7). -/
def freezeWord (x : CtxRec) : Word :=
  word [(16, x.frzSource.toNat), (8, x.frzStatus.toNat), (0, x.frzCause.toNat)]

/-- The first event of Table 9.2 freezes a RUNNING context: cause, status and source are recorded, the
event is raised, and the effects of R384 take hold. `oseq` and `opc` name the word that started what
failed, for the trace record (0xFF and 0: none). -/
def freezeCtx (c cause : Nat) (status : Status) (source oseq opc : Nat) (b : Block) : Block :=
  if !ctxRuns b c then b
  else
    let b := b.modCtx c fun x =>
      { x with
        st := .frozen
        frzSource := BitVec.ofNat 8 source
        frzStatus := BitVec.ofNat 8 status.code.toNat
        frzCause := BitVec.ofNat 8 cause
        frzTime := b.time.net }
    let b := raiseEvent 0x01 status.code.toNat c 0xFF (freezeWord (b.ctx c)) (b.ctx c).frzTime b
    let b := traceEvent 11 cause (w64 source) 0 oseq c status.code.toNat opc b
    let b := b.each (ownSeqs b c) freezeSeq
    let b := b.each (ownEngines b c) stopRack
    let b := refuseUnsent c b
    b.each (instsWhere b fun x => x.ctx == c) fun i b => endInst i (divergeInst i 5 (doneChunks (b.inst i)) b)

/-! ### Translation faults -/

/-- A translation fault of an access of context c in group g with requester bit `bit` (R356, R357). Its
event is raised, and the context frozen, for the first fault of a RUNNING context. A SIGNAL's fault is
recorded as a WRITE (log 40). -/
def xlatFault (c : Nat) (va : Word) (acc cause g bit oseq opc : Nat) (b : Block) : Block :=
  let st := causeStatus cause
  let first := ctxRuns b c
  let (k, b) := writeFaultRec c (pageOf va) (if acc = accNone then 1 else acc) cause st bit b
  if first then
    let b := raiseEvent 0x02 st.code.toNat c g va (w64 k) b
    freezeCtx c 4 st g oseq opc b
  else b

end Sys2Proof.Machine
end

