-- ==== Sys2Proof/Machine/Rack.lean ====
section
/-!
DEFINITION. Racking engines between transfers, and the end of a chunk (05_racking_engines.md Tables 5.2
and 5.4, R235, R236, R239, R246, R248).
-/

namespace Sys2Proof.Machine

/-- A failure that freezes the context of the running transfer: its status and the PC of its MOVE go to
RACK[e].FAULT and SEQ[s].FAULT (R248). -/
def xferFail (e : Nat) (st : Status) (cause source : Nat) (b : Block) : Block :=
  match (b.rack e).run with
  | none => b
  | some x =>
    let b := recordFault x.seq x.pc.toNat st (rackFault e x.pc st (xferError e st b))
    freezeCtx x.ctx cause st source x.seq x.pc.toNat b

/-- Partition p holds weight slot w (R235, R149). -/
def weightHeld (b : Block) (p w : Nat) : Bool := (b.slot (12 + w)).st == .weight && bitAt (b.slot (12 + w)).pmask p

/-- A transfer leaves PERMIT_WAIT: it takes its key binding and runs (R236, R253). With no CURRENT slot it
fails as under a retired key (R740); with its weight slot gone it takes no binding. -/
def rackRun (e : Nat) (b : Block) : Block :=
  match (b.rack e).run with
  | none => b
  | some x =>
    let part := (b.ctx x.ctx).part.val
    let key := match x.weight with
      | some w => if weightHeld b part w then some (12 + w) else none
      | none => currentSlot b part
    let b := b.modRack e fun r =>
      { r with st := .running
               run := some { x with key, maint := if r.maintValid then some r.maintEntry.toNat else none } }
    match key with
    | some k => refSlot k b
    | none => if x.weight.isNone then xferFail e .keyRetired 6 0xFF b else b

/-- An IDLE engine takes the head of its queue and asks for its permit (R239, R143). -/
def rackNext (e : Nat) (b : Block) : Block :=
  let r := b.rack e
  match r.st, r.queue with
  | .idle, x :: rest =>
    if x.stopped then b
    else
      let (lent, asked, b) := drawUnits x.seq (rateUnits x.rate) b
      let b := b.modRack e fun r => { r with st := .permitWait, queue := rest, run := some { x with lent, asked } }
      if asked = 0 then rackRun e b else askPermit (.rack e) asked b
  | _, _ => b

/-- A chunk is acknowledged or refused (R225, Table 5.4). `prot` names a protected range that a LOCAL
chunk met (R405); a mismatch is counted (R246); TRANSIT errors the transfer without a freeze (R490). -/
def chunkDone (e slot : Nat) (st : Status) (transit mismatch : Bool) (prot : Option Nat) (b : Block) : Block :=
  match (b.rack e).inflight.find? fun c => c.slot == slot with
  | none => b
  | some c =>
    let b := endUse (.rack e) slot
      (b.modRack e fun r => { r with inflight := r.inflight.filter fun c => c.slot != slot })
    let ctx := ((b.rack e).run.map fun x => x.ctx).getD 0
    let b := if mismatch then
      raiseEvent 0x03 0 ctx e c.srcVa 0 (b.modRack e fun r =>
        { r with csumMismatch := r.csumMismatch + 1, mismatchVa := BitVec.ofNat 57 c.srcVa.toNat }) else b
    let b :=
      if st = .ok then b
      else if transit then xferError e st b
      else match prot with
        | some j => xferFail e st 10 j b
        | none => if st = .access then xferFail e st 5 0 b else xferFail e st 3 e b
    rackNext e (endTransfer e b)

end Sys2Proof.Machine
end

