-- ==== Sys2Proof/Machine/Home.lean ====
section
/-!
DEFINITION. The home node: check 10 of Table 11.7 (04_remote_access_memory_model.md R217), the harbour
(R374), protected ranges (R405), the quarantine list (R215, R216), the atomic unit (R186, R187), reads,
writes, forwards and bulk data at the point of coherence, and their answers (R488, R489, R491).
-/

namespace Sys2Proof.Machine

/-! ### Check 10 -/

/-- Window w of context c grants an access to `len` bytes at `off` (R374). -/
def windowGrants (b : Block) (c w acc off len : Nat) : Bool :=
  let x := tget ({} : Window) (b.ctx c).windows w
  x.valid && decide (x.base.toNat * 65536 ≤ off ∧ off + len ≤ x.limit.toNat * 65536) &&
    (if acc = 0 then x.rd else if acc = 1 then x.wr else x.atm)

/-- The first window that grants an access. -/
def windowFor (b : Block) (c acc off len : Nat) : Option Nat :=
  (List.range 64).find? fun w => windowGrants b c w acc off len

/-- The quarantine entry that holds an offset (R215). -/
def quarEntry (b : Block) (off : Nat) : Option Nat :=
  (List.range 32).find? fun k => tget none b.home.quar k == some (off / 65536)

/-- A range enters the quarantine list (R215, R218, R641), in the lowest-numbered free entry (DESIGN CHOICE, log 14:
no rule gives an order). -/
def quarEnter (off : Nat) (b : Block) : Block :=
  if (quarEntry b off).isSome then b
  else
    match (List.range 32).find? fun k => tget none b.home.quar k == none with
    | some k =>
      raiseEvent 0x06 0 0xFF k (w64 (off / 65536 * 65536)) 0
        { b with home := { b.home with quar := tset b.home.quar k (some (off / 65536)) }
                 maint := { b.maint with quarEntered := b.maint.quarEntered + 1 } }
    | none => raiseEvent 0x07 0 0xFF 0xFF (w64 (off / 65536 * 65536)) 0 b

/-- What check 10 answers: the window that passed (64: none was asked), or a status, with the protected
range that refused. -/
inductive Chk where
  | pass (w : Nat)
  | fail (st : Status) (prot : Option Nat)
  deriving DecidableEq, Repr

/-- The window that a check passed, as its access holds it (R377). -/
def winRefs (b : Block) (c w : Nat) : List WinRef :=
  if w < 64 then [{ ctx := c, win := w, serial := (tget ({} : Window) (b.ctx c).windows w).withdrawn }] else []

/-- Check 10 of Table 11.7, in the order of R217: partition and context (R380, R384), harbour (R374),
protected ranges (R405), quarantine (R216). `acc` is 0 read, 1 write, 2 atomic, 3 for a SIGNAL, which
touches no memory. `maint` is the quarantine entry that a maintenance transfer may pass (R254). -/
def check10 (b : Block) (part dctx acc off len : Nat) (slot maint : Option Nat) : Chk :=
  let x := b.ctx dctx
  if !x.valid ∨ x.part.val ≠ part ∨ x.st ≠ .running then .fail .access none
  else if acc = 3 then .pass 64
  else match windowFor b dctx acc off len with
    | none => .fail .access none
    | some w =>
      match protectedBy b off len slot with
      | some j => .fail .access (some j)
      | none =>
        match quarEntry b off with
        | some k => if maint = some k then .pass w else .fail .dataPoison none
        | none => .pass w

/-- An access of a unit of this node to this node's own memory, in a context of its own: it is no inbound
access and needs no window (R374, R379); protected ranges (R405) and the quarantine list (R216) hold. Where
its translation names another context, check 10 applies whole (R379). DEDUCED: log 92. -/
def localCheck (b : Block) (own dctx acc off len : Nat) (slot : Option Nat) : Chk :=
  if dctx ≠ own then check10 b (b.ctx own).part.val dctx acc off len slot none
  else match protectedBy b off len slot with
    | some j => .fail .access (some j)
    | none => if (quarEntry b off).isSome then .fail .dataPoison none else .pass 64

/-- The windows that accesses of this node passed in other contexts, for those of the ranges that touch a granule
(R377). -/
def runWins (b : Block) (own acc : Nat) (slot : Option Nat) (rs : List (Nat × Nat × Nat)) (gran : Nat) : List WinRef :=
  (rs.filter fun r => decide (r.1 < 64 * gran + 64 ∧ 64 * gran < r.1 + r.2.1)).flatMap fun r =>
    match localCheck b own r.2.2 acc r.1 r.2.1 slot with
    | .pass w => winRefs b r.2.2 w
    | .fail .. => []

/-- An answer of ACCESS is counted for the destination context (R374). -/
def countNack (dctx : Nat) (st : Status) (b : Block) : Block :=
  if st = .access then b.modCtx dctx fun x => { x with harbNacks := x.harbNacks + 1 } else b

/-! ### Portal requests that fail -/

/-- The code of a request kind (Table 4.2). -/
def kindCode (o : ReqOp) : Nat :=
  match o with
  | .read _ => 0
  | .write .. => 1
  | .atomic .. => 2
  | .signal .. => 3
  | .fence r => if r then 5 else 4

/-- A refusal that would freeze a context is its first: it is recorded in PORTAL_FAULT, for a context that another
event froze before too (R183, R383). -/
def recordsPortal (x : CtxRec) : Bool := (x.st == .running || x.st == .frozen) && !x.pfValid

/-- A portal request is refused with a status that freezes its context (R181, R183, R116). -/
def portalFail (tag : Nat) (st : Status) (cause source : Nat) (b : Block) : Block :=
  match b.req tag with
  | none => b
  | some r =>
    let b := finishReq tag st 0 b
    match r.src with
    | .tile _ _ rid =>
      let b := b.modCtx r.ctx fun x =>
        if recordsPortal x then
          { x with pfValid := true, pfVa := BitVec.ofNat 57 r.va.toNat, pfRequester := rid
                   pfKind := BitVec.ofNat 3 (kindCode r.op), pfStatus := BitVec.ofNat 8 st.code.toNat }
        else x
      freezeCtx r.ctx cause st source 0xFF 0 b
    | .seq q pc => freezeCtx r.ctx cause st source q pc.toNat b

/-- The cause and source of a portal request's own failure (Table 9.2). -/
def ownCause (r : PReq) : Nat × Nat :=
  match r.src with
  | .tile _ _ rid => (1, rid.toNat % 64)
  | .seq q _ => (2, q)

/-- A home has answered a portal request (R181): performed, refused at the harbour (cause 5), poisoned,
or refused by a protected range of this node (cause 10). -/
def portalAnswer (tag : Nat) (st : Status) (data : Granule) (prot : Option Nat) (b : Block) : Block :=
  match b.req tag with
  | none => b
  | some r =>
    if st = .ok then finishReq tag .ok data b
    else match prot with
      | some j => portalFail tag st 10 j b
      | none =>
        if st = .access then portalFail tag st 5 0 b
        else
          let (cause, source) := ownCause r
          portalFail tag st cause source b

/-! ### Answers -/

/-- A RESP to a node (R491, R489): contexts swapped, under the slot that the request named, on which this
home holds a reference until the answer has been sent (R397). -/
def sendResp (dst sctx dctx : Nat) (inc : BitVec 8) (reqId : BitVec 16) (part slot : Nat) (st : Status)
    (transit mismatch : Bool) (payload : List Byte) (b : Block) : Block :=
  let r := mkRoute { type := tyResp, dst, src := b.route.self.toNat, part, weight := decide (12 ≤ slot),
                     key := slotKeyId b slot, poison := false, len := payload.length, dctx := sctx,
                     sctx := dctx, inc := inc.toNat }
  let op := quad [(112, reqId.toNat), (104, st.code.toNat), (103, transit.toNat), (102, mismatch.toNat)]
  originate (newPkt r op payload none (answerQueue b dctx part 1) 3 (some slot) (.home slot)) b

/-- The acknowledgement of bulk data goes to ACK_NODE; where that is this node, the chunk ends at once
(R489, R389), by a protected range of this node where one refused it (R405). -/
def sendAck (ack sctx dctx : Nat) (inc : BitVec 8) (reqId : BitVec 16) (part slot : Nat) (st : Status)
    (transit mismatch : Bool) (prot : Option Nat) (b : Block) : Block :=
  if ack = b.route.self.toNat then
    let b := unrefSlot slot b
    if (b.ctx sctx).incarnation = inc ∧ bits reqId 15 14 = 1 then
      chunkDone (bits reqId 13 10) (bits reqId 6 0) st transit mismatch prot b
    else b.modCtx sctx fun x => { x with late := x.late + 1 }
  else sendResp ack sctx dctx inc reqId part slot st transit mismatch [] b

/-- The increment that an access carries (R76, R77). -/
def countDt (o : HomeOp) (err : Bool) (b : Block) : Block :=
  match o.dt with
  | none => b
  | some (i, amount) =>
    enqueueIncr { ctx := o.dctx, idx := i, amount, err, part := some o.part.val, seq := none } b

/-- An access to this home is answered. -/
def homeAnswer (o : HomeOp) (st : Status) (data : Granule) (bytes : Nat) (prot : Option Nat) (b : Block) : Block :=
  match o.origin with
  | .loop tag => portalAnswer tag st (granOf 0 ((granBytes data).take bytes)) prot b
  | .remote src sctx inc reqId slot =>
    match o.what with
    | .data ack mismatch => sendAck ack.toNat sctx o.dctx inc reqId o.part.val slot st false mismatch prot b
    | _ =>
      let payload := if st = .ok then (granBytes data).take bytes else []
      sendResp src.toNat sctx o.dctx inc reqId o.part.val slot st false false payload b
  | .chunk e slot => chunkDone e slot st false
      (match o.what with
       | .data _ m => m
       | _ => false) prot b

/-! ### Accesses in progress -/

/-- An access takes an identifier, and holds the windows it passed (R377). -/
def addHome (o : HomeOp) (b : Block) : Nat × Block :=
  let id := b.home.nextId + 1
  (id, { b with home := { b.home with
    nextId := id, ops := b.home.ops ++ [{ o with id, wins := winRefs b o.dctx o.window ++ o.wins }] } })

/-- The access with an identifier. -/
def Block.homeOp (b : Block) (id : Nat) : Option HomeOp := b.home.ops.find? fun o => o.id == id
/-- An access changed. -/
def Block.modHome (b : Block) (id : Nat) (f : HomeOp → HomeOp) : Block :=
  { b with home := { b.home with ops := b.home.ops.map fun o => if o.id = id then f o else o } }
/-- An access is over. -/
def dropHome (id : Nat) (b : Block) : Block :=
  { b with home := { b.home with ops := b.home.ops.filter fun o => o.id != id } }

/-- An atomic reads its granule once no other atomic holds it and every earlier write of the granule is visible
(R186, R187, R189). -/
def atomicGo (id : Nat) (b : Block) : Block :=
  match b.homeOp id with
  | none => b
  | some o =>
    if (granHolder b (o.off / 64)).isSome ∨ granWritten b (o.off / 64) then b
    else memRead o.off hintKeep (.home id) (b.modHome id fun o => { o with started := true })

/-- The granule may be free for an atomic that waits for it: the oldest starts (R186, R187). -/
def atomicNext (g : Nat) (b : Block) : Block :=
  let next := b.home.ops.find? fun o => match o.what with
    | .atomic .. => !o.started && o.off / 64 == g
    | _ => false
  match next with
  | some o => atomicGo o.id b
  | none => b

/-- The atomic that held a granule is over: the next one of the granule starts, and writes that waited for
it go. -/
def atomicOver (g : Nat) (b : Block) : Block := memDrain (atomicNext g b)

/-- The granules of a range. -/
def granulesOf (off len : Nat) : List Nat := (List.range (ceilDiv len 64)).map fun i => off / 64 + i

/-- Granule i of a byte string. -/
def payloadGran (bs : List Byte) (i : Nat) : Granule := granOf 0 (slice bs (64 * i) 64)

/-- An access that passed check 10 begins: its memory-port requests go out. `mask` and `data` are those of
a write; `bytes` those of bulk data. -/
def homeBegin (o : HomeOp) (mask : Word) (data : Granule) (bytes : List Byte) (b : Block) : Block :=
  match o.what with
  | .read _ =>
    let (id, b) := addHome { o with left := 1 } b
    memRead o.off o.hint (.home id) b
  | .write =>
    let (id, b) := addHome { o with left := 1 } b
    memWrite o.off o.hint mask data (.home id) b
  | .atomic .. =>
    let (id, b) := addHome { o with left := 1 } b
    atomicGo id b
  | .forward .. | .data .. =>
    let gs := granulesOf o.off (match o.what with
      | .forward _ _ clen => clen
      | _ => bytes.length)
    let side := match o.side with
      | some _ => 1
      | none => 0
    let (id, b) := addHome { o with left := gs.length + side } b
    let write := match o.what with
      | .data .. => true
      | _ => false
    let b := b.each gs fun g b =>
      if write then memWrite (64 * g) o.hint (~~~0) (payloadGran bytes (g - o.off / 64)) (.home id) b
      else memRead (64 * g) hintStream (.home id) b
    match o.side with
    | none => b
    | some (s, v) =>
      if write then memWrite s o.hint (maskOf (s % 64) 4) (granOf (s % 64) (slice (granBytes v) 0 4)) (.home id) b
      else memRead s hintStream (.home id) b
  | .chunkRead => b

/-- An access is checked and begins, or is refused: NACK counted, its increment errored (R77, R374). -/
def homeAccess (o : HomeOp) (acc len : Nat) (slot maint : Option Nat) (mask : Word) (data : Granule)
    (b : Block) : Block :=
  match check10 b o.part.val o.dctx acc o.off len slot maint with
  | .pass w =>
    let b := match o.origin with
      | .loop tag => b.modReq tag fun r => { r with stage := .loop }
      | _ => b
    homeBegin { o with window := w } mask data [] b
  | .fail st prot => homeAnswer o st 0 0 prot (countDt o true (countNack o.dctx st b))

/-! ### Bulk data (R487 to R490) -/

/-- What a DATA packet, or its loopback at a source home, brings. `status` is that of a poison notice. -/
structure DataIn where
  ack : Nat
  sctx : Nat
  inc : BitVec 8
  reqId : BitVec 16
  slot : Nat
  part : Part
  dctx : Nat
  off : Nat
  hint : BitVec 2
  dt : Option (Nat × Nat)
  bytes : List Byte
  len : Nat
  carry : Option (Nat × BitVec 32)
  mismatch : Bool
  notice : Option Status
  transit : Bool

/-- A destination home takes bulk data (R489; check 7 of Table 11.7 for TRANSIT). The data's whole check 10,
quarantine included, comes before the sidecar word's, so a chunk that fails both answers the data's status (DESIGN
CHOICE, log 95). -/
def homeData (d : DataIn) (maint : Option Nat) (b : Block) : Block :=
  let side := d.carry.map fun c => (c.1 * 4, BitVec.setWidth 512 c.2)
  let o : HomeOp :=
    { id := 0, origin := .remote (BitVec.ofNat 13 d.ack) d.sctx d.inc d.reqId d.slot,
      what := .data (BitVec.ofNat 13 d.ack) d.mismatch, dctx := d.dctx, part := d.part, off := d.off,
      hint := d.hint, dt := d.dt, window := 64, left := 0, grans := [], side, poison := false,
      started := false, old := 0 }
  let sideWins (w : Nat) : List WinRef := winRefs b d.dctx w
  let main := check10 b d.part.val d.dctx 1 d.off d.len (some d.slot) maint
  let sideChk := match side with
    | some (s, _) => check10 b d.part.val d.dctx 1 s 4 (some d.slot) maint
    | none => .pass 64
  let answer (st : Status) (transit : Bool) (prot : Option Nat) (b : Block) : Block :=
    sendAck d.ack d.sctx d.dctx d.inc d.reqId d.part.val d.slot st transit d.mismatch prot b
  match main, sideChk with
  | .fail st prot, _ => answer st false prot (countDt o true (countNack d.dctx st b))
  | .pass _, .fail st prot => answer st false prot (countDt o true (countNack d.dctx st b))
  | .pass w, .pass v =>
    if d.transit then answer .dataPoison true none (countDt o true b)
    else match d.notice with
      | some st => answer st false none (countDt o true b)
      | none => homeBegin { o with window := w, wins := sideWins v } 0 0 d.bytes b

/-- MODE and DTV fields as an increment of a chunk (R145). -/
def dtOf (dtv : Bool) (dt : Nat) (units : Bool) (bytes : Nat) : Option (Nat × Nat) :=
  if dtv then some (dt, if units then 1 else bytes) else none

/-- The DATA packet, or loopback, that answers a FORWARD (R488): `notice` is the status of one that could
not be read; `sum` the stored checksum where one was read. -/
def answerForward (o : HomeOp) (src : Node) (sctx : Nat) (inc : BitVec 8) (reqId : BitVec 16) (slot : Nat)
    (d0 d1 : Quad) (clen : Nat) (bytes : List Byte) (notice : Option Status) (sum : Option (BitVec 32))
    (mismatch : Bool) (b : Block) : Block :=
  let dnode := bits d0 127 115
  let carry : Option (Nat × BitVec 32) := match sum with
    | some s => if bits d1 127 126 = 2 then some (bits d1 77 30, s) else none
    | none => none
  let units := bitAt d0 45
  if dnode = b.route.self.toNat then
    homeData { ack := src.toNat, sctx, inc, reqId, slot, part := o.part, dctx := bits d0 114 111,
               off := bits d0 110 61, hint := BitVec.ofNat 2 (bits d0 60 59),
               dt := dtOf (bitAt d0 58) (bits d0 57 46) units clen, bytes, len := clen, carry, mismatch,
               notice, transit := false } none b
  else
    let csv := carry.isSome || mismatch
    let r := mkRoute { type := tyData, dst := dnode, src := b.route.self.toNat, part := o.part.val,
                       weight := decide (12 ≤ slot), key := slotKeyId b slot, poison := notice.isSome,
                       len := clen, dctx := bits d0 114 111, sctx, inc := inc.toNat }
    let op := quad [(112, reqId.toNat), (62, bits d0 110 61), (60, bits d0 60 59), (59, bits d0 58 58),
      (47, bits d0 57 46), (46, bits d0 45 45), (45, csv.toNat),
      (13, (carry.map fun c => c.2.toNat).getD 0), (0, src.toNat)]
    let ext := if csv then
      some (word [(63, mismatch.toNat), (62, carry.isSome.toNat), (0, (carry.map fun c => c.1).getD 0)]) else none
    let payload := match notice with
      | some st => st.code :: List.replicate (clen - 1) 0xFF
      | none => bytes
    originate (newPkt r op payload ext (answerQueue b o.dctx o.part.val 2) 5 (some slot) (.home slot)) b

/-- A FORWARD is checked and its chunk read, or answered with its status (R488). -/
def homeForward (o : HomeOp) (src : Node) (sctx : Nat) (inc : BitVec 8) (reqId : BitVec 16) (slot : Nat)
    (d0 d1 : Quad) (clen : Nat) (b : Block) : Block :=
  let side := if bits d1 127 126 = 0 then none else some (bits d1 125 78 * 4, (0 : Granule))
  let main := check10 b o.part.val o.dctx 0 o.off clen (some slot) none
  let sideChk := match side with
    | some (s, _) => check10 b o.part.val o.dctx 0 s 4 (some slot) none
    | none => .pass 64
  match main, sideChk with
  | .fail st _, _ | .pass _, .fail st _ =>
    answerForward o src sctx inc reqId slot d0 d1 clen [] (some st) none false (countNack o.dctx st b)
  | .pass w, .pass v => homeBegin { o with window := w, side, wins := winRefs b o.dctx v } 0 0 [] b

/-- The bytes gathered for `len` bytes from an offset. -/
def gathered (gs : Tbl Granule) (off len : Nat) : List Byte :=
  (granulesOf off len).flatMap fun g => granBytes (tget 0 gs g)

/-- The 32-bit word at an offset, from gathered granules. -/
def sideWord (gs : Tbl Granule) (off : Nat) : BitVec 32 :=
  BitVec.ofNat 32 ((tget 0 gs (off / 64)).toNat >>> (8 * (off % 64)))

/-- A READ's data has come back for an access of this home; it is kept until the
last of them (R195, R213). -/
def homeGather (id addr : Nat) (poison : Bool) (data : Granule) (b : Block) : Block :=
  let b := if poison then quarEnter (addr * 64) b else b
  b.modHome id fun o =>
    { o with left := o.left - 1, poison := o.poison || poison, grans := tset o.grans addr data }

/-- The atomic unit has its granule (R130, R187, R214): the new value is written, or poison leaves memory
as it is. -/
def atomicRead (o : HomeOp) (aop : BitVec 3) (ty : BitVec 2) (opnd cmp : Word) (poison : Bool) (data : Granule)
    (b : Block) : Block :=
  if poison then
    let b := dropHome o.id (quarEnter o.off b)
    atomicOver (o.off / 64) (homeAnswer o .dataPoison 0 0 none (countDt o true b))
  else
    let n := atomBytes ty
    let at0 := o.off % 64
    let old := bits data (8 * (at0 + n) - 1) (8 * at0)
    let new := atomicOp aop ty old opnd.toNat cmp.toNat
    let b := b.modHome o.id fun x => { x with old := w64 old }
    let b := { b with util := { b.util with atomics := b.util.atomics + 1 } }
    memWrite o.off hintKeep (maskOf at0 n) (granOf at0 (natBytes n new)) (.home o.id) b

/-- A WRITE of an access of this home is visible (R25, R76): after the last one the increment is applied
and the access answered. -/
def homeVisible (id : Nat) (b : Block) : Block :=
  match b.homeOp id with
  | none => b
  | some o =>
    if 1 < o.left then b.modHome id fun x => { x with left := x.left - 1 }
    else
      let b := dropHome id b
      let b := countDt o false b
      match o.what with
      | .atomic _ _ res _ _ =>
        atomicOver (o.off / 64)
          (homeAnswer o .ok (BitVec.setWidth 512 o.old) (if res then 8 else 0) none b)
      | _ => homeAnswer o .ok 0 0 none b

end Sys2Proof.Machine
end

