-- ==== Sys2Proof/Machine/Portal.lean ====
section
/-!
DEFINITION. The portal (04_remote_access_memory_model.md): acceptance of tile requests (R175 to R178,
R678), their way through translation to loopback or to a packet (R171, R172, R482 to R485), fences (R200
to R202), and responses (R180, R694).
-/

namespace Sys2Proof.Machine

/-! ### From translation to the home -/

/-- The group of Table 8.3 of a portal request. -/
def reqGroup (r : PReq) : Nat :=
  match r.src with
  | .tile .. => 0
  | .seq .. => 1

/-- The trace bytes of a portal request's issuer. -/
def reqOrigin (r : PReq) : Nat × Nat :=
  match r.src with
  | .tile .. => (0xFF, 0)
  | .seq q pc => (q, pc.toNat)

/-- A portal request is refused for its own translation, and a tile's is recorded (R183, R358). -/
def portalRefuse (tag : Nat) (st : Status) (b : Block) : Block :=
  match b.req tag with
  | none => b
  | some r =>
    let b := finishReq tag st 0 b
    match r.src with
    | .tile _ _ rid => b.modCtx r.ctx fun x =>
        if recordsPortal x then
          { x with pfValid := true, pfVa := BitVec.ofNat 57 r.va.toNat, pfRequester := rid
                   pfKind := BitVec.ofNat 3 (kindCode r.op), pfStatus := BitVec.ofNat 8 st.code.toNat }
        else x
    | .seq .. => b

/-- A translation fault of a portal request: refused, recorded and the context frozen (R357, R358, R183). -/
def portalXlatFault (tag cause : Nat) (acc : Nat) (b : Block) : Block :=
  match b.req tag with
  | none => b
  | some r =>
    let (oseq, opc) := reqOrigin r
    xlatFault r.ctx r.va acc cause (reqGroup r) (16 + reqGroup r) oseq opc (portalRefuse tag (causeStatus cause) b)

/-- The access type of a request (Table 8.8). -/
def reqAcc (o : ReqOp) : Nat :=
  match o with
  | .read _ => 0
  | .write .. => 1
  | .atomic .. => 2
  | .signal .. | .fence _ => accNone

/-- The enabled bytes of a mask. -/
def maskBits (m : Word) : List Nat := setBits 64 m

/-- The enabled bytes form one run (R484). -/
def contiguous (m : Word) : Bool :=
  match (maskBits m).head?, (maskBits m).getLast? with
  | some a, some z => decide (z + 1 - a = (maskBits m).length)
  | _, _ => false

/-- The first enabled byte, and the bytes up to the last. -/
def maskSpan (m : Word) : Nat × Nat :=
  match (maskBits m).head?, (maskBits m).getLast? with
  | some a, some z => (a, z + 1 - a)
  | _, _ => (0, 0)

/-- The increment that a request carries to its home, with its amount (R129, R133, Table 4.2). -/
def reqDt (r : PReq) : Option (Nat × Nat) :=
  match r.dt, r.op with
  | some (i, units), .write mask _ => some (i, if units then 1 else (maskBits mask).length)
  | some (i, _), .atomic .. => some (i, 1)
  | _, _ => none

/-- The home access of a loopback request (R172). -/
def loopAccess (r : PReq) (b : Block) : Block :=
  let o : HomeOp :=
    { id := 0, origin := .loop r.tag, what := .write, dctx := r.dctx, part := r.part, off := r.off,
      hint := r.hint, dt := reqDt r, window := 64, left := 0, grans := [], side := none, poison := false,
      started := false, old := 0 }
  match r.op with
  | .read n => homeAccess { o with what := .read n } 0 n r.key none 0 0 b
  | .write mask data =>
    let g := r.off / 64 * 64
    let (a, len) := maskSpan mask
    match check10 b r.part.val r.dctx 1 (g + a) len r.key none with
    | .pass w => homeBegin { o with off := g, window := w } mask data []
        (b.modReq r.tag fun r => { r with stage := .loop })
    | .fail st prot => homeAnswer o st 0 0 prot (countDt o true (countNack r.dctx st b))
  | .atomic aop ty res opnd cmp =>
    homeAccess { o with what := .atomic aop ty res opnd cmp } 2 (atomBytes ty) r.key none 0 0 b
  | .signal amount _ =>
    let sig := match r.src with
      | .seq q _ => some q.val
      | .tile .. => none
    let tile := match r.src with
      | .seq .. => none
      | .tile _ _ rid => some (r.ctx, rid.toNat)
    let incr : Incr :=
      { ctx := r.dctx, idx := (r.dt.map fun d => d.1).getD 0, amount := amount.toNat, err := false,
        part := some r.part.val, seq := none, sig, tile }
    match check10 b r.part.val r.dctx 3 0 0 none none with
    | .pass _ => portalAnswer r.tag .ok 0 none (enqueueIncr incr b)
    | .fail st _ => portalAnswer r.tag st 0 none (countNack r.dctx st (enqueueIncr incr b))
  | .fence _ => b

/-- The packet of a remote request: TYPE, operation word and payload (R482 to R485). -/
def reqPacket (r : PReq) : Nat × Quad × List Byte :=
  let head := [(112, r.tag % 2 ^ 14)]
  match r.op with
  | .read n => (tyRead, quad (head ++ [(62, r.off), (55, n), (53, r.hint.toNat)]), [])
  | .write mask data =>
    let g := r.off / 64 * 64
    let (a, len) := maskSpan mask
    let dt := match r.dt with
      | some (i, units) => [(59, 1), (47, i), (46, units.toNat)]
      | none => []
    if contiguous mask then
      (tyWrite, quad (head ++ [(62, g + a), (60, r.hint.toNat)] ++ dt), slice (granBytes data) a len)
    else
      (tyWrite, quad (head ++ [(62, g), (60, r.hint.toNat), (45, 1)] ++ dt),
        natBytes 8 mask.toNat ++ granBytes data)
  | .atomic aop ty res opnd cmp =>
    let dt := match r.dt with
      | some (i, _) => [(55, 1), (43, i)]
      | none => []
    (tyAtomic, quad (head ++ [(62, r.off), (59, aop.toNat), (57, ty.toNat), (56, res.toNat)] ++ dt),
      natBytes 8 opnd.toNat ++ natBytes 8 (if aop = 4 then cmp.toNat else 0))
  | .signal amount _ =>
    (tySignal, quad (head ++ [(100, (r.dt.map fun d => d.1).getD 0), (68, amount.toNat)]), [])
  | .fence _ => (0, 0, [])

/-- A red tile request at a DROP meter is refused with NOT_READY (Table 13.4). -/
def tileRed (tag m : Nat) (b : Block) : Block :=
  finishReq tag .notReady 0 (b.modMeter m fun mt => { mt with refused := mt.refused + 1 })

/-- A translated request goes to its home: a loopback (R172), or a packet. A tile request that could not be metered
at acceptance, its home being unknown then, is metered here (R573, R575, R576; log 96). -/
def portalSend (tag : Nat) (t : Trans) (b : Block) : Block :=
  let b := b.modReq tag fun r =>
    { r with node := BitVec.ofNat 13 t.node, off := t.off, dctx := t.dctx, stage := .sent }
  match b.req tag with
  | none => b
  | some r =>
    if t.node = b.route.self.toNat then loopAccess r b
    else
      let (type, op, payload) := reqPacket r
      let k := r.key.getD 0
      let route := mkRoute { type, dst := t.node, src := b.route.self.toNat, part := r.part.val,
                             weight := decide (12 ≤ k), key := slotKeyId b k, poison := false,
                             len := payload.length, dctx := t.dctx, sctx := r.ctx,
                             inc := (b.ctx r.ctx).incarnation.toNat }
      let p := newPkt route op payload none (ctxQueue r.ctx 0) 2 r.key (.tag tag)
      match r.src with
      | .seq .. => originate p b
      | .tile .. =>
        match r.queued with
        | some q => routeOut { p with q := q } b
        | none =>
          match meterPacket p.q (pktBytes p.pkt) b with
          | (.queue q, b) => routeOut { p with q := q } b
          | (.red m, b) => tileRed tag m b

/-- A request that may go is translated; a sequencer's remote SIGNAL names its node itself (R171, R345). -/
def portalXlat (tag : Nat) (b : Block) : Block :=
  match b.req tag with
  | none => b
  | some r =>
    match r.op with
    | .signal _ (some (n, c)) =>
      if isMember b r.part.val n.toNat then portalSend tag { node := n.toNat, off := 0, dctx := c } b
      else
        let (cause, source) := ownCause r
        portalFail tag .access cause source b
    | _ =>
      let acc := reqAcc r.op
      match translate (reqGroup r) r.ctx r.va acc (.portal tag) b with
      | (.wait, b) => b.modReq tag fun r => { r with stage := .xlat }
      | (.bad cause, b) => portalXlatFault tag cause acc b
      | (.ok t, b) => portalSend tag t (beginUse (.portal tag) 0 r.ctx (b.ctx r.ctx).gen b)

/-! ### Fences and acceptance -/

/-- Two requests come from one requester (R176, R140). -/
def sameRequester (a r : PReq) : Bool :=
  match a.src, r.src with
  | .tile _ _ x, .tile _ _ y => a.ctx == r.ctx && x == y
  | _, _ => false

/-- The requests of a requester accepted before the one with a tag. -/
def earlierReqs (b : Block) (r : PReq) : List PReq :=
  (b.portal.reqs.takeWhile fun x => x.tag != r.tag).filter fun x => sameRequester x r

/-- A request is a fence. -/
def isFence (r : PReq) : Bool :=
  match r.op with
  | .fence _ => true
  | _ => false

/-- No SIGNAL of a request's requester to this node waits to be applied (R201). -/
def signalsIn (b : Block) (r : PReq) : Bool :=
  match r.src with
  | .tile _ _ rid => !(b.tally.incs.any fun i => i.tile == some (r.ctx, rid.toNat))
  | .seq .. => true

/-- The condition of a fence holds (R200, R201). -/
def fenceDone (b : Block) (r : PReq) : Bool :=
  match r.op with
  | .fence true => (earlierReqs b r).all fun x => x.stage == .done
  | .fence false => signalsIn b r && (earlierReqs b r).all fun x =>
      match x.op with
      | .write .. | .atomic .. | .signal .. => x.stage == .done || x.stage == .sent
      | _ => true
  | _ => false

/-- A request goes on to translation unless an earlier fence of its requester is open (R200, R201). -/
def portalGo (tag : Nat) (b : Block) : Block :=
  match b.req tag with
  | none => b
  | some r =>
    if isFence r then b
    else if (earlierReqs b r).any fun x => isFence x && x.stage != .done then b
    else portalXlat tag b

/-- A tile request's own errors (Table 4.3): size, operation, alignment, granule, hint. -/
def tileBad (r : TileReq) : Bool :=
  let va := r.hdr.va.toNat
  match r.kind with
  | .fenceLocal | .fenceRemote => r.hdr.hint == 3
  | .load size => r.hdr.hint == 3 || decide (6 < size.toNat) || va % 2 ^ size.toNat != 0
  | .store mask _ _ => r.hdr.hint == 3 || mask == 0 || decide (2 ^ 64 ≤ mask.toNat * 2 ^ (va % 64))
  | .atomic aop ty _ _ _ _ => r.hdr.hint == 3 || !atomicPair aop ty || va % atomBytes ty != 0
  | .signal amount _ => r.hdr.hint == 3 || amount == 0

/-- The named tally of a tile request. -/
def tileDt (t : TileTally) : Option (Nat × Bool) := if t.dtv then some (t.dt.toNat, t.units) else none

/-- What a tile request asks for. -/
def tileOp (r : TileReq) : ReqOp × Option (Nat × Bool) :=
  let sh := r.hdr.va.toNat % 64
  match r.kind with
  | .load size => (.read (2 ^ size.toNat), none)
  | .store mask data t => (.write (mask <<< sh) (data <<< (8 * sh)), tileDt t)
  | .atomic aop ty res opnd cmp t => (.atomic aop ty res opnd cmp, tileDt t)
  | .signal amount t => (.signal (amount.setWidth 32) none, some (t.dt.toNat, t.units))
  | .fenceLocal => (.fence false, none)
  | .fenceRemote => (.fence true, none)

/-- The lowest free tile tag (R177). -/
def tileTag (b : Block) : Nat :=
  lowestFree ((b.portal.reqs.filter fun r => decide (r.tag < 12288)).map fun r => r.tag)

/-- A context can take a tile tag (R177, Table 4.4). -/
def tagFree (b : Block) (c : Nat) : Bool :=
  decide (tileTag b < 12288 ∧ (b.ctx c).tagsHeld < min 12288 (b.ctx c).tagLimit.toNat)

/-- A bound, RUNNING context: its new requests are not refused out of hand (Table 4.3, R182, R739). -/
def ctxServes (b : Block) (c : Nat) : Bool := (b.ctx c).valid && ctxRuns b c

/-- The home that a tile request's address translates to, where a TLB holds its translation; nothing is counted. -/
def knownHome (b : Block) (r : PReq) : Option Nat :=
  match (if bitAt (b.ctx r.ctx).root 0 then (lookupTlb (reqGroup r) r.ctx (pageOf r.va) b).1 else none) with
  | some e =>
    match checkLeaf b r.ctx (reqAcc r.op) e.level e.leaf r.va with
    | .ok t => some t.node
    | _ => none
  | none => none

/-- A tile request whose packet is to leave this node is metered as it is accepted (R573): the queue it will enter,
or its refusal. -/
def meterTile (tag : Nat) (b : Block) : Block :=
  match b.req tag with
  | none => b
  | some r =>
    match knownHome b r with
    | none => portalGo tag b
    | some n =>
      if n = b.route.self.toNat ∨ isFence r then portalGo tag b
      else
        let (_, _, payload) := reqPacket r
        match meterPacket (ctxQueue r.ctx 0) (48 + payload.length) b with
        | (.queue q, b) => portalGo tag (b.modReq tag fun r => { r with queued := some q })
        | (.red m, b) => tileRed tag m b

/-- A tile request is accepted (R175 to R183): a context that is not bound or not RUNNING is refused with
no further effect; otherwise it takes a tag, is checked, binds its key (R397, R740) and goes on. -/
def acceptTile (r : TileReq) (b : Block) : Block :=
  let c := r.hdr.ctx.val
  let b := { b with util := { b.util with portalRequests := b.util.portalRequests + 1 } }
  if !ctxServes b c then pushResp r.ch r.hdr.txn none .access 0 b
  else
    let tag := tileTag b
    let (op, dt) := tileOp r
    let va : Word := match op with
      | .fence _ => 0
      | _ => r.hdr.va.setWidth 64
    let bad := tileBad r
    let needsKey := match op with
      | .fence _ => false
      | _ => !bad
    let key := if needsKey then currentSlot b (b.ctx c).part.val else none
    let q : PReq :=
      { tag, src := .tile r.ch r.hdr.txn r.hdr.rid, ctx := c, part := (b.ctx c).part, op, va,
        hint := r.hdr.hint, dt, gd := 0, stage := .fenced, key, weight := false, node := 0, off := 0, dctx := 0 }
    let b := { b with portal := { b.portal with reqs := b.portal.reqs ++ [q] } }
    let b := b.modCtx c fun x => { x with tagsHeld := x.tagsHeld + 1 }
    if bad then portalFail tag .access 1 (r.hdr.rid.toNat % 64) b
    else
      match needsKey, key with
      | true, none => portalFail tag .keyRetired 6 0xFF b
      | true, some k => meterTile tag (refSlot k b)
      | false, _ => portalGo tag b

/-- An earlier request of the same requester is held on the port (R178). -/
def heldBefore (b : Block) (r : TileReq) : Bool :=
  b.portal.heldReqs.any fun x => x.hdr.ctx == r.hdr.ctx && x.hdr.rid == r.hdr.rid

/-- A request can be accepted now: it needs a tag, or its context is refused (R178, R182). -/
def canAccept (b : Block) (r : TileReq) : Bool := !ctxServes b r.hdr.ctx.val || tagFree b r.hdr.ctx.val

/-- A request is held on the port. -/
def holdTile (r : TileReq) (b : Block) : Block :=
  { b with portal := { b.portal with heldReqs := b.portal.heldReqs ++ [r] } }

/-- A tile presents a request (R175). While the clock does not run, a channel latches one request, which
starts it, and holds any further one (R678). -/
def coreTile (r : TileReq) (b : Block) : Block :=
  if b.dpRuns then
    if heldBefore b r ∨ !canAccept b r then holdTile r b else acceptTile r b
  else if b.portal.latched.any fun x => x.ch == r.ch then holdTile r b
  else startClock { b with portal := { b.portal with latched := b.portal.latched ++ [r] } }

/-- The latched requests are taken when the clock runs (R678). -/
def takeLatched (b : Block) : Block :=
  Block.each b.portal.latched (fun r b => if canAccept b r then acceptTile r b else
    { b with portal := { b.portal with heldReqs := r :: b.portal.heldReqs } })
    { b with portal := { b.portal with latched := [] } }

/-- A held request is accepted when a tag is free, contexts in turn, requests of one requester in issue
order (R178). -/
def corePortalHeldAccept (b : Block) : Block :=
  if !b.dpRuns then b
  else
    let order := (List.range 16).map fun i => (b.portal.rr + i) % 16
    let pick := order.findSome? fun c =>
      (b.portal.heldReqs.find? fun r => r.hdr.ctx.val == c).bind fun r => if canAccept b r then some r else none
    match pick with
    | none => b
    | some r =>
      let before := b.portal.heldReqs.takeWhile fun x => x.hdr.ctx != r.hdr.ctx
      let after := (b.portal.heldReqs.dropWhile fun x => x.hdr.ctx != r.hdr.ctx).drop 1
      acceptTile r { b with portal := { b.portal with heldReqs := before ++ after, rr := (r.hdr.ctx.val + 1) % 16 } }

/-- A held fence's condition holds: it returns OK and the requests behind it proceed, up to the next open
fence (R202). -/
def corePortalFenceComplete (tag : Nat) (b : Block) : Block :=
  match b.req tag with
  | none => b
  | some r =>
    if isFence r ∧ r.stage ≠ .done ∧ fenceDone b r then
      let later := ((b.portal.reqs.dropWhile fun x => x.tag != tag).drop 1).filter fun x =>
        sameRequester x r && x.stage == .fenced
      (finishReq tag .ok 0 b).each later fun x b => portalGo x.tag b
    else b

/-- A tile takes a response, which frees its tag (R694). -/
def corePortalResponseTaken (ch : Chan) (txn : BitVec 16) (b : Block) : Block :=
  match b.portal.resps.find? fun r => r.ch == ch && r.txn == txn with
  | none => b
  | some r =>
    let b := { b with portal := { b.portal with resps := b.portal.resps.filter fun x => x != r } }
    match r.tag with
    | some t => freeTag t b
    | none => b

/-! ### Requests of sequencers -/

/-- The lowest free tag of a sequencer's 64 (R112; tag numbers are log 20). -/
def seqTag (b : Block) (q : Nat) : Option Nat :=
  let base := 12288 + 64 * q
  let t := lowestFree ((b.portal.reqs.filter fun r => decide (base ≤ r.tag ∧ r.tag < base + 64)).map fun r => r.tag - base)
  if t < 64 then some (base + t) else none

/-- A word of a sequencer becomes a portal request under a key that is already chosen (R112, R397). -/
def seqRequest (q : SeqId) (tag pc : Nat) (op : ReqOp) (va : Word) (hint : BitVec 2) (dt : Option (Nat × Bool))
    (gd key : Nat) (b : Block) : Block :=
  let c := (b.seq q).owner.val
  let b := { b with util := { b.util with portalRequests := b.util.portalRequests + 1 } }
  let r : PReq :=
    { tag, src := .seq q (BitVec.ofNat 11 pc), ctx := c, part := (b.ctx c).part, op, va, hint, dt, gd,
      stage := .fenced, key := some key, weight := decide (12 ≤ key), node := 0, off := 0, dctx := 0 }
  portalXlat tag (refSlot key { b with portal := { b.portal with reqs := b.portal.reqs ++ [r] } })

/-! ### Responses from other nodes -/

/-- A RESP passes check 9: what it answers is held, under the current incarnation (R180, R389). -/
def respHeld (b : Block) (route op : Quad) : Bool :=
  let id := bits op 127 112
  let c := rDctx route
  decide ((b.ctx c).incarnation.toNat = rInc route) &&
    (if id / 2 ^ 14 = 0 then
      (match b.req (id % 2 ^ 14) with
       | some r => r.ctx == c && r.stage == .sent
       | none => false)
     else if id / 2 ^ 14 = 1 then
      let e := bits op 125 122
      (((b.rack e).run.map fun x => x.ctx == c).getD false) &&
        (b.rack e).inflight.any fun k => k.slot == bits op 118 112
     else false)

/-- A RESP completes the request or the chunk it answers (R180, R490). -/
def takeResp (route op : Quad) (payload : List Byte) (b : Block) : Block :=
  let id := bits op 127 112
  let st := statusOf (bits op 111 104)
  if id / 2 ^ 14 = 0 then
    portalAnswer (id % 2 ^ 14) st (granOf 0 (slice payload 0 (min 64 (rLen route)))) none b
  else chunkDone (bits op 125 122) (bits op 118 112) st (bitAt op 103) (bitAt op 102) none b

end Sys2Proof.Machine
end

