-- ==== Sys2Proof/Machine/Racking.lean ====
section
/-!
DEFINITION. Chunks of bulk copies (05_racking_engines.md): their cut and kind (Table 5.1, R228),
translation (R233, R234), tile checksums (R241 to R244), ingest of sealed weights
(09_contexts_keys_weights.md R409), issue, and LOCAL and PUSH chunks through the engine's buffer.
-/

namespace Sys2Proof.Machine

/-- Some byte of a range is checksummed in context c (R241). -/
def checksummed (b : Block) (c va len : Nat) : Bool :=
  let x := b.ctx c
  decide (x.csumLo.toNat < x.csumHi.toNat ∧ x.csumLo.toNat < va + len ∧ va < x.csumHi.toNat)

/-- The virtual address of the sidecar word of the tile that holds v (R241). -/
def sidecarVa (b : Block) (c v : Nat) : Word :=
  (b.ctx c).csumSide + w64 ((v - (b.ctx c).csumLo.toNat) / 4096 * 4)

/-- A translation fault of a chunk: the transfer's failure is recorded, then the fault (R234, R248, R357,
R358). -/
def rackXlatFault (e : Nat) (va : Word) (acc cause : Nat) (b : Block) : Block :=
  match (b.rack e).run with
  | none => b
  | some x =>
    let st := causeStatus cause
    let b := recordFault x.seq x.pc.toNat st (rackFault e x.pc st (xferError e st b))
    xlatFault x.ctx va acc cause (2 + e / 8) e x.seq x.pc.toNat b

/-- A chunk that breaks a rule of its own is not issued; the context freezes with cause 3 (R234, R243,
R248, R253). -/
def rackRefuse (e : Nat) (b : Block) : Block := xferFail e .access 3 e b

/-- Several addresses translated in turn: all of them, or the first that waits or faults. -/
def translateAll (e c : Nat) : List (Word × Nat) → Block → (Except (Option (Word × Nat × Nat)) (List Trans)) × Block
  | [], b => (.ok [], b)
  | (va, acc) :: r, b =>
    match translate (2 + e / 8) c va acc (.rack e) b with
    | (.wait, b) => (.error none, b)
    | (.bad cause, b) => (.error (some (va, acc, cause)), b)
    | (.ok t, b) =>
      match translateAll e c r b with
      | (.ok ts, b) => (.ok (t :: ts), b)
      | (.error x, b) => (.error x, b)

/-- The protected range of a weight slot that holds an offset (R409). -/
def ingestRange (b : Block) (off : Nat) (slot : Option Nat) : Option Nat :=
  (rangesOver b off 1).find? fun j => slot == some (12 + (tget ({} : WRange) b.keys.ranges j).wslot.toNat)

/-- The reads of a LOCAL or PUSH chunk at this node: data, sidecar word, sealed tag; `w` and `v` are the windows that
data and sidecar word passed. -/
def chunkReads (e : Nat) (k : Chunk) (x : Xfer) (w v : Nat) (b : Block) : Block :=
  let o : HomeOp :=
    { id := 0, origin := .chunk e k.slot, what := .chunkRead, dctx := k.srcCtx, part := (b.ctx x.ctx).part,
      off := k.srcOff, hint := hintStream, dt := none, window := 64, left := 0, grans := [], side := none,
      poison := false, started := false, old := 0 }
  let gs := granulesOf k.srcOff k.len ++ (if k.cs = 0 then [] else [k.sside / 64]) ++
    (match k.ingest with
     | some t => [t / 64]
     | none => [])
  let wins := winRefs b k.srcCtx w ++ winRefs b k.srcCtx v ++ k.tagWins
  let (id, b) := addHome { o with left := gs.length } b
  b.each gs fun g b => memReadIn wins (64 * g) hintStream (.home id) b

/-- The DATA packet of a PUSH chunk (R482, R487), on VC4 in the bulk class; with a poison notice where its
source could not be read (Table 5.4). -/
def pushData (e : Nat) (k : Chunk) (x : Xfer) (bytes : List Byte) (notice : Option Status) (mismatch : Bool)
    (b : Block) : Block :=
  let slot := x.key.getD 0
  let carry := k.cs == 2 && notice.isNone
  let csv := carry || mismatch
  let r := mkRoute { type := tyData, dst := k.dstNode.toNat, src := b.route.self.toNat,
                     part := (b.ctx x.ctx).part.val, weight := decide (12 ≤ slot), key := slotKeyId b slot,
                     poison := notice.isSome, len := k.len, dctx := k.dstCtx, sctx := x.ctx,
                     inc := (b.ctx x.ctx).incarnation.toNat }
  let dt := match x.dt with
    | some (i, units) => [(59, 1), (47, i), (46, units.toNat)]
    | none => []
  let op := quad ([(126, 1), (122, e), (112, k.slot), (62, k.dstOff), (60, x.hint.toNat), (45, csv.toNat),
    (13, if carry then k.sum.toNat else 0), (0, b.route.self.toNat)] ++ dt)
  let ext := if csv then
    some (word [(63, mismatch.toNat), (62, carry.toNat), (0, if carry then k.dside / 4 else 0)]) else none
  let payload := match notice with
    | some st => st.code :: List.replicate (k.len - 1) 0xFF
    | none => bytes
  originate (newPkt r op payload ext (ctxQueue x.ctx 2) 4 x.key (.chunk e k.slot)) b

/-- The FORWARD of a PULL or THIRD chunk (R486, Table 11.4). -/
def pushForward (e : Nat) (k : Chunk) (x : Xfer) (b : Block) : Block :=
  let slot := x.key.getD 0
  let r := mkRoute { type := tyForward, dst := k.srcNode.toNat, src := b.route.self.toNat,
                     part := (b.ctx x.ctx).part.val, weight := decide (12 ≤ slot), key := slotKeyId b slot,
                     poison := false, len := 32, dctx := k.srcCtx, sctx := x.ctx,
                     inc := (b.ctx x.ctx).incarnation.toNat }
  let op := quad [(126, 1), (122, e), (112, k.slot), (62, k.srcOff), (60, hintStream.toNat), (47, k.len)]
  let dt := match x.dt with
    | some (i, units) => [(58, 1), (46, i), (45, units.toNat)]
    | none => []
  let d0 := quad ([(115, k.dstNode.toNat), (111, k.dstCtx), (61, k.dstOff), (59, x.hint.toNat)] ++ dt)
  let d1 := quad [(126, k.cs), (78, k.sside / 4), (30, k.dside / 4)]
  originate (newPkt r op (natBytes 16 d0.toNat ++ natBytes 16 d1.toNat) none (ctxQueue x.ctx 0) 2 x.key
    (.chunk e k.slot)) b

/-- The destination increment of a chunk that is counted at this node (Table 5.4). -/
def chunkDt (x : Xfer) (k : Chunk) (err : Bool) (b : Block) : Block :=
  match x.dt with
  | none => b
  | some (i, units) =>
    enqueueIncr { ctx := k.dstCtx, idx := i, amount := if units then 1 else k.len, err,
                  part := some (b.ctx x.ctx).part.val, seq := none } b

/-- A LOCAL or PUSH chunk whose source cannot be read (Table 5.4); a protected range of this node freezes the context
with cause 10 before the poison notice of a PUSH goes (R405). -/
def chunkUnread (e : Nat) (k : Chunk) (x : Xfer) (st : Status) (prot : Option Nat) (b : Block) : Block :=
  if k.kind = .locl then chunkDone e k.slot st false false prot (chunkDt x k true b)
  else
    let b := pushData e k x [] (some st) false b
    match prot with
    | some j => xferFail e st 10 j b
    | none => b

/-- An issued chunk acts by its kind (Table 5.1). -/
def chunkStart (e : Nat) (k : Chunk) (x : Xfer) (b : Block) : Block :=
  match k.kind with
  | .pull | .third => pushForward e k x b
  | .locl | .push =>
    let part := (b.ctx x.ctx).part.val
    let side := if k.cs = 0 then Chk.pass 64 else check10 b part k.srcCtx 0 k.sside 4 x.key none
    match check10 b part k.srcCtx 0 k.srcOff k.len x.key none, side with
    | .fail st prot, _ | .pass _, .fail st prot => chunkUnread e k x st prot (countNack k.srcCtx st b)
    | .pass w, .pass v => chunkReads e k x w v b

/-- Bytes of LOCAL and PUSH chunks that stand in an engine's buffer: those being read, or written from it (R227). -/
def bufferUsed (b : Block) (e : Nat) : Nat :=
  let inBuffer (k : Chunk) : Bool := b.home.ops.any fun o => match o.origin with
    | .chunk e' s => e' == e && s == k.slot
    | _ => false
  (((b.rack e).inflight.filter inBuffer).map fun k => k.len).foldl (· + ·) 0

/-- The engine's buffer has room for a chunk that passes through it (R227). -/
def bufferFits (b : Block) (e : Nat) (kind : ChunkKind) (len : Nat) : Bool :=
  !(kind == .locl || kind == .push) || decide (bufferUsed b e + len ≤ 65536)

/-- The chunk is issued: it is in flight, counted, and its translations are in use (R225, R366). The
transfer leaves RUNNING with its last chunk. -/
def issueChunk (e : Nat) (k : Chunk) (x : Xfer) (b : Block) : Block :=
  let x' := { x with issued := x.issued + k.len, chunks := x.chunks + 1, last := some (k.dstNode, k.dstCtx) }
  let b := b.modRack e fun r =>
    { r with run := some x', inflight := r.inflight ++ [k], bytesOut := r.bytesOut + w64 k.len
             chunksOut := r.chunksOut + 1
             paceLeft := paceNow b.time.loc x.rate r - k.len, paceAt := b.time.loc }
  let b := beginUse (.rack e) k.slot x.ctx (b.ctx x.ctx).gen b
  let b := if x'.issued = x.len then leaveRunning e b else b
  chunkStart e k x' b

/-- A running engine translates and issues its next chunk, when its RATE and its buffer let it (R226 to R234, R241
to R244, R253, R409). -/
def coreChunkIssue (e : Nat) (b : Block) : Block :=
  let r := b.rack e
  match r.run with
  | none => b
  | some x =>
    if r.st ≠ .running ∨ x.stopped ∨ x.len ≤ x.issued ∨ 128 ≤ r.inflight.length then b
    else if x.weight.isSome ∧ x.key.isNone then rackRefuse e b
    else
      let c := x.ctx
      let len := chunkLen x.src.toNat x.dst.toNat x.issued x.len
      if paceNow b.time.loc x.rate r < len then b else
      let src := x.src.toNat + x.issued
      let dst := x.dst.toNat + x.issued
      if 2 ^ 57 < src + len ∨ 2 ^ 57 < dst + len then rackRefuse e b
      else
        let srcSum := checksummed b c src len
        let dstSum := checksummed b c dst len
        let whole := decide (src % 4096 = 0 ∧ len = 4096)
        let cs := if srcSum ∧ whole then (if dstSum then 2 else 1) else 0
        if dstSum ∧ cs ≠ 2 then rackRefuse e b
        else
          let asks := [(w64 src, 0), (w64 dst, 1)] ++ (if cs = 0 then [] else [(sidecarVa b c src, 0)]) ++
            (if cs = 2 then [(sidecarVa b c dst, 1)] else [])
          -- a maintenance transfer shows with its first chunk whether every chunk is PULL (R253)
          let ends : List (Word × Nat) := if x.maint.isSome ∧ x.issued = 0 ∧ x.len = 65536 then
              [(w64 (src + 65535), 0)] else []
          match translateAll e c (asks ++ ends) b with
          | (.error none, b) => b
          | (.error (some (va, acc, cause)), b) => rackXlatFault e va acc cause b
          | (.ok ts, b) =>
            let s := ts.getD 0 { node := 0, off := 0, dctx := 0 }
            let d := ts.getD 1 { node := 0, off := 0, dctx := 0 }
            let ss := if cs = 0 then s else ts.getD 2 s
            let ds := if cs = 2 then ts.getD 3 d else d
            let self := b.route.self.toNat
            let kind : ChunkKind :=
              if s.node = self then (if d.node = self then .locl else .push)
              else if d.node = self then .pull else .third
            let sidesOk := ss.node == s.node && ss.dctx == s.dctx && ds.node == d.node && ds.dctx == d.dctx
            let maintOk := match x.maint with
              | none => true
              | some q => kind == .pull && x.len == 65536 &&
                  (ends.isEmpty || (ts.getLast?.map fun t => t.node != self).getD false) &&
                  (match tget none b.home.quar q with
                   | some u => d.off == u * 65536 + x.issued
                   | none => false)
            let ing := if kind = .locl ∧ (rangesOver b s.off len).isEmpty then
              (match x.key with
               | some k => if 12 ≤ k then ingestRange b d.off x.key else none
               | none => none) else none
            let ingOk := ing.isNone || decide (s.off % 4096 = 0 ∧ d.off % 4096 = 0 ∧ len = 4096)
            if !sidesOk ∨ !maintOk ∨ !ingOk then rackRefuse e b
            else if !bufferFits b e kind len then b
            else
              let k : Chunk :=
                { slot := lowestFree (r.inflight.map fun k => k.slot), kind, srcVa := w64 src, dstVa := w64 dst,
                  len, srcNode := BitVec.ofNat 13 s.node, srcOff := s.off, srcCtx := s.dctx,
                  dstNode := BitVec.ofNat 13 d.node, dstOff := d.off, dstCtx := d.dctx, cs,
                  sside := if cs = 0 then 0 else ss.off, dside := if cs = 2 then ds.off else 0,
                  grans := [], sum := 0, ingest := none }
              match ing with
              | none => issueChunk e k x b
              | some j =>
                let base := (tget ({} : WRange) b.keys.ranges j).base.toNat * 65536
                let tagVa := (b.ctx c).sealTags + w64 ((d.off - base) / 4096 * 16)
                match translate (2 + e / 8) c tagVa 0 (.rack e) b with
                | (.wait, b) => b
                | (.bad cause, b) => rackXlatFault e tagVa 0 cause b
                | (.ok t, b) =>
                  if t.node ≠ self then rackRefuse e b
                  else match localCheck b c t.dctx 0 t.off 16 x.key with
                    | .pass w => issueChunk e { k with ingest := some t.off, tagWins := winRefs b t.dctx w } x b
                    | .fail st prot =>
                      xferFail e st (if prot.isSome then 10 else 3) (prot.getD e) (countNack t.dctx st b)

/-- The writes of a LOCAL chunk (R244, R245, R409): checked as any home's, then data and sidecar word. -/
def localWrites (e : Nat) (k : Chunk) (x : Xfer) (bytes : List Byte) (mismatch : Bool) (b : Block) : Block :=
  let part := (b.ctx x.ctx).part
  let side : Option (Nat × Granule) := if k.cs = 2 then some (k.dside, BitVec.setWidth 512 k.sum) else none
  let sideChk := match side with
    | some (s, _) => check10 b part.val k.dstCtx 1 s 4 x.key none
    | none => .pass 64
  match check10 b part.val k.dstCtx 1 k.dstOff k.len x.key none, sideChk with
  | .fail st prot, _ | .pass _, .fail st prot =>
    chunkDone e k.slot st false mismatch prot (chunkDt x k true (countNack k.dstCtx st b))
  | .pass w, .pass v =>
    homeBegin
      { id := 0, origin := .chunk e k.slot, wins := winRefs b k.dstCtx v, what := .data b.route.self mismatch, dctx := k.dstCtx, part,
        off := k.dstOff, hint := x.hint, dt := dtOf x.dt.isSome ((x.dt.map fun d => d.1).getD 0)
          ((x.dt.map fun d => d.2).getD false) k.len, window := w, left := 0, grans := [], side, poison := false,
        started := false, old := 0 } 0 0 bytes b

/-- The reads of a LOCAL or PUSH chunk are back (R245, R246, R409, Table 5.4). -/
def chunkRead (e slot : Nat) (gs : Tbl Granule) (poison : Bool) (b : Block) : Block :=
  match (b.rack e).run, (b.rack e).inflight.find? fun k => k.slot == slot with
  | some x, some k =>
    if poison then chunkUnread e k x .dataPoison none b
    else
      let bytes := gathered gs k.srcOff k.len
      let sum := if k.cs = 0 then 0 else sideWord gs k.sside
      let mismatch := k.cs != 0 && crc32c bytes != sum
      let k := { k with sum }
      if k.kind = .push then pushData e k x bytes none mismatch b
      else match k.ingest with
        | none => localWrites e k x bytes mismatch b
        | some tagOff =>
          let j := (ingestRange b k.dstOff x.key).getD 0
          let i := (k.dstOff - (tget ({} : WRange) b.keys.ranges j).base.toNat * 65536) / 4096
          let key := b.slot (x.key.getD 12)
          let tag : Quad := BitVec.ofNat 128 ((tget 0 gs (tagOff / 64)).toNat >>> (8 * (tagOff % 64)))
          match openTile key.key i key.setTag bytes tag with
          | some plain => localWrites e k x plain mismatch b
          | none => chunkDone e slot .access false mismatch (some j) (chunkDt x k true b)
  | _, _ => b

/-- A walk has ended for the remainders of stopped transfers (R249): each goes to the home of its destination, or
nowhere when that is not present. -/
def remainderWalked (e c page : Nat) (t : Xfer → Option Trans) (b : Block) : Block :=
  let due (x : Xfer) : Bool := x.ctx == c && pageOf x.dst == page
  let xs := (b.rack e).rems.filter due
  (b.modRack e fun r => { r with rems := r.rems.filter fun x => !due x }).each xs fun x b =>
    match t x with
    | some d => sendRemainderTo x d.node d.dctx b
    | none => b

end Sys2Proof.Machine
end

