-- ==== Sys2Proof/Machine/Shape.lean ====
section
/-!
DEFINITION. The geometry of groups and collectives (06_groups_collectives_press.md): paths, ranks and
counterparts (R259, R264, R265), chunks (R277, R278), shards (R279), buffers (R295).
-/

namespace Sys2Proof.Machine

/-- Members at level L, from 1. -/
def Group.m (g : Group) (l : Nat) : Nat := g.shape.getD (l - 1) 1
/-- The node's own index at level L. -/
def Group.i (g : Group) (l : Nat) : Nat := g.path.getD (l - 1) 0
/-- The levels that are not skipped (R264), innermost first. -/
def Group.levels (g : Group) : List Nat := ((List.range g.shape.length).map (· + 1)).filter fun l => g.m l != 1
/-- N (R259). -/
def Group.n (g : Group) : Nat := g.shape.foldl (· * ·) 1

/-- The position of a path among `nodes`: index 1 varies fastest. -/
def pathIndex : List Nat → List Nat → Nat
  | m :: s, i :: p => i + m * pathIndex s p
  | _, _ => 0

/-- The node at a path. -/
def Group.nodeAt (g : Group) (p : List Nat) : Nat := g.nodes.getD (pathIndex g.shape p) 0

/-- The node whose path is this node's own, but for index j at level l. -/
def Group.peer (g : Group) (l j : Nat) : Nat := g.nodeAt (g.path.set (l - 1) j)

/-- The indices of the counterparts at level l (R259). -/
def Group.others (g : Group) (l : Nat) : List Nat := (List.range (g.m l)).filter fun j => j != g.i l

/-- The counterpart at level l that a node is, by its index there. -/
def Group.indexOf (g : Group) (l node : Nat) : Option Nat := (g.others l).find? fun j => g.peer l j == node

/-- The rank of a path: index 1 is the most significant digit (R265). -/
def rankOf : List Nat → List Nat → Nat
  | _ :: s, i :: p => i * s.foldl (· * ·) 1 + rankOf s p
  | _, _ => 0

/-- The path of a rank. -/
def pathOf : List Nat → Nat → List Nat
  | [], _ => []
  | _ :: s, r => let k := s.foldl (· * ·) 1; r / k :: pathOf s (r % k)

/-- This node's rank. -/
def Group.rank (g : Group) : Nat := rankOf g.shape g.path

/-- The next level above l that is not skipped. -/
def Group.above (g : Group) (l : Nat) : Option Nat := g.levels.find? fun k => decide (l < k)
/-- The level below l that is not skipped. -/
def Group.below (g : Group) (l : Nat) : Option Nat := (g.levels.filter fun k => decide (k < l)).getLast?

/-! ### Chunks (R277, R278) -/

/-- COLL KINDs of Table 3.11. -/
def kAllReduce : Nat := 0
def kReduceScatter : Nat := 1
def kAllGather : Nat := 2
def kBroadcast : Nat := 3
def kReduce : Nat := 4

/-- A kind whose chunks run over the shards of all ranks (R278). -/
def byRank (kind : Nat) : Bool := kind == kReduceScatter || kind == kAllGather

/-- E: the elements of one chunk (R277). -/
def chunkE (log ty : Nat) : Nat :=
  let bl := tyBlock ty
  bl * (2 ^ log * 8 / (tyBits ty * bl))

/-- The elements that one chunk takes of each shard of R278. -/
def shardStep (g : Group) (ty : Nat) : Nat :=
  let bl := tyBlock ty
  max bl (bl * (chunkE g.chunk ty / (g.n * bl)))

/-- Chunks of a collective. -/
def chunksOf (g : Group) (kind ty count : Nat) : Nat :=
  if byRank kind then ceilDiv (count / g.n) (shardStep g ty) else ceilDiv count (chunkE g.chunk ty)

/-- Elements of chunk k that belong together in the buffer: of one rank (R278), or the whole chunk. -/
def chunkPart (g : Group) (x : Inst) (k : Nat) : Nat :=
  if byRank x.kind then
    let s := x.count / g.n
    min ((k + 1) * shardStep g x.ty) s - k * shardStep g x.ty
  else min ((k + 1) * chunkE g.chunk x.ty) x.count - k * chunkE g.chunk x.ty

/-- Elements of chunk k, counted over all ranks. -/
def chunkN (g : Group) (x : Inst) (k : Nat) : Nat :=
  if byRank x.kind then g.n * chunkPart g x k else chunkPart g x k

/-- Shard i of the elements (first, n) at a level of m members (R279). -/
def shardOf (bl first n m i : Nat) : Nat × Nat :=
  let q := n / (m * bl)
  let r := n / bl % m
  (first + bl * (i * q + min i r), bl * (q + if i < r then 1 else 0))

/-- The piece that this node holds after the reduce-scatter levels up to l (R279). -/
def pieceAfter (g : Group) (x : Inst) (k l : Nat) : Nat × Nat :=
  (g.levels.filter fun j => decide (j ≤ l)).foldl
    (fun p j => shardOf (tyBlock x.ty) p.1 p.2 (g.m j) (g.i j)) (0, chunkN g x k)

/-- This node's final shard. -/
def finalShard (g : Group) (x : Inst) (k : Nat) : Nat × Nat := pieceAfter g x k g.shape.length

/-- The shard of member j at level l, of the piece this node held before that level. -/
def memberShard (g : Group) (x : Inst) (k l j : Nat) : Nat × Nat :=
  let p := pieceAfter g x k (l - 1)
  shardOf (tyBlock x.ty) p.1 p.2 (g.m l) j

/-! ### Buffers -/

/-- The element of the source buffer, or of the destination buffer, that element j of chunk k is. -/
def bufElem (g : Group) (x : Inst) (dst : Bool) (k j : Nat) : Nat :=
  if byRank x.kind then
    let w := chunkPart g x k
    let whole := if dst then x.kind == kAllGather else x.kind == kReduceScatter
    (if whole ∧ w ≠ 0 then j / w * (x.count / g.n) else 0) + k * shardStep g x.ty + (if w = 0 then 0 else j % w)
  else k * chunkE g.chunk x.ty + j

/-- Elements of the whole source or destination buffer. -/
def bufTotal (g : Group) (x : Inst) (dst : Bool) : Nat :=
  if x.kind = kReduceScatter then (if dst then x.count / g.n else x.count)
  else if x.kind = kAllGather then (if dst then x.count else x.count / g.n)
  else x.count

/-- The runs of a chunk's elements (first, n) that lie together in a buffer. -/
def runsOf (g : Group) (x : Inst) (k first n : Nat) : List (Nat × Nat) :=
  let w := chunkPart g x k
  if n = 0 ∨ w = 0 then []
  else (List.range (ceilDiv (first + n) w - first / w)).map fun i =>
    let lo := max first ((first / w + i) * w)
    (lo, min (first + n) ((first / w + i + 1) * w) - lo)

/-- The scale bytes of a buffer of `total` elements begin here (R295). -/
def scaleBase (ty total : Nat) : Nat := ceilDiv (elemBytes ty total) 64 * 64

/-- Bytes of a whole buffer. -/
def bufBytes (ty total : Nat) : Nat :=
  if tyMx ty then scaleBase ty total + total / 32 else elemBytes ty total

/-- The byte ranges (address, length) of a buffer that hold the elements (first, n) of chunk k. -/
def byteRuns (g : Group) (x : Inst) (dst : Bool) (k first n : Nat) : List (Nat × Nat) :=
  let base := (if dst then x.gd else x.gs).toNat
  (runsOf g x k first n).flatMap fun r =>
    let e := bufElem g x dst k r.1
    (base + elemBytes x.ty e, elemBytes x.ty r.2) ::
      (if tyMx x.ty then [(base + scaleBase x.ty (bufTotal g x dst) + e / 32, r.2 / 32)] else [])

/-- The source elements of chunk k at this node (R280): none for a BROADCAST away from its root. -/
def sourceRange (g : Group) (x : Inst) (k : Nat) : Nat × Nat :=
  if x.kind = kAllGather then finalShard g x k
  else if x.kind = kBroadcast ∧ g.rank ≠ x.root then (0, 0)
  else (0, chunkN g x k)

/-- The result elements of chunk k at this node (Table 6.3). -/
def resultRange (g : Group) (x : Inst) (k : Nat) : Nat × Nat :=
  if x.kind = kReduceScatter then finalShard g x k
  else if x.kind = kReduce ∧ g.rank ≠ x.root then (0, 0)
  else (0, chunkN g x k)

/-- What RT counts in all at this node (R154). -/
def resultBytes (g : Group) (x : Inst) : Nat :=
  if x.kind = kReduce ∧ g.rank ≠ x.root then 1
  else
    let n := runBytes x.ty x.count
    if x.kind = kReduceScatter then n / g.n else n

/-- The elements of one packet: as many whole blocks as 4,096 B hold (R493). -/
def packetElems (ty : Nat) (bytes : Nat) : Nat := max (tyBlock ty) (4096 / bytes * tyBlock ty)

/-- The elements (first, n) in runs of at most `most`. -/
def cutRuns (most first n : Nat) : List (Nat × Nat) :=
  (List.range (ceilDiv n most)).map fun i => (first + i * most, min most (n - i * most))

/-- The elements (first, n) cut where `bad` elements begin and end: each part with whether it is bad. -/
def splitBad (bad : List (Nat × Nat)) (first n : Nat) : List (Nat × Nat × Bool) :=
  let marks := (List.range n).map fun j => bad.any fun r => decide (r.1 ≤ first + j ∧ first + j < r.1 + r.2)
  let step (acc : List (Nat × Nat × Bool)) (x : Nat × Bool) : List (Nat × Nat × Bool) :=
    match acc with
    | (s, c, f) :: r => if f = x.2 then (s, c + 1, f) :: r else (first + x.1, 1, x.2) :: acc
    | [] => [(first + x.1, 1, x.2)]
  (((List.range n).zip marks).foldl step []).reverse

end Sys2Proof.Machine
end

