-- ==== Sys2Proof/Machine/Mailbox.lean ====
section
/-!
DEFINITION. The mailbox to the RoT (17_ports_integration.md R700, Table 17.10) and the stored settings as the cellarers
use them (16_faults_reset_recovery.md R671).
-/

namespace Sys2Proof.Machine

/-! ### The mailbox (R700) -/

/-- The next message leaves when none awaits its reply. -/
def mboxNext (b : Block) : Block :=
  match b.maint.mbox, b.maint.mboxQueue with
  | none, (ws, m) :: rest =>
    ({ b with maint := { b.maint with mbox := some m, mboxQueue := rest } }).emit (.mailbox ws)
  | _, _ => b

/-- Messages put behind those that wait. -/
def mboxPut (ms : List (List Word × Mbox)) (b : Block) : Block :=
  mboxNext { b with maint := { b.maint with mboxQueue := b.maint.mboxQueue ++ ms } }

/-- The reply has come. -/
def mboxDone (b : Block) : Block := mboxNext { b with maint := { b.maint with mbox := none } }

/-! ### Stored settings (R671) -/

/-- The stored-settings body of a TYPE for strait n. -/
def settingFor (b : Block) (type n : Nat) : Option (List Byte) :=
  let one := tget none (b.maint.settings.map fun x => (x.1, some x.2)) (256 * type + n)
  one.or (tget none (b.maint.settings.map fun x => (x.1, some x.2)) (256 * type + 0xFF))

/-- A record of a TYPE for a strait with a body, at a VERSION (Table 16.11). -/
def settingsRecord (type version strait : Nat) (body : List Byte) : List Byte :=
  natBytes 1 type ++ natBytes 1 version ++ natBytes 2 body.length ++ natBytes 1 strait ++ natBytes 3 0 ++
    natBytes 4 (crc32c body).toNat ++ natBytes 4 0 ++ body

/-- SETTINGS_WRITE of a record. -/
def writeMsg (type version strait : Nat) (body : List Byte) : List Word × Mbox :=
  let bs := settingsRecord type version strait body
  (w64 0x02 :: (List.range (ceilDiv bs.length 8)).map fun i => w64 (bytesNat (slice bs (8 * i) 8)), .write type strait body)

/-- The lane map that training chose for a SerDes strait is kept in the stored settings (R450). -/
def storeLanes (n : Nat) (b : Block) : Block :=
  if n < 2 then b
  else
    let s := b.strait n
    mboxPut [writeMsg 1 (Config.imageReads b.maint.runImage 1).toNat n (Config.laneBody s.good s.map)] b

end Sys2Proof.Machine
end

