-- ==== Sys2Proof/Machine/Strait.lean ====
section
/-!
DEFINITION. Straits (10_straits_link_layer.md): link states (Table 10.6), training, resume, replay,
flow control, doze, calibration, and the flits a strait sends and receives.
-/

namespace Sys2Proof.Machine

/-! ### Registers and hints -/

/-- STATE code of Table 10.6. -/
def StraitSt.code : StraitSt → Nat
  | .disabled => 0 | .off => 1 | .detect => 2 | .train => 3 | .up => 4 | .qdoze => 5 | .ddoze => 6
  | .retrain => 7 | .drain => 8 | .calibrate => 9 | .failed => 10 | .miswired => 11

/-- STRAIT[n].LSTATE. -/
def lstateWord (b : Block) (n : Nat) : Word :=
  word [(0, (b.strait n).st.code), (8, (b.strait n).cause.toNat), (12, (eligible b n).toNat)]

/-- Straits held awake by sequencer and host hints (Table 14.1, R595: a hint has no effect on a strait in
DISABLED, FAILED or MISWIRED). -/
def hintStraits (b : Block) : List Nat :=
  (List.range 32).filter fun n =>
    bitAt b.pwr.hostAwake n || b.seqs.any fun s =>
      (match s.2.awake with
       | some m => bitAt m n
       | none => false)

/-- Some hint holds the clock (Table 14.1). -/
def hintClock (b : Block) : Bool :=
  bitAt b.pwr.hostAwake 63 || b.seqs.any fun s => s.2.awake.isSome

/-- The strait's token operation is over (Table 10.8, R469). -/
def endStraitOp (n : Nat) (b : Block) : Block :=
  endToken n (b.modStrait n fun s => { s with req := .none, forced := false, reqWake := false })

/-! ### Failure, fresh start and resume (R452, R456) -/

/-- Packets with a flit among those a strait holds for replay: those whose last flit is held, and the one in progress
when its latest flit is. VC0 cells stand between its flits (R431). -/
def packetsHeld (b : Block) (n : Nat) : Nat :=
  let held := (b.strait n).replay
  (held.filter fun h => h.last).length +
    (match (held.filter fun h => h.vc.val != 0).getLast? with
     | some h => (!h.last).toNat
     | none => 0)

/-- An incomplete packet completed with zero-body BODY flits that carry PSN = 1 (R456). -/
def padPacket (p : InPkt) : InPkt := { p with flits := p.flits ++ List.replicate (p.need - p.got) (0, true) }

/-- The rest of a packet in progress is not sent. -/
def dropCurrent (n : Nat) (b : Block) : Block :=
  match (b.eg n).cur with
  | some c => if c.sent = 0 then b else dropUse c.qp.use (endForward c.qp (b.modEg n fun e => { e with cur := none }))
  | none => b

/-- Held flits are discarded and counted, partial packets are completed poisoned (R456). -/
def linkCleanup (n : Nat) (b : Block) : Block :=
  let lost := packetsHeld b n
  let b := (dropCurrent n b).modStrait n fun s =>
    { s with
      replay := [], replayPos := none, replayRun := 0, dropVc := [], nakWait := false, nakDue := false
      packetsLost := s.packetsLost + w64 lost
      ingress := s.ingress.map padPacket }
  if lost = 0 then b
  else sendReport 0x03 [(115, n), (56, lost)] (raiseEvent 0x09 0 0xFF n (w64 lost) 0 b)

/-- The link starts fresh: FSEQ 0 on both sides (R452). -/
def freshStart (n : Nat) (b : Block) : Block :=
  (linkCleanup n b).modStrait n fun s =>
    { s with nextFseq := 0, expected := 0, acked := false, ctrl := [] }

/-- The side discards its link state and changes its LINK_EPOCH (R452). -/
def discardLink (n : Nat) (b : Block) : Block :=
  (freshStart n b).modStrait n fun s => { s with epoch := s.epoch + 1 }

/-- A strait takes a state; when it leaves the eligible set its queued packets are chosen again (R508). -/
def setState (n : Nat) (st : StraitSt) (b : Block) : Block :=
  let was := eligible b n
  let b := b.modStrait n fun s => { s with st := st }
  if was && !eligible b n then rechooseAll n b else b

/-- A strait enters FAILED or MISWIRED (R456): a failure discards the link state; the event and the
report name the strait; a wake and a maintenance operation end. -/
def failStrait (n : Nat) (st : StraitSt) (cause : Nat) (b : Block) : Block :=
  let b := b.modStrait n fun s => { s with cause := BitVec.ofNat 4 cause, retraining := false }
  let b := setState n st b
  let b := if st = .failed then discardLink n b else b
  let b := endStraitOp n (endWake n b)
  let peer := (b.strait n).peerNode.toNat
  sendReport 0x01 [(115, n), (111, cause), (98, peer)]
    (raiseEvent 0x08 0 0xFF n (lstateWord b n) (w64 peer) b)

/-- A link loss (R453): the strait enters RETRAIN. -/
def linkLoss (n : Nat) (b : Block) : Block :=
  setState n .retrain (b.modStrait n fun s =>
    { s with linkLosses := s.linkLosses + 1, attempts := 0, retraining := true, peerDrain := false
             dozeSent := false, dozeGot := none, quiet := false, replayRun := 0, badRun := 0 })

/-- An accepted request takes its strait into DRAIN and sends CAL_REQ (R467, R468). -/
def enterDrain (n : Nat) (b : Block) : Block :=
  queueCtrl n (ctl cfCalReq) (setState n .drain b)

/-- The flit streams of a strait start anew, at bit 0 of a superframe (R426) or at slot 0 of a frame (R428). -/
def newStream (s : Strait) : Strait :=
  { s with rxSegs := [], rxPlace := 0, rxParity := 0, badRun := 0, txBits := 0, txLen := 0, txPlace := 0, txParity := 0
           quiet := false }

/-- A strait reaches UP (Table 10.6): its wake ends, its streams start anew; a request that waited for the wake drains it
(Table 10.8). -/
def goUp (n : Nat) (b : Block) : Block :=
  let b := endWake n (b.modStrait n fun s =>
    { newStream s with cause := 0, retraining := false, attempts := 0, peerDrain := false })
  let pend := (b.strait n).reqWake
  let b := setState n .up b
  refreshElig n (if pend then enterDrain n (b.modStrait n fun s => { s with reqWake := false }) else b)

/-- Both epochs match what each side last saw (R452). -/
def resumes (s : Strait) (r : TrainResult) : Bool :=
  s.peerValid && r.epoch == s.peerEpoch && r.sawEpoch == s.epoch

/-- This side's part of the parameter exchange (R451): it is an endpoint. -/
def sendParams (n : Nat) (b : Block) : Block :=
  let s := b.strait n
  b.emit (.params n false b.route.self n s.cls s.epoch (clsBuffer s.cls) (clsReplay s.cls))

/-- This side's part of the resume exchange (R452), with its XOFF mask (Table 10.7). -/
def sendResume (n : Nat) (b : Block) : Block :=
  let s := b.strait n
  b.emit (.resume n s.peerEpoch s.expected s.xoffNow)

/-- The resume exchange (R452): held flits that the peer's expected FSEQ covers are dropped and the rest
replayed, or the link starts fresh. -/
def resumeLink (n : Nat) (r : TrainResult) (b : Block) : Block :=
  let s := b.strait n
  if resumes s r then
    b.modStrait n fun s =>
      let rest := s.replay.dropWhile fun h => h.fseq != r.expected
      let rest := if s.nextFseq == r.expected then [] else rest
      { s with replay := rest, replayPos := if rest.isEmpty then none else some 0, replayRun := 0
               nakWait := false, nakDue := false, txXoff := r.xoff, ctrl := [] }
  else (freshStart n b).modStrait n fun s => { s with txXoff := r.xoff }

/-! ### Training (Table 10.7, R449 to R454, R695) -/

/-- Physical lanes of 0 to 4 that are not good. -/
def badLanes (good : BitVec 5) : List Nat := (List.range 5).filter fun p => !bitAt good p

/-- The lane map of R450: logical lane k on physical lane k, or on the spare when k is not good. -/
def laneMapOf (good : BitVec 5) : BitVec 12 :=
  BitVec.ofNat 12 (packNat ((List.range 4).map fun k => (3 * k, if bitAt good k then k else 4)))

/-- The lanes of an attempt are good: at most one bad lane on a SerDes strait; module initialisation
succeeded on a causeway (R450, R695). -/
def lanesOk (n : Nat) (r : TrainResult) : Bool :=
  if n < 2 then r.moduleOk else decide ((badLanes r.good).length < 2)

/-- The peer is the one expected, and of this strait's class (R451). -/
def peerOk (s : Strait) (r : TrainResult) : Bool :=
  r.cls == s.cls &&
  (!bitAt s.expect 63 ||
    (r.role == bitAt s.expect 50 && r.strait.toNat == bits s.expect 20 16 && r.node.toNat == bits s.expect 12 0))

/-- An attempt in RETRAIN fails: the third one ends in FAILED with cause RETRY (R454). -/
def retryAttempt (n : Nat) (b : Block) : Block :=
  if 2 ≤ (b.strait n).attempts then failStrait n .failed 3 b
  else b.modStrait n fun s => { s with attempts := s.attempts + 1 }

/-- A check of Table 10.7 fails: a strait in TRAIN enters FAILED or MISWIRED with a cause (R451); one in RETRAIN has failed
an attempt, since Table 10.6 lets it leave for FAILED only after the third (R447, R454). -/
def checkFailed (n : Nat) (st : StraitSt) (cause : Nat) (b : Block) : Block :=
  if (b.strait n).st = .retrain then retryAttempt n b else failStrait n st cause b

/-- An attempt fails: a causeway whose module initialisation fails enters FAILED with cause LANES (R450, R695), as any
strait in TRAIN does. -/
def attemptFailed (n : Nat) (initFailed : Bool) (b : Block) : Block :=
  match (b.strait n).st with
  | .retrain => if n < 2 ∧ initFailed then failStrait n .failed 1 b else retryAttempt n b
  | .train => failStrait n .failed 1 b
  | _ => b

/-- TRAINING_ATTEMPT_FAILED. -/
def coreTrainingAttemptFailed (n : Nat) (initFailed : Bool) (b : Block) : Block :=
  if b.maint.lost then b else attemptFailed n initFailed b

/-- What the stored settings hold for the training of a SerDes strait comes into use: the equaliser coefficients of the
tuning cache (Table 10.7) and the lane map (R450), where present. -/
def loadTuning (n : Nat) (b : Block) : Block :=
  if n < 2 then b
  else b.modStrait n fun s =>
    { s with
      tuning := (settingFor b 2 n).getD []
      map := match settingFor b 1 n with
        | some body => BitVec.ofNat 12 (Config.settingsField body 1 n).toNat
        | none => s.map }

/-- SIGNAL_DETECT (Table 10.7): signal on at least 4 of the 5 lanes takes DETECT to TRAIN, once
oe_ready is 1 (R698). -/
def coreSignalDetect (n : Nat) (lanes : BitVec 5) (b : Block) : Block :=
  let s := b.strait n
  if s.st = .detect ∧ s.oeReady ∧ (badLanes lanes).length < 2 ∧ !b.maint.lost then loadTuning n (setState n .train b) else b

/-- What the parameter exchange brought (R451). -/
def takeParams (r : TrainResult) (s : Strait) : Strait :=
  { s with peerRole := r.role, peerCls := r.cls, peerStrait := r.strait, peerNode := r.node, rtt := r.rtt
           peerBuffer := r.buffer, peerReplay := r.replay }

/-- The peer's parameters are valid, its epoch among them. -/
def validPeer (r : TrainResult) (s : Strait) : Strait := { s with peerValid := true, peerEpoch := r.epoch }

/-- TRAINING_COMPLETE: the checks of R450 and R451 in the order of Table 10.7, then the resume exchange
and UP; the lane map goes into the stored settings. A request for which the strait woke drains it now; any other request
is done (Table 10.8). -/
def coreTrainingComplete (n : Nat) (r : TrainResult) (b : Block) : Block :=
  let st := (b.strait n).st
  if (st = .train ∨ st = .retrain) ∧ !b.maint.lost then
    let b := if n < 2 then b else b.modStrait n fun s => { s with good := r.good }
    if !lanesOk n r then attemptFailed n (decide (n < 2)) b
    else
      let b := if n < 2 then b else b.modStrait n fun s => { s with map := laneMapOf r.good, tuning := r.tuning }
      let res := resumes (b.strait n) r
      let b := (sendParams n b).modStrait n (takeParams r)
      let learn (b : Block) : Block := if st = .retrain then b else b.modStrait n (validPeer r)
      if !peerOk (b.strait n) r then checkFailed n .miswired 4 (learn b)
      else if clsRtt (b.strait n).cls < r.rtt.toNat then checkFailed n .failed 2 (learn b)
      else
        let b := sendResume n b
        let b := if res then resumeLink n r b
          else (freshStart n b).modStrait n fun s => { s with txXoff := r.xoff }
        let b := b.modStrait n fun s => { validPeer r s with rxXoff := s.xoffNow }
        let b := if (b.strait n).reqWake then goUp n b else endStraitOp n (goUp n b)
        sendReport 0x02 [(115, n), (98, r.node.toNat)] (storeLanes n b)
  else b

/-- OE_READY_RISE (R698). -/
def coreOeReadyRise (n : Nat) (b : Block) : Block := b.modStrait n fun s => { s with oeReady := true }

/-- SIGNAL_LOSS: a link loss of an UP strait (R453). -/
def coreSignalLoss (n : Nat) (b : Block) : Block := if (b.strait n).st = .up then linkLoss n b else b

/-! ### STRAIT[n].CTRL (R448, R467, Table 10.8) -/

/-- ENABLE written 1: DISABLED to DETECT, which starts the clock (R42); ignored on a strait that is not
bonded out (R682). -/
def enableStrait (n : Nat) (b : Block) : Block :=
  if !bitAt b.maint.straps (32 + n) then b
  else
    let b := b.modStrait n fun s => { s with enable := true }
    if (b.strait n).st = .disabled then
      startClock (setState n .detect (b.modStrait n fun s => { s with attempts := 0, cause := 0 }))
    else b

/-- ENABLE written 0: any state to DISABLED, held flits as on a failure (R448, R452); a strait that waits to wake in a boot
waits no longer. -/
def disableStrait (n : Nat) (b : Block) : Block :=
  let b := b.modStrait n fun s =>
    { s with enable := false, cause := 0, retraining := false, peerDrain := false, dozeSent := false, dozeGot := none
             quiet := false }
  if (b.strait n).st = .disabled then endWake n b
  else endStraitOp n (endWake n (discardLink n (setState n .disabled b)))

/-- A status and holder in STRAIT[n].MAINT_STATUS. -/
def straitStatus (n : Nat) (st : Status) (holder : Nat) (b : Block) : Block :=
  b.modStrait n fun s => { s with msStatus := st.code, msHolder := BitVec.ofNat 8 holder }

/-- Some destination has strait n as its only eligible strait under the current route epoch (Table 10.8
check 5). -/
def onlyPath (b : Block) (n : Nat) : Bool :=
  match injectEpoch b with
  | none => false
  | some k =>
    let bank := b.bank k
    bank.entries.any fun e =>
      if bank.torus then
        (routeMasks b k e.1 2).1.filter (eligible b) == [n] || (routeMasks b k e.1 1).1.filter (eligible b) == [n]
      else
        let m := routeMasks b k e.1 2
        (m.1 ++ m.2).eraseDups.filter (eligible b) == [n]

/-- CALIBRATE or RETRAIN on a strait (Table 10.8, R658). The outcome stands in MAINT_STATUS. -/
def straitRequest (kind : StraitReq) (holder n : Nat) (force : Bool) (b : Block) : Status × Block :=
  let st := (b.strait n).st
  let done (x : Status) (h : Nat) (b : Block) : Status × Block := (x, straitStatus n x h b)
  if tokenBusy b n holder then done .busy (b.token n).holder b
  else if st = .disabled then done .access 0 b
  else if st = .failed ∨ st = .miswired then
    if kind = .retrain then
      let b := takeToken n holder b
      let b := b.modStrait n fun s => { s with attempts := 0, cause := 0, req := .none, reqHolder := holder }
      done .ok 0 (startClock (setState n .detect b))
    else done .access 0 b
  else if !st.carries then done .busyActive 0 b
  else if kind = .calibrate ∧ b.maint.activating then done .busyActive 0 b
  else if !force ∧ onlyPath b n then done .noAlternate 0 b
  else
    let b := takeToken n holder b
    let b := b.modStrait n fun s => { s with req := kind, reqHolder := holder, forced := force }
    if st = .up then done .ok 0 (enterDrain n b)
    else done .ok 0 (wakeStraits [n] (startClock (b.modStrait n fun s => { s with reqWake := true })))

/-- DRAIN_COMPLETE (R468): CAL_REQ sent, no packet in progress, every held flit covered, no incomplete packet in the
ingress. -/
def coreDrainComplete (n : Nat) (b : Block) : Block :=
  let s := b.strait n
  if s.st = .drain ∧ s.replay.isEmpty ∧ (b.eg n).cur.isNone ∧ s.ingress.all InPkt.complete ∧
      s.ctrl.all (fun c => c.type.toNat != cfCalReq) then
    match s.req with
    | .retrain => setState n .retrain (b.modStrait n fun s => { s with attempts := 0, retraining := true })
    | _ => setState n .calibrate b
  else b

/-- DRAIN_ABANDONED (R468). -/
def coreDrainAbandoned (n : Nat) (b : Block) : Block :=
  if (b.strait n).st = .drain then
    straitStatus n .busyActive 0 (refreshElig n (setState n .up (endStraitOp n b)))
  else b

/-- CALIBRATION_END (R469, R470): every active lane passes and the link resumes, or the strait retrains;
a side that drained for its peer resumes too. -/
def coreCalibrationEnd (n : Nat) (good : BitVec 5) (r : TrainResult) (b : Block) : Block :=
  let s := b.strait n
  if b.maint.lost then b
  else if s.st = .calibrate then
    let pass := if n < 2 then r.moduleOk
      else (List.range 4).all fun k => bitAt good (bits s.map (3 * k + 2) (3 * k))
    if pass then
      endStraitOp n (goUp n (resumeLink n r (sendResume n (b.modStrait n fun s => { s with tuning := r.tuning }))))
    else setState n .retrain (b.modStrait n fun s => { s with attempts := 0, retraining := true, req := .retrain })
  else if s.st = .up ∧ s.peerDrain then
    goUp n (resumeLink n r (sendResume n (b.modStrait n fun s => { s with tuning := r.tuning })))
  else b

/-! ### Doze and wake (R460 to R464) -/

/-- A side may offer or answer doze (R460). -/
def dozeOk (b : Block) (n : Nat) : Bool :=
  let s := b.strait n
  let e := b.eg n
  s.st == .up && bitAt s.doze 0 && s.quiet && s.replay.isEmpty && e.cells.isEmpty && e.cur.isNone &&
    e.queues.all (fun x => x.2.isEmpty) && !(hintStraits b).contains n && !tideKeeps b n

/-- DOZE_REQ or DOZE_ACK. -/
def isDoze (c : Ctrl) : Bool := c.type.toNat == cfDozeReq || c.type.toNat == cfDozeAck

/-- A sequenced flit is sent or received: the idle time begins again, and a doze attempt is abandoned (R460, R461). -/
def breakDoze (s : Strait) : Strait :=
  { s with quiet := false, dozeSent := false, dozeGot := none, ctrl := s.ctrl.filter fun c => !isDoze c }

/-- A doze flit with this side's timers (Table 10.3). -/
def dozeCtrl (type : Nat) (s : Strait) : Ctrl :=
  { type := BitVec.ofNat 8 type, nakSeq := 0, deep := BitVec.ofNat 16 (bits s.doze 47 32),
    off := BitVec.ofNat 16 (bits s.doze 63 48), msg := 0 }

/-- The smaller of two timers; for OFF_IDLE, 0 means never and wins (R461). -/
def minTimer (zeroWins : Bool) (a c : BitVec 16) : BitVec 16 :=
  if zeroWins ∧ (a = 0 ∨ c = 0) then 0 else if a.toNat ≤ c.toNat then a else c

/-- A wake cause stands for a strait as it enters QDOZE: a packet or a cell to send, or a hint (R463, R595). -/
def wakeCause (b : Block) (n : Nat) : Bool :=
  let e := b.eg n
  !e.cells.isEmpty || e.cur.isSome || e.queues.any (fun x => !x.2.isEmpty) || (hintStraits b).contains n

/-- The strait enters QDOZE with the agreed timers (R461); with a wake cause it wakes at once (R596). -/
def enterDoze (n : Nat) (deep off : BitVec 16) (b : Block) : Block :=
  let s := b.strait n
  let b := setState n .qdoze (b.modStrait n fun _ =>
    { s with
      dozes := s.dozes + 1, dozeSent := false, dozeGot := none
      agreedDeep := minTimer false (BitVec.ofNat 16 (bits s.doze 47 32)) deep
      agreedOff := minTimer true (BitVec.ofNat 16 (bits s.doze 63 48)) off })
  if wakeCause b n then wakeStraits [n] b else b

/-- QUICK_IDLE_EXPIRY: no sequenced flit for QUICK_IDLE; an offer is made where none is under way (R460, R461). -/
def coreQuickIdleExpiry (n : Nat) (b : Block) : Block :=
  let b := b.modStrait n fun s => { s with quiet := s.quiet || s.st == .up }
  let s := b.strait n
  if dozeOk b n ∧ !s.dozeSent ∧ s.dozeGot.isNone ∧ !s.ctrl.any isDoze then queueCtrl n (dozeCtrl cfDozeReq s) b else b

/-- DOZE_REQ_LAPSE: a request with no answer (R461). -/
def coreDozeReqLapse (n : Nat) (b : Block) : Block :=
  if (b.strait n).dozeSent ∧ (b.strait n).dozeGot.isNone then b.modStrait n fun s => { s with dozeSent := false } else b

/-- DEEP_IDLE_EXPIRY (R462). -/
def coreDeepIdleExpiry (n : Nat) (b : Block) : Block :=
  if (b.strait n).st = .qdoze ∧ (b.strait n).wake = .none then setState n .ddoze b else b

/-- OFF_IDLE_EXPIRY (R462): never with an agreed OFF_IDLE of 0 (R461). -/
def coreOffIdleExpiry (n : Nat) (b : Block) : Block :=
  if (b.strait n).st = .ddoze ∧ (b.strait n).wake = .none ∧ (b.strait n).agreedOff ≠ 0 then setState n .off b else b

/-- STRAIT_WAKE: the peer's wake signal (R463), which starts the clock (R42). -/
def coreStraitWake (n : Nat) (b : Block) : Block :=
  if (b.strait n).st.dozing then wakeStraits [n] (startClock b) else b

/-- STRAIT_WAKE_DONE (R463): from QDOZE or DDOZE the flit stream resumes. -/
def coreStraitWakeDone (n : Nat) (b : Block) : Block :=
  let s := b.strait n
  if (s.st = .qdoze ∨ s.st = .ddoze) ∧ s.wake = .waking then goUp n b else b

/-- WAKE_TIMEOUT (R464). -/
def coreWakeTimeout (n : Nat) (b : Block) : Block :=
  let s := b.strait n
  if (s.st = .qdoze ∨ s.st = .ddoze) ∧ s.wake = .waking then linkLoss n b else b

/-! ### Alarms and timeouts -/

/-- LANE_ALARM_SECOND (R466). -/
def coreLaneAlarmSecond (n lane : Nat) (b : Block) : Block :=
  let s := b.strait n
  let rise := tget 0 s.laneSymbols lane - tget 0 s.laneMark lane
  let b := b.modStrait n fun s => { s with laneMark := tset s.laneMark lane (tget 0 s.laneSymbols lane) }
  if s.laneAlarm.toNat < rise.toNat then raiseEvent 0x0B 0 0xFF n (w64 lane) rise b else b

/-- A NAK for the expected FSEQ goes at the next flit boundary (R436). -/
def queueNak (n : Nat) (b : Block) : Block := b.modStrait n fun s => { s with nakDue := true, nakWait := true }

/-- NAK_TIMEOUT (R437). -/
def coreNakTimeout (n : Nat) (b : Block) : Block :=
  let s := b.strait n
  if (s.st = .up ∨ s.st = .drain) ∧ s.nakWait then queueNak n b else b

/-- A replay from position i of the held flits; sixteen in a row from one FSEQ are a link loss (R438,
R441). -/
def startReplay (n i : Nat) (f : BitVec 12) (b : Block) : Block :=
  let s := b.strait n
  let run := if s.replayFrom = f ∧ s.replayRun ≠ 0 then s.replayRun + 1 else 1
  let b := b.modStrait n fun s =>
    { s with replays := s.replays + 1, replayPos := some i, replayRun := run, replayFrom := f }
  if 16 ≤ run ∧ s.st = .up then linkLoss n b else b

/-- REPLAY_TIMEOUT (R439). -/
def coreReplayTimeout (n : Nat) (b : Block) : Block :=
  let s := b.strait n
  match s.replay with
  | [] => b
  | h :: _ => if s.st = .up ∨ s.st = .drain then startReplay n 0 h.fseq b else b

/-- XOFF_QUERY_TIMEOUT (R444). -/
def coreXoffQueryTimeout (n : Nat) (b : Block) : Block :=
  let s := b.strait n
  if (s.st = .up ∨ s.st = .drain) ∧ s.txXoff ≠ 0 then queueCtrl n (ctl cfQuery) b else b

/-! ### Flits received (R427, R432 to R439, R458, R466) -/

/-- The first `k` bits of a received stream: whether an uncorrectable codeword covers one of them (R427), the bits with
the first on top, and the rest. -/
def takeBits (k : Nat) : List RxSeg → Option (Bool × Nat × List RxSeg)
  | [] => if k = 0 then some (false, 0, []) else none
  | s :: r =>
    if k < s.len then
      some (s.bad && decide (0 < k), s.bits >>> (s.len - k), { s with len := s.len - k, bits := s.bits % 2 ^ (s.len - k) } :: r)
    else match takeBits (k - s.len) r with
      | some (bad, n, rest) => some (s.bad || bad, s.bits <<< (k - s.len) + n, rest)
      | none => none

/-- A codeword arrives (R425): its message joins the stream; corrected symbols count for their physical lanes (R466), and
what the decoder cannot correct counts in a row (R453). -/
def takeCodeword (w : BitVec 5440) (s : Strait) : Strait :=
  let seg (bad : Bool) (l : List Nat) : RxSeg := { bad, len := 5140, bits := symbolsNum (l.take 514) }
  match rsDecode (codeSymbols w) with
  | some (l, places) =>
    { s with
      rxSegs := s.rxSegs ++ [seg false l], badRun := 0
      cwCorrected := if places.isEmpty then s.cwCorrected else s.cwCorrected + 1
      laneSymbols := places.foldl (fun t j =>
        let k := j % 4
        tmod 0 t (bits s.map (3 * k + 2) (3 * k)) (· + 1)) s.laneSymbols }
  | none =>
    { s with rxSegs := s.rxSegs ++ [seg true (codeSymbols w)], badRun := s.badRun + 1
             cwUncorrectable := s.cwUncorrectable + 1 }

/-- The next flit of a SerDes strait's stream (R426). -/
def nextFlit (s : Strait) : Option (BitVec 1024 × Bool × Strait) :=
  match takeBits 1024 s.rxSegs with
  | some (bad, n, rest) => some (streamFlit n, bad, { s with rxSegs := rest, rxPlace := (s.rxPlace + 1) % 1285 })
  | none => none

/-- A flit slot of a causeway's frame (R428): after slot 60 each lane whose parity does not match is counted, which affects
no flit. -/
def causewaySlot (flit : BitVec 1024) (parity : BitVec 64) (s : Strait) : Strait :=
  let p := s.rxParity ^^^ causewayParity flit
  if s.rxPlace = 60 then
    { s with rxPlace := 0, rxParity := 0, cwCorrected := s.cwCorrected + w64 (setBits 64 (p ^^^ parity)).length }
  else { s with rxPlace := s.rxPlace + 1, rxParity := p }

/-- The flit that a strait receives, whether an uncorrectable codeword covers it, and the strait after it. -/
def rxFlit (n : Nat) (rx : Rx) (s : Strait) : Option (BitVec 1024 × Bool × Strait) :=
  match rx.bits with
  | .slot flit => if n < 2 then some (flit, false, causewaySlot flit rx.parity s) else none
  | .held => if n < 2 then none else nextFlit s
  | .codeword w => if n < 2 then none else nextFlit (takeCodeword w s)

/-- A bad flit is discarded; the receiver sends a NAK unless one is awaited (R436, R437). -/
def badFlit (n : Nat) (b : Block) : Block := if (b.strait n).nakWait then b else queueNak n b

/-- Replay entries that an ACK covers are freed (R434). -/
def takeAck (n : Nat) (t : Word) (b : Block) : Block :=
  if tAckv t ∧ (b.strait n).replay.any (fun h => h.fseq == tAck t) then
    b.modStrait n fun s =>
      let k := (s.replay.takeWhile fun h => h.fseq != tAck t).length + 1
      let pos := s.replayPos.map fun p => p - k
      let rest := s.replay.drop k
      { s with replay := rest, replayRun := 0
               replayPos := match pos with
                 | some p => if p < rest.length then some p else none
                 | none => none }
  else b

/-- What every received flit goes through (R427, R436, R453): counts, link loss at 8 uncorrectable
codewords in a row, bad flits; a good flit that is the event's gives its trailer ACK and then `k` acts, and one that is
not says nothing of the event. A strait that carries no flit stream receives none. -/
def flitIn (n : Nat) (rx : Rx) (is : BitVec 1024 → Bool) (k : BitVec 1024 → Block → Block) (b : Block) : Block :=
  let s := b.strait n
  if s.st = .up ∨ s.st = .drain then
    match rxFlit n rx s with
    | none => b
    | some (flit, bad, s') =>
      let crc := flitCrcOk flit
      if !bad && crc && !is flit then b
      else
        let b := b.modStrait n fun _ => if crc then s' else { s' with crcErrors := s'.crcErrors + 1 }
        if 8 ≤ s'.badRun ∧ s.st = .up then linkLoss n b
        else if bad || !crc then badFlit n b
        else k flit (takeAck n (flitTrailer flit) b)
  else b

/-- A control flit of one type: its XOFF mask is taken (R432), then `k` acts. -/
def ctlFlit (n : Nat) (rx : Rx) (is : Nat → Bool) (k : BitVec 1024 → Block → Block) (b : Block) : Block :=
  flitIn n rx (fun f => tKind (flitTrailer f) == 2 && is (cfType f))
    (fun f b => k f (refreshElig n (b.modStrait n fun s => { s with txXoff := cfXoff f }))) b

/-- IDLE_FLIT. -/
def coreIdleFlit (n : Nat) (rx : Rx) (b : Block) : Block := ctlFlit n rx (· == cfIdle) (fun _ b => b) b

/-- STATE_FLIT (R444). -/
def coreStateFlit (n : Nat) (rx : Rx) (b : Block) : Block := ctlFlit n rx (· == cfState) (fun _ b => b) b

/-- UNDEFINED_CONTROL_FLIT (R433). -/
def coreUndefinedControlFlit (n : Nat) (rx : Rx) (b : Block) : Block :=
  ctlFlit n rx (fun t => decide (8 < t)) (fun _ b => b) b

/-- NAK (R438): a replay from the named FSEQ, or a stray NAK. -/
def coreNak (n : Nat) (rx : Rx) (b : Block) : Block :=
  ctlFlit n rx (· == cfNak) (fun flit b =>
    let f := cfNakSeq flit
    let held := (b.strait n).replay
    if held.any (fun h => h.fseq == f) then
      startReplay n (held.takeWhile fun h => h.fseq != f).length f b
    else b.modStrait n fun s => { s with naksStray := s.naksStray + 1 }) b

/-- QUERY is answered with STATE (R444). -/
def coreQuery (n : Nat) (rx : Rx) (b : Block) : Block :=
  ctlFlit n rx (· == cfQuery) (fun _ => queueCtrl n (ctl cfState)) b

/-- A doze flit is received; this side enters QDOZE at the first flit boundary at which it has also sent one (R461). -/
def gotDoze (n : Nat) (flit : BitVec 1024) (b : Block) : Block :=
  b.modStrait n fun s => { s with dozeGot := some (cfDeep flit, cfOff flit) }

/-- DOZE_REQ (R461): the answer to a crossing request, or answered with DOZE_ACK. -/
def coreDozeReq (n : Nat) (rx : Rx) (b : Block) : Block :=
  ctlFlit n rx (· == cfDozeReq) (fun flit b =>
    let s := b.strait n
    if s.st = .up ∧ (s.dozeSent ∨ s.ctrl.any isDoze) then gotDoze n flit b
    else if dozeOk b n then gotDoze n flit (queueCtrl n (dozeCtrl cfDozeAck s) b)
    else b) b

/-- DOZE_ACK (R461). -/
def coreDozeAck (n : Nat) (rx : Rx) (b : Block) : Block :=
  ctlFlit n rx (· == cfDozeAck) (fun flit b =>
    if (b.strait n).dozeSent ∧ (b.strait n).st = .up then gotDoze n flit b else b) b

/-- CAL_REQ (R470): the strait leaves this side's eligible set and its direction drains; one that crosses
this side's own is the same calibration. -/
def coreCalReq (n : Nat) (rx : Rx) (b : Block) : Block :=
  ctlFlit n rx (· == cfCalReq) (fun _ b =>
    if (b.strait n).st = .up ∧ !(b.strait n).peerDrain then
      rechooseAll n (b.modStrait n fun s => { s with peerDrain := true })
    else b) b

/-- RETRAIN_REQ is a link loss (R453). -/
def coreRetrainReq (n : Nat) (rx : Rx) (b : Block) : Block :=
  ctlFlit n rx (· == cfRetrainReq) (fun _ b => if (b.strait n).st = .up then linkLoss n b else b) b

/-- A TIME control flit with a message. -/
def timeCtrl (type : Nat) (msg : BitVec 896) : Ctrl :=
  { type := BitVec.ofNat 8 cfTime, nakSeq := 0, deep := 0, off := 0
    msg := BitVec.ofNat 896 (msg.toNat / 16 * 16 + type) }

/-- The messages of IEEE 1588-2019 that straits carry, by messageType (R473; log 5): Sync, Pdelay_Req, Pdelay_Resp,
Follow_Up, Pdelay_Resp_Follow_Up. -/
def timeTypes : List Nat := [0x0, 0x2, 0x3, 0x8, 0xA]

/-- The last 8 of a record of time messages, one more put behind. -/
def keepTimes (l : List (BitVec 896 × Word)) (x : BitVec 896 × Word) : List (BitVec 896 × Word) :=
  (l ++ [x]).drop (l.length - 7)

/-- A time message of the active cellarer, of a messageType; its content is a free value (log 5). -/
def sendTime (n type : Nat) (b : Block) : Block :=
  queueCtrl n (timeCtrl type (Config.timeReply b.free)) { b with free := b.free + 1 }

/-- TIME_FLIT (R473, R474, R707): the cellarers take the message with its corrected time stamp; the
servo's lock and source are free values (log 4); a Pdelay_Req is answered in two steps (log 5). -/
def coreTimeFlit (n : Nat) (rx : Rx) (stamp : Word) (b : Block) : Block :=
  ctlFlit n rx (· == cfTime) (fun flit b =>
    let msg : BitVec 896 := BitVec.ofNat 896 (flit.toNat >>> 64)
    if b.maint.lost ∨ !timeTypes.contains (msg.toNat % 16) then b
    else
      let b := b.modStrait n fun s => { s with timeIn := keepTimes s.timeIn (msg, phyTime b n stamp) }
      let (w, b) := b.fresh
      let b := { b with time := { b.time with
        locked := bitAt w 0, srcValid := bitAt w 1, src := BitVec.ofNat 5 (bits w 6 2) } }
      if msg.toNat % 16 = 2 then sendTime n 0xA (sendTime n 0x3 b) else b) b

/-- A sequenced flit is accepted in order: it takes its place in the ingress buffer (R436, R458, R515). -/
def acceptFlit (n : Nat) (flit : BitVec 1024) (stamp : Word) (b : Block) : Block :=
  let t := flitTrailer flit
  let vc : Vc := ⟨tVc t % 8, Nat.mod_lt _ (by decide)⟩
  let b := b.modStrait n fun s =>
    { s with expected := s.expected + 1, acked := true, nakWait := false, nakDue := false, flitsIn := s.flitsIn + 1 }
  if tKind t = 0 then
    let route := flitQuad flit 0
    let op := flitQuad flit 16
    let b := b.modBank (if vc.val = 0 then cEpoch route else rEpoch route).toNat fun k => { k with arrivals := k.arrivals + 1 }
    if tPsn t then
      headPoisoned n vc.val (b.modStrait n fun s =>
        { s with dropVc := if s.dropVc.contains vc.val then s.dropVc else s.dropVc ++ [vc.val] })
    else
      updateXoff n (b.modStrait n fun s =>
        { s with
          dropVc := s.dropVc.filter (· != vc.val), nextIn := s.nextIn + 1
          ingress := s.ingress ++ [{ id := s.nextIn, vc, route, need := if vc.val = 0 then 1 else hdrFlits route op
                                     phy := stamp, flits := [(flitBodyOf flit, false)] }] })
  else if (b.strait n).dropVc.contains vc.val then b
  else updateXoff n (b.modStrait n fun s =>
    let add := s.ingress.foldr (fun p acc =>
      if !acc.2 && p.vc == vc && !p.complete then
        ({ p with flits := p.flits ++ [(flitBodyOf flit, tPsn t)] } :: acc.1, true)
      else (p :: acc.1, acc.2)) (([] : List InPkt), false)
    { s with ingress := add.1 })

/-- FLIT_RECEIVE (R436, R445). -/
def coreFlitReceive (n : Nat) (rx : Rx) (stamp : Word) (b : Block) : Block :=
  flitIn n rx (fun f => tKind (flitTrailer f) != 2) (fun flit b =>
    let t := flitTrailer flit
    if tKind t = 3 then badFlit n b
    else
      let full := decide (clsBuffer (b.strait n).cls ≤ vcHeld (b.strait n) (tVc t))
      let b := b.modStrait n breakDoze
      let b := if full then b.modStrait n fun s => { s with fcOverruns := s.fcOverruns + 1 } else b
      if tFseq t ≠ (b.strait n).expected ∨ full then badFlit n b
      else acceptFlit n flit stamp b) b

/-! ### Flits sent (R431 to R440, R336, R564) -/

/-- EGRESS_PACKET_START (R563, R564, R569): the head packet of the eligible queue with the earliest tag. -/
def coreEgressPacketStart (n : Nat) (b : Block) : Block :=
  let s := b.strait n
  if b.dpRuns ∧ s.st = .up ∧ !s.peerDrain ∧ s.replayPos = none ∧ (b.eg n).cur = none then
    let b := refreshElig n b
    match earliest (b.eg n) with
    | none => b
    | some q =>
      match queueOf b n q with
      | [] => b
      | p :: rest =>
        let flits := pktFlits p.pkt
        let l := chargeOf (b.eg n).ovh (pktBytes p.pkt) flits
        let wait := b.time.loc - p.since
        let part := queuePart b q
        let b := b.modEg n fun e =>
          { e with
            queues := tset e.queues q (afterHead p rest)
            v := tget 0 e.f q, s := tset e.s q (tget 0 e.f q)
            strait := charge l e.strait
            parts := match part with
              | some k => tmod {} e.parts k (charge l)
              | none => e.parts
            cur := some { qp := p, sent := 0, flits } }
        let b := { b with sched := { b.sched with delays := tmod 0 b.sched.delays q (max wait) } }
        let b := b.modEg n fun e => { e with f := tset e.f q (headTag b n q (tget 0 e.s q)) }
        refreshElig n b
  else b

/-- The four lanes of a codeword, each with the physical lane that carries it (R425, R450). -/
def laneBlocks (map : BitVec 12) (l : List Nat) : List (Nat × BitVec 1360) :=
  (List.range 4).map fun k => (bits map (3 * k + 2) (3 * k), BitVec.ofNat 1360 (symbolsNum (symbolsOfLane l k)))

/-- A flit goes out on a SerDes strait: its bits fill the codeword at hand, which leaves when it is full (R425, R426). -/
def streamOut (n : Nat) (f : BitVec 1024) (b : Block) : Block :=
  let s := b.strait n
  let acc := s.txBits <<< 1024 + flitStream f
  let len := s.txLen + 1024
  if 5140 ≤ len then
    (b.emit (.codeword n (laneBlocks s.map (rsEncode (numSymbols 514 (acc >>> (len - 5140))))))).modStrait n fun s =>
      { s with txBits := acc % 2 ^ (len - 5140), txLen := len - 5140, txPlace := (s.txPlace + 1) % 1285 }
  else b.modStrait n fun s => { s with txBits := acc, txLen := len, txPlace := (s.txPlace + 1) % 1285 }

/-- A flit goes out on a causeway; after slot 60 the marker and the parities follow (R428). -/
def causewayOut (n : Nat) (f : BitVec 1024) (b : Block) : Block :=
  let s := b.strait n
  let p := s.txParity ^^^ causewayParity f
  if s.txPlace = 60 then (b.emit (.frameEnd n p)).modStrait n fun s => { s with txPlace := 0, txParity := 0 }
  else b.modStrait n fun s => { s with txPlace := s.txPlace + 1, txParity := p }

/-- A flit leaves. -/
def sendFlit (n : Nat) (f : BitVec 1024) (b : Block) : Block :=
  let b := b.emit (.flit n f)
  if n < 2 then causewayOut n f b else streamOut n f b

/-- ACK of a flit sent now: the FSEQ last accepted in order (Table 10.2). -/
def ackOf (s : Strait) : BitVec 12 := s.expected - 1

/-- The flit that a sequenced flit of this body makes now (Table 10.2). -/
def seqImage (s : Strait) (vc : Vc) (kind : Nat) (body : BitVec 960) (psn : Bool) : BitVec 1024 :=
  flitImage body s.nextFseq vc.val kind (ackOf s) s.acked psn

/-- A new sequenced flit is sent and held for replay (R434). -/
def sendSequenced (n : Nat) (vc : Vc) (kind : Nat) (body : BitVec 960) (route : Quad) (last psn : Bool) (b : Block) : Block :=
  let s := b.strait n
  let image := seqImage s vc kind body psn
  (sendFlit n image b).modStrait n fun s =>
    { breakDoze s with
      replay := s.replay ++ [{ fseq := s.nextFseq, vc, image, route, last }]
      nextFseq := s.nextFseq + 1, flitsOut := s.flitsOut + 1 }

/-- FSEQ of a control flit: that of the next sequenced flit, which in a replay is a held one (Table 10.2). -/
def ctrlFseq (s : Strait) : BitVec 12 :=
  match s.replayPos.bind fun i => s.replay[i]? with
  | some h => h.fseq
  | none => s.nextFseq

/-- A control flit as it is sent now. -/
def ctrlImage (s : Strait) (c : Ctrl) : BitVec 1024 :=
  flitImage (ctrlBody c s.xoffNow) (ctrlFseq s) 0 2 (ackOf s) s.acked false

/-- A control flit is sent with the current XOFF mask (R432). -/
def sendCtrl (n : Nat) (c : Ctrl) (b : Block) : Block :=
  (sendFlit n (ctrlImage (b.strait n) c) b).modStrait n fun s => { s with rxXoff := s.xoffNow }

/-- A waiting control flit is sent: a doze flit has then been sent (R461), a TIME flit is stamped (R474). -/
def sendQueued (n : Nat) (c : Ctrl) (stamp : Word) (b : Block) : Block :=
  let b := sendCtrl n c b
  if isDoze c then b.modStrait n fun s => { s with dozeSent := true }
  else if c.type.toNat = cfTime then
    b.modStrait n fun s => { s with timeOut := keepTimes s.timeOut (c.msg, phyTime b n stamp) }
  else b

/-- A VC0 cell is sent, and charged to the strait shaper afterwards (R337, R570). -/
def sendCell (n : Nat) (c : Cell) (rest : List Cell) (b : Block) : Block :=
  let pre := match (b.eg n).cur with
    | some k => decide (0 < k.sent)
    | none => false
  let b := b.modEg n fun e => { e with cells := rest }
  let b := sendSequenced n 0 0 (bodyOf (cellBytes c)) c.hdr true false b
  let b := b.modEg n fun e => { e with strait := charge (chargeOf e.ovh 64 1) (accrue b.time.loc e.strait) }
  let b := { b with ferry := { b.ferry with
    cellsOut := if cSrc c.hdr = b.route.self.toNat then b.ferry.cellsOut + 1 else b.ferry.cellsOut
    preemptions := if pre then b.ferry.preemptions + 1 else b.ferry.preemptions } }
  if cSrc c.hdr = b.route.self.toNat then matchCell false n c.hdr (net16 b) b else b

/-- What a packet in progress has to send next. -/
inductive NextBody where
  /-- A flit that has not arrived yet, of a packet sent cut-through (R431). -/
  | gap
  | flit (body : BitVec 960) (psn : Bool)
  deriving DecidableEq, Repr

/-- The next flit of a packet in progress: of the frame encrypted here, or of the packet in the ingress buffer (R500), whose
HEAD flit goes on with HOPS counted up (R477). -/
def nextBody (b : Block) (c : Cur) : NextBody :=
  match c.qp.fwd with
  | none => .flit (frameFlit c.qp.frame c.sent) false
  | some id =>
    match ((b.strait c.qp.inStrait).ingress.find? fun p => p.id == id).bind fun p => p.flits[c.sent]? with
    | none => .gap
    | some (body, psn) =>
      if c.sent = 0 then .flit (BitVec.ofNat 960 (body.toNat / 2 ^ 128 * 2 ^ 128 + c.qp.pkt.route.toNat)) psn
      else .flit body psn

/-- A flit of a forwarded packet has been sent on from its ingress buffer; the last one ends the packet there. -/
def sentOn (p : QPkt) (k : Nat) (last : Bool) (b : Block) : Block :=
  match p.fwd with
  | none => b
  | some id =>
    if last then releaseIngress p.inStrait id b
    else updateXoff p.inStrait (b.modStrait p.inStrait fun s =>
      { s with ingress := s.ingress.map fun x => if x.id = id then { x with gone := k } else x })

/-- A flit read from the ingress buffer of strait m is sent with PSN = 1: an uncorrectable cellar error struck it (R457). -/
def poisonedRead (m : Nat) (b : Block) : Block :=
  (cellarHit 0 b).modStrait m fun s => { s with poisonedFlits := s.poisonedFlits + 1 }

/-- The next flit of the packet in progress; an IDLE flit fills a gap (R431). `hit`: the cellar cannot correct the flit read
from an ingress buffer, which ends a packet whose HEAD flit it is (R457, R458). -/
def sendBody (n : Nat) (c : Cur) (hit : Bool) (b : Block) : Block :=
  let p := c.qp
  match nextBody b c with
  | .gap => sendCtrl n (ctl cfIdle) b
  | .flit body psn =>
    let hit := hit && p.fwd.isSome
    if hit ∧ c.sent = 0 then
      sendCtrl n (ctl cfIdle)
        (headPoisoned p.inStrait p.inVc.val (cellarHit 0 (endForward p (b.modEg n fun e => { e with cur := none }))))
    else
      let last := c.sent + 1 == c.flits
      let b := if hit then poisonedRead p.inStrait b else b
      let b := sendSequenced n p.vc (if c.sent = 0 then 0 else 1) body p.pkt.route last (psn || hit) b
      let b := if c.sent = 0 ∧ !p.forwarded then matchPacket false n p.vc.val p.pkt.route (net16 b) b else b
      let b := sentOn p (c.sent + 1) last b
      if last then dropUse p.use (b.modEg n fun e => { e with cur := none })
      else b.modEg n fun e => { e with cur := some { c with sent := c.sent + 1 } }

/-- A held flit is sent again, bit for bit (R438), or poisoned where the cellar cannot correct it (R457). -/
def sendReplay (n i : Nat) (h : HeldFlit) (hit : Bool) (b : Block) : Block :=
  let b := if hit then poisonedRead n b else b
  (sendFlit n (if hit then poisonFlit h.image else h.image) b).modStrait n fun s =>
    { breakDoze s with flitsOut := s.flitsOut + 1, replayPos := if i + 1 < s.replay.length then some (i + 1) else none }

/-- The cellarers' time messages of this second join the control flits of an UP strait (R473; log 100): which of Sync with
its Follow_Up and Pdelay_Req they are is a free value. -/
def timeDue (n : Nat) (b : Block) : Block :=
  if bitAt b.time.due n ∧ (b.strait n).st = .up ∧ !b.maint.lost then
    let (w, b) := { b with time := { b.time with due := clearBit b.time.due n } }.fresh
    let b := if bitAt w 0 then sendTime n 0x8 (sendTime n 0x0 b) else b
    if bitAt w 1 then sendTime n 0x2 b else b
  else b

/-- FLIT_BOUNDARY (R336, R432, R435, R436, R440, R461): an agreed doze; else a NAK that is due, a waiting control flit, a
replayed flit, a ready VC0 flit, or the packet in progress; an IDLE control flit when nothing else is ready. -/
def coreFlitBoundary (n : Nat) (hit : Bool) (stamp : Word) (b : Block) : Block :=
  if ((b.strait n).st = .up ∨ (b.strait n).st = .drain) ∧ b.dpRuns then
    let b := timeDue n b
    let s := b.strait n
    let e := b.eg n
    match s.dozeGot, s.dozeSent && s.st == .up with
    | some (deep, off), true => enterDoze n deep off b
    | _, _ =>
      if s.nakDue then
        (sendCtrl n { ctl cfNak with nakSeq := s.expected } b).modStrait n fun s =>
          { s with nakDue := false, naksSent := s.naksSent + 1 }
      else match s.ctrl with
      | c :: rest => sendQueued n c stamp (b.modStrait n fun s => { s with ctrl := rest })
      | [] =>
        match s.replayPos with
        | some i =>
          match s.replay[i]? with
          | some h => sendReplay n i h hit b
          | none => b.modStrait n fun s => { s with replayPos := none }
        | none =>
          if clsReplay s.cls ≤ s.replay.length then sendCtrl n (ctl cfIdle) b
          else
            match e.cells, e.cur with
            | c :: rest, cur =>
              if !bitAt s.txXoff 0 ∧ s.st = .up ∧ !s.peerDrain then sendCell n c rest b
              else match cur with
                | some k => sendBody n k hit b
                | none => sendCtrl n (ctl cfIdle) b
            | [], some k => sendBody n k hit b
            | [], none => sendCtrl n (ctl cfIdle) b
  else b

/-! ### Waiting packets and held packets -/

/-- NO_ROUTE_RECHOOSE (R509): every packet without a route chooses again, in order. -/
def coreNoRouteRechoose (b : Block) : Block :=
  let ps := b.route.waiting
  ({ b with route := { b.route with waiting := [] } }).each ps routeOut

/-- The head of a meter's hold line is metered again (R576): released by its new colour, or left. -/
def releaseHeld (m : Nat) (b : Block) : Block :=
  let mt := b.meter m
  match mt.hold with
  | [] => b
  | p :: rest =>
    let (c, mt2) := meterRun mt b.time.loc (pktBytes p.pkt)
    match c with
    | .red => if bitAt mt.ctrl 61 then b else
        routeOut { p with q := ctxQueue (p.q / 8) 7 } (b.modMeter m fun _ => { countColour c mt2 with hold := rest })
    | .green => routeOut p (b.modMeter m fun _ => { countColour c mt2 with hold := rest })
    | .yellow => routeOut { p with q := ctxQueue (p.q / 8) 7 } (b.modMeter m fun _ => { countColour c mt2 with hold := rest })

/-- METER_HOLD_RELEASE. -/
def coreMeterHoldRelease (m : Nat) (b : Block) : Block := releaseHeld m b

/-- METER[m].RATE or SIZE written: every bucket is filled to its size (R577). -/
def writeMeterSetting (m : Nat) (size : Bool) (v : Word) (b : Block) : Block :=
  b.modMeter m fun mt =>
    let mt := if size then { mt with size := v } else { mt with rate := v }
    { mt with tc := bits mt.size 31 0 * 1000, te := bits mt.size 63 32 * 1000, last := b.time.loc }

/-- METER[m].CTRL written (R577): with VALID 0 the hold line is queued unmetered, with ACTION MARK it is
metered again. Bit 60 and bits [47:0] are reserved. -/
def writeMeterCtrl (m : Nat) (v : Word) (b : Block) : Block :=
  let held := (b.meter m).hold
  let b := b.modMeter m fun mt => { mt with ctrl := keep v 63 61 ||| keep v 59 48 }
  if !bitAt v 63 then (b.modMeter m fun mt => { mt with hold := [] }).each held routeOut
  else if !bitAt v 61 then
    b.each held fun _ b => releaseHeld m b
  else b

end Sys2Proof.Machine
end

