-- ==== Sys2Proof/Machine/Press.lean ====
section
/-!
DEFINITION. The press (06_groups_collectives_press.md): its permit (R289 to R291), collective packets
(R492, R493), results written at this node (R284, R287, R309), reduction steps and rounding (R273, R282,
R294 to R307), chunks (R283), and arrivals (R271 to R275, R309, R743).
-/

namespace Sys2Proof.Machine

/-! ### The permit -/

/-- The press asks for its 24 units unless it has asked, holds them, or its token is held (R289, R291). A
COLL lends what its sequencer has free (R160). -/
def pressAsk (lender : Option Nat) (b : Block) : Block :=
  if b.press.permit ≠ .none ∨ (b.token resPress).holder ≠ 0 then b
  else match lender with
    | some q =>
      let (lent, asked, b) := drawUnits q 24 b
      let b := { b with press := { b.press with
        lentBy := some (q, lent), permit := if asked = 0 then .held else .waiting } }
      if asked = 0 then b else askPermit .press asked b
    | none => askPermit .press 24 { b with press := { b.press with lentBy := none, permit := .waiting } }

/-- Instances in PERMIT_WAIT run once the permit is held (R289). -/
def pressRun (b : Block) : Block :=
  if b.press.permit = .held then
    { b with press := { b.press with insts := b.press.insts.map fun x =>
        if x.2.st = InstSt.permitWait then (x.1, { x.2 with st := if x.2.errored then .diverged else .running }) else x } }
  else b

/-! ### Instances -/

/-- The instance (group, sequence) in the table (R267). -/
def instFor (b : Block) (g s : Nat) : Option Nat :=
  (b.press.insts.find? fun x => x.2.st != .free && x.2.group == g && x.2.sequence == s).map fun x => x.1

/-- An instance runs at this node. -/
def instRuns (x : Inst) : Bool := x.issued && (x.st == .running || x.st == .diverged)

/-- The lowest free index of a program's reservation (R318). -/
def freeInst (b : Block) (q : Nat) : Option Nat :=
  (b.seq q).instSet.find? fun i => (b.inst i).st == .free

/-- An instance becomes DIVERGED without an event (R311, R342). -/
def quietDiverge (i : Nat) (b : Block) : Block :=
  let x := b.inst i
  let b := b.modInst i fun x => { x with errored := true, st := divergedSt x.st }
  if x.errored then b else { b with press := { b.press with diverged := b.press.diverged + 1 } }

/-- An instance binds the CURRENT slot (R286, R324); with none its context freezes (R740). -/
def bindInst (i : Nat) (b : Block) : Bool × Block :=
  let x := b.inst i
  if x.key.isSome then (true, b)
  else match currentSlot b (b.ctx x.ctx).part.val with
    | some k => (true, refSlot k (b.modInst i fun x => { x with key := some k }))
    | none => (false, freezeCtx x.ctx 6 .keyRetired 0xFF x.seq x.pc.toNat b)

/-! ### Packets (Table 11.6) -/

/-- The fields of a collective operation word. -/
structure CollOp where
  seq : Nat
  chunk : Nat
  level : Nat
  step : Nat
  elem : Nat
  csv : Bool
  low : Nat

/-- A collective packet of a context's group goes into its class's queue, credits and grants first
(R288), which no meter holds (R572). LEVEL of Table 11.6 takes the level's number in the group table, skipped levels counted, modulo 16: R494
bounds the levels that are not skipped (log 36). -/
def collPacket (ctx gid cls : Nat) (slot : Nat) (use : PktUse) (dst : Nat) (o : CollOp) (poison : Bool)
    (payload : List Byte) (b : Block) : Block :=
  let r := mkRoute { type := tyColl, dst, src := b.route.self.toNat, part := (b.ctx ctx).part.val,
                     weight := decide (12 ≤ slot), key := slotKeyId b slot, poison, len := payload.length,
                     dctx := 0, sctx := ctx, inc := (b.ctx ctx).incarnation.toNat }
  let op := quad [(118, gid), (86, o.seq), (68, o.chunk), (64, o.level % 16), (61, o.step), (38, o.elem),
    (37, o.csv.toNat), (0, o.low)]
  let p := newPkt r op payload none (ctxQueue ctx (3 + cls)) 6 (some slot) use
  if 4 ≤ o.step then routeOut { p with high := true } b else originate p b

/-- A collective packet of an instance. -/
def instPacket (i : Nat) (g : Group) (dst : Nat) (o : CollOp) (poison : Bool) (payload : List Byte) (b : Block) : Block :=
  let x := b.inst i
  collPacket x.ctx x.group g.cls (x.key.getD 0) (.inst i) dst o poison payload b

/-- FORMAT of Table 11.6. -/
def formatOf (x : Inst) : Nat := packNat [(27, x.ty), (25, x.op), (24, x.carry.toNat)]

/-- A piece of gathered data is sent (R281, R305, R306, R308). -/
def sendGather (i k : Nat) (g : Group) (level step node : Nat) (p : Piece) (b : Block) : Block :=
  let x := b.inst i
  let payload := if p.poison then List.replicate (runBytes x.ty p.count) 0xFF else p.bytes
  let (csv, low) := if step = 2 then (false, formatOf x) else (p.csum.isSome, (p.csum.map fun s => s.toNat).getD 0)
  instPacket i g node { seq := x.sequence, chunk := k, level, step, elem := p.first, csv, low } p.poison payload b

/-- A start grant of a member for an instance has been received (R274). -/
def granted (g : Group) (node s : Nat) : Bool := g.grants.contains (node, s)

/-- A chunk of an instance. -/
def chunkOf (x : Inst) (k : Nat) : Option CollChunk := x.chunks.find? fun c => c.k == k
/-- A chunk of an instance changed. -/
def modChunk (i k : Nat) (f : CollChunk → CollChunk) (b : Block) : Block :=
  b.modInst i fun x => { x with chunks := x.chunks.map fun c => if c.k = k then f c else c }

/-- A piece of gathered data goes to the counterparts at level l; ALL_GATHER and BROADCAST wait for each member's
start grant (R274). -/
def gatherTo (i k l : Nat) (g : Group) (p : Piece) (b : Block) : Block :=
  let x := b.inst i
  b.each (g.others l) fun j b =>
    let node := g.peer l j
    if x.kind = kAllReduce then sendGather i k g l 1 node p b
    else if granted g node x.sequence then sendGather i k g l (if x.kind = kBroadcast then 3 else 1) node p b
    else modChunk i k (fun c => { c with pend := c.pend ++ [(node, l, p)] }) b

/-- The elements that a node must hold before its gather step at level l begins (R280, R50): the whole chunk of a
BROADCAST, else the piece that its counterparts above l and itself hold. -/
def gatherNeed (g : Group) (x : Inst) (k l : Nat) : Nat :=
  if x.kind = kBroadcast then chunkN g x k else (pieceAfter g x k l).2

/-- Gather steps that can begin do so, from the outermost level inwards: what came in above the level is complete
and all of it is sent (R280, R50). -/
def gatherSteps (i k : Nat) (b : Block) : Block :=
  match groupOf b (b.inst i).group with
  | none => b
  | some g =>
    b.each g.levels.reverse fun l b =>
      match chunkOf (b.inst i) k with
      | none => b
      | some c =>
        let above := c.held.filter fun h => decide (l < h.1)
        if c.opened.contains l ∨ above.isEmpty ∨
            (above.map fun h => h.2.count).foldl (· + ·) 0 < gatherNeed g (b.inst i) k l then b
        else
          (modChunk i k (fun c => { c with opened := c.opened ++ [l] }) b).each above fun h b => gatherTo i k l g h.2 b

/-- A piece of gathered data that came in at a level (above all levels: this node's own) is held for the steps at
lower levels (R280). -/
def gatherOut (i k level : Nat) (p : Piece) (b : Block) : Block :=
  gatherSteps i k (modChunk i k (fun c => { c with held := c.held ++ [(level, p)] }) b)

/-! ### Places of buffers (R287) -/

/-- What translating a buffer's pages answers. -/
inductive Placed where
  | wait
  | bad (page cause : Nat)
  | foreign
  | ok (ps : List PagePlace)
  deriving DecidableEq, Repr

/-- Pages of a COLL buffer translated in turn. -/
def placePages (i acc : Nat) : List Nat → Block → Placed × Block
  | [], b => (.ok [], b)
  | p :: r, b =>
    match translate 4 (b.inst i).ctx (w64 (p * 65536)) acc (.coll i) b with
    | (.wait, b) => (.wait, b)
    | (.bad c, b) => (.bad p c, b)
    | (.ok t, b) =>
      if t.node ≠ b.route.self.toNat then (.foreign, b)
      else match placePages i acc r b with
        | (.ok ps, b) => (.ok ({ page := p, off := t.off, dctx := t.dctx } :: ps), b)
        | x => x

/-- A COLL buffer that cannot be used freezes its context (R287, R357). -/
def placeFault (i acc : Nat) (p : Placed) (b : Block) : Block :=
  let x := b.inst i
  match p with
  | .bad page cause => xlatFault x.ctx (w64 (page * 65536)) acc cause 4 18 x.seq x.pc.toNat b
  | .foreign => freezeCtx x.ctx 8 .access (i % 64) x.seq x.pc.toNat b
  | _ => b

/-- The pages that byte ranges touch. -/
def pagesOf (runs : List (Nat × Nat)) : List Nat :=
  (runs.flatMap fun r =>
    if r.2 = 0 then [] else (List.range ((r.1 + r.2 - 1) / 65536 + 1 - r.1 / 65536)).map fun j => r.1 / 65536 + j).eraseDups

/-- The byte ranges cut at page boundaries, each at its place: local offset, length, destination context. -/
def placeRuns (ps : List PagePlace) (runs : List (Nat × Nat)) : List (Nat × Nat × Nat) :=
  (pagesOf runs).flatMap fun pg => runs.filterMap fun r =>
    let lo := max r.1 (pg * 65536)
    let hi := min (r.1 + r.2) (pg * 65536 + 65536)
    if lo < hi then
      (ps.find? fun p => p.page == pg).map fun p => (p.off + lo % 65536, hi - lo, p.dctx)
    else none

/-- Byte ranges of a buffer that this home refuses for quarantine only (R216), and whether it refuses one for
another reason. -/
def runsPoison (b : Block) (x : Inst) (acc : Nat) (rs : List (Nat × Nat × Nat)) : List (Nat × Nat × Nat) :=
  rs.filter fun r => match localCheck b x.ctx r.2.2 acc r.1 r.2.1 x.key with
    | .fail .dataPoison _ => true
    | _ => false

/-- The first of the ranges that this home refuses (R379, R405, R216). -/
def runsRefused (b : Block) (x : Inst) (acc : Nat) (rs : List (Nat × Nat × Nat)) : Option (Nat × Status × Option Nat) :=
  rs.findSome? fun r =>
    match localCheck b x.ctx r.2.2 acc r.1 r.2.1 x.key with
    | .pass _ => none
    | .fail st prot => some (r.2.2, st, prot)

/-- A COLL access that this home refuses freezes the context (R374, R405, R216). -/
def collRefused (i dctx : Nat) (st : Status) (prot : Option Nat) (b : Block) : Block :=
  let x := b.inst i
  let b := countNack dctx st b
  match prot with
  | some j => freezeCtx x.ctx 10 st j x.seq x.pc.toNat b
  | none =>
    if st = .access then freezeCtx x.ctx 5 st 0 x.seq x.pc.toNat b
    else freezeCtx x.ctx 8 st (i % 64) x.seq x.pc.toNat b

/-- Byte at a virtual address of a buffer that has been read. -/
def placeByte (ps : List PagePlace) (gs : Tbl Granule) (va : Nat) : Byte :=
  match ps.find? fun p => p.page == va / 65536 with
  | some p =>
    let off := p.off + va % 65536
    BitVec.ofNat 8 ((tget 0 gs (off / 64)).toNat >>> (8 * (off % 64)))
  | none => 0

/-- Bytes of a buffer that has been read. -/
def placeBytes (ps : List PagePlace) (gs : Tbl Granule) (va len : Nat) : List Byte :=
  (List.range len).map fun j => placeByte ps gs (va + j)

/-- The source bytes of the elements (first, n) of a chunk: packed elements, then scale bytes. -/
def sourceBytes (g : Group) (x : Inst) (c : CollChunk) (first n : Nat) : List Byte :=
  let base := x.gs.toNat
  let rs := (runsOf g x c.k first n).map fun r => (bufElem g x false c.k r.1, r.2)
  (rs.flatMap fun r => placeBytes c.src c.read (base + elemBytes x.ty r.1) (elemBytes x.ty r.2)) ++
    (if tyMx x.ty then
      rs.flatMap fun r =>
        placeBytes c.src c.read (base + scaleBase x.ty (bufTotal g x false) + r.1 / 32) (r.2 / 32)
     else [])

/-- Elements of one packet in the input format. -/
def packetInput (ty : Nat) : Nat := packetElems ty (runBytes ty (tyBlock ty))
/-- Elements of one packet in the carry format. -/
def packetCarry (ty : Nat) (carry : Bool) : Nat := packetElems ty (carryBytes ty carry * tyBlock ty)

/-- The packet runs of the source elements (first, n) that hold poison (Table 6.8). -/
def badRuns (g : Group) (x : Inst) (c : CollChunk) (first n : Nat) : List (Nat × Nat) :=
  (cutRuns (packetInput x.ty) first n).filter fun r =>
    (placeRuns c.src (byteRuns g x false c.k r.1 r.2)).any fun p =>
      (granulesOf (p.1 / 64 * 64) (p.1 % 64 + p.2.1)).any c.readBad.contains

/-! ### Results at this node -/

/-- Result bytes of a chunk are counted in RT (R154, R284), errored when they are not written (R309). -/
def countResult (i k bytes : Nat) (err : Bool) (b : Block) : Block :=
  let x := b.inst i
  let n := min bytes x.rtLeft
  let b := if n = 0 then b else
    enqueueIncr { ctx := x.ctx, idx := x.rt, amount := n, err, part := some (b.ctx x.ctx).part.val, seq := some x.seq } b
  modChunk i k (fun c => { c with written := c.written + bytes }) (b.modInst i fun x => { x with rtLeft := x.rtLeft - n })

/-- The granule writes of bytes at an offset: granule, mask, data, bytes. -/
def granWrites (off : Nat) (bs : List Byte) : List (Nat × Word × Granule × Nat) :=
  if bs.isEmpty then []
  else (List.range ((off + bs.length - 1) / 64 + 1 - off / 64)).map fun j =>
    let g := (off / 64 + j) * 64
    let lo := max off g
    let hi := min (off + bs.length) (g + 64)
    (g, maskOf (lo - g) (hi - lo), granOf (lo - g) (slice bs (lo - off) (hi - lo)), hi - lo)

/-- The writes of a piece: address, bytes, and what they count in RT. The sidecar word of a checksummed
tile follows it (R305, R244). -/
def pieceWrites (b : Block) (g : Group) (x : Inst) (k : Nat) (p : Piece) : List (Nat × List Byte × Bool) :=
  let base := x.gd.toNat
  (runsOf g x k p.first p.count).flatMap fun r =>
    let e := bufElem g x true k r.1
    let va := base + elemBytes x.ty e
    (va, slice p.bytes (elemBytes x.ty (r.1 - p.first)) (elemBytes x.ty r.2), true) ::
      ((if tyMx x.ty then
        [(base + scaleBase x.ty (bufTotal g x true) + e / 32,
          slice p.bytes (elemBytes x.ty p.count + (r.1 - p.first) / 32) (r.2 / 32), true)] else []) ++
       (match p.csum with
        | some s => if checksummed b x.ctx va 4096 then
            [((sidecarVa b x.ctx va).toNat, natBytes 4 s.toNat, false)] else []
        | none => [])) ++
    (p.sums.filter fun s => checksummed b x.ctx s.1 4096).map fun s =>
      ((sidecarVa b x.ctx s.1).toNat, natBytes 4 s.2.toNat, false)

/-- The granule writes of a piece at translated places: granule, mask, data, bytes that RT counts. -/
def placeWrites (ps : List PagePlace) (ws : List (Nat × List Byte × Bool)) : List (Nat × Word × Granule × Nat) :=
  let cut := ws.flatMap fun w =>
    (List.range w.2.1.length).foldl (fun (acc : List (Nat × List Byte × Bool)) j =>
      if j = 0 ∨ (w.1 + j) % 65536 = 0 then
        acc ++ [(w.1 + j, slice w.2.1 j (min (w.2.1.length - j) (65536 - (w.1 + j) % 65536)), w.2.2)] else acc) []
  cut.flatMap fun w =>
    match ps.find? fun q => q.page == w.1 / 65536 with
    | some q => (granWrites (q.off + w.1 % 65536) w.2.1).map fun y => (y.1, y.2.1, y.2.2.1, if w.2.2 then y.2.2.2 else 0)
    | none => []

/-- A piece is written at this node's GD, or counted errored when it is poisoned (R284, R309). Its pages are
translated for it, and its use of them lasts until the last of its writes is visible (R366); a piece whose
translation needs a walk waits in its chunk. -/
def writePiece (i k : Nat) (p : Piece) (b : Block) : Block :=
  let x := b.inst i
  match groupOf b x.group with
  | none => b
  | some g =>
    if p.poison then countResult i k (runBytes x.ty p.count) true b
    else
      let ws := pieceWrites b g x k p
      let runs := ws.map fun w => (w.1, w.2.1.length)
      match placePages i 1 (pagesOf runs) b with
      | (.wait, b) => modChunk i k (fun c => { c with wait := c.wait ++ [p] }) b
      | (.ok ps, b) =>
        match runsRefused b x 1 (placeRuns ps runs) with
        | some (dctx, st, prot) => collRefused i dctx st prot b
        | none =>
          let gws := placeWrites ps ws
          if gws.isEmpty then b
          else
            let use := 2 * x.uses + 1
            let b := beginUse (.coll i) use x.ctx (b.ctx x.ctx).gen
              (b.modInst i fun x => { x with writes := x.writes + gws.length, uses := x.uses + 1 })
            let places := placeRuns ps runs
            b.each gws fun y b =>
              memWriteIn (runWins b x.ctx 1 x.key places (y.1 / 64)) y.1 x.hint y.2.1 y.2.2.1 (.collWrite i k y.2.2.2 use) b
      | (f, b) => placeFault i 1 f b

/-- Pieces whose write waited for a translation are tried again. -/
def retryPieces (i : Nat) (b : Block) : Block :=
  b.each (b.inst i).chunks fun c b =>
    (modChunk i c.k (fun c => { c with wait := [] }) b).each c.wait fun p b => writePiece i c.k p b



/-! ### Reduction -/

/-- The identity of an instance's operation. -/
def instIdentity (x : Inst) : Word := identity x.ty x.carry x.op

/-- Values added into an accumulator, but for poisoned elements: how many integer carries saturated, and how many
were added (R273, R294, R300, R309, R317). -/
def addVals (x : Inst) (first : Nat) (vals : List Word) (bad : List (Nat × Nat)) (a : Acc) : Acc × Nat × Nat :=
  let put (s : Acc × Nat × Nat) (e : Nat × Word) : Acc × Nat × Nat :=
    if bad.any fun r => decide (r.1 ≤ e.1 ∧ e.1 < r.1 + r.2) then s
    else
      let (v, sat) := accumulate x.ty x.carry x.op (tget (instIdentity x) s.1.vals e.1) e.2
      ({ s.1 with vals := tset s.1.vals e.1 v }, s.2.1 + sat.toNat, s.2.2 + 1)
  let r := ((List.range vals.length).zip vals).foldl (fun s e => put s (first + e.1, e.2)) (a, 0, 0)
  ({ r.1 with poison := r.1.poison ++ bad }, r.2)

/-- Saturations counted (R300). -/
def countSat (n : Nat) (b : Block) : Block := { b with press := { b.press with saturated := b.press.saturated + w64 n } }
/-- Elements added counted. -/
def countElems (n : Nat) (b : Block) : Block := { b with press := { b.press with elements := b.press.elements + w64 n } }

/-- The accumulator of chunk k at level l. -/
def accOf (x : Inst) (k l : Nat) : Option Acc := x.accs.find? fun a => a.chunk == k && a.level == l
/-- An accumulator put in its place. -/
def putAcc (i : Nat) (a : Acc) (b : Block) : Block :=
  b.modInst i fun x =>
    { x with accs := (x.accs.filter fun y => !(y.chunk == a.chunk && y.level == a.level)) ++ [a] }

/-- The accumulator of (slot, window position, level) is free, or is this chunk's already (R272). -/
def accFree (b : Block) (g : Group) (i k l : Nat) : Bool :=
  let x := b.inst i
  !(b.press.insts.any fun y =>
    y.2.group == x.group && y.2.sequence % g.slots == x.sequence % g.slots &&
      y.2.accs.any fun a => a.level == l && a.chunk % g.window == k % g.window && !(y.1 == i && a.chunk == k))

/-- An accumulator is released: a credit for it goes to each counterpart (R272). -/
def releaseAcc (i k l : Nat) (b : Block) : Block :=
  let x := b.inst i
  match groupOf b x.group with
  | none => b
  | some g =>
    let b := b.modInst i fun x => { x with accs := x.accs.filter fun a => !(a.chunk == k && a.level == l) }
    b.each (g.others l) fun j b =>
      instPacket i g (g.peer l j) { seq := x.sequence % g.slots, chunk := k % g.window, level := l, step := 4,
                                    elem := 0, csv := false, low := 0 } false [] b

/-- Source tiles of a chunk whose checksum does not match (R306, R307). A tile of which a granule, or whose word,
holds poison cannot be verified. -/
def sourceMismatches (b : Block) (g : Group) (x : Inst) (c : CollChunk) : List Nat :=
  let s := sourceRange g x c.k
  let tiles := (byteRuns g x false c.k s.1 s.2).flatMap fun r =>
    ((List.range (r.2 / 4096)).map fun j => r.1 + 4096 * j).filter fun va => checksummed b x.ctx va 4096
  let clean (r : Nat × Nat) : Bool := (placeRuns c.src [r]).all fun p =>
    (granulesOf (p.1 / 64 * 64) (p.1 % 64 + p.2.1)).all fun a => !c.readBad.contains a
  tiles.filter fun va =>
    clean (va, 4096) && clean ((sidecarVa b x.ctx va).toNat, 4) &&
    crc32c (placeBytes c.src c.read va 4096) !=
      BitVec.ofNat 32 (bytesNat (placeBytes c.src c.read (sidecarVa b x.ctx va).toNat 4))

/-- The source tiles of a chunk are verified: each mismatch is counted and raises its event, and the first makes
the instance DIVERGED with cause 4 (R307). `true`: there is one. -/
def verifySource (i k : Nat) (g : Group) (c : CollChunk) (b : Block) : Bool × Block :=
  let x := b.inst i
  let miss := sourceMismatches b g x c
  let b := { b with press := { b.press with csumMismatch := b.press.csumMismatch + w64 miss.length } }
  let b := b.each miss fun va b => raiseEvent 0x03 0 x.ctx 0xFE (w64 va) 0 b
  (!miss.isEmpty, if miss.isEmpty then b else divergeInst i 4 k b)

/-- The address in GD of element j of chunk k. -/
def resultVa (g : Group) (x : Inst) (k j : Nat) : Nat := x.gd.toNat + elemBytes x.ty (bufElem g x true k j)

/-- The checksum that a run of elements carries: that of a whole result tile, whichever node's GD is checksummed
(R306). No packet of an MX type holds a whole tile (R493). -/
def tileSum (g : Group) (x : Inst) (k first : Nat) (bytes : List Byte) : Option (BitVec 32) :=
  if bytes.length = 4096 ∧ !tyMx x.ty ∧ (resultVa g x k first - x.gd.toNat) % 4096 = 0 then some (crc32c bytes) else none

/-- The checksums of the result tiles, by address, of an MX shard that this node keeps: elements and scales (R306). -/
def mxSums (g : Group) (x : Inst) (k first : Nat) (bytes : List Byte) (n : Nat) : List (Nat × BitVec 32) :=
  if !tyMx x.ty then []
  else
    let e := elemBytes x.ty n
    let tiles (va : Nat) (bs : List Byte) : List (Nat × BitVec 32) :=
      (List.range (bs.length / 4096)).map fun j => (va + 4096 * j, crc32c (slice bs (4096 * j) 4096))
    let el := bufElem g x true k first
    tiles (x.gd.toNat + elemBytes x.ty el) (slice bytes 0 e) ++
      tiles (x.gd.toNat + scaleBase x.ty (bufTotal g x true) + el / 32) (slice bytes e (n / 32))

/-- The final shard of a chunk is rounded and leaves in its kind's way: result tiles take their checksums, and only
then are the source tiles verified (R33, R280, R298, R306). -/
def roundShard (i k first : Nat) (vals : List Word) (bad : List (Nat × Nat)) (b : Block) : Block :=
  let x := b.inst i
  match groupOf b x.group, chunkOf x k with
  | some g, some c =>
    let n := vals.length
    let sums := if x.kind = kReduceScatter ∧ bad.isEmpty then
        mxSums g x k first (roundOut x.ty x.carry vals).1 n else []
    let (missed, b) := verifySource i k g c b
    let bad := if missed then [(first, n)] else bad
    let parts := (cutRuns (packetInput x.ty) first n).flatMap fun r => splitBad bad r.1 r.2
    let b := modChunk i k (fun c => { c with phase := .own }) b
    b.each parts fun r b =>
      let (f, cnt, poison) := r
      let (bytes, sat) := if poison then ([], 0) else roundOut x.ty x.carry ((vals.drop (f - first)).take cnt)
      let p : Piece := { first := f, count := cnt, bytes, poison, csum := if poison then none else tileSum g x k f bytes
                         sums := if f = first ∧ !missed then sums else [] }
      let b := countSat sat b
      if x.kind = kAllReduce then gatherOut i k (g.shape.length + 1) p (writePiece i k p b)
      else if x.kind = kReduceScatter then writePiece i k p b
      else if g.rank = x.root then writePiece i k p b
      else sendGather i k g (g.levels.getLastD 1) 2 (g.nodeAt (pathOf g.shape x.root)) p b
  | _, _ => b

/-- A contribution moves to the next level, or is rounded after the last (R282). -/
def stage (i k l first : Nat) (vals : List Word) (bad : List (Nat × Nat)) (b : Block) : Block :=
  match groupOf b (b.inst i).group with
  | none => b
  | some g =>
    match g.above l with
    | some l' => modChunk i k (fun c => { c with contribs := c.contribs ++ [{ level := l', first, vals, poison := bad, own := false }] }) b
    | none => roundShard i k first vals bad b

/-- The node's own part of a contribution goes into its own accumulator (R272, R273). -/
def ownAdd (i k : Nat) (g : Group) (ct : Contrib) (b : Block) : Block :=
  let x := b.inst i
  let s := memberShard g x k ct.level (g.i ct.level)
  let a := (accOf x k ct.level).getD { chunk := k, level := ct.level, vals := [], poison := [], pieces := [], own := false, passed := false }
  let bad := ct.poison.filterMap fun r =>
    let lo := max r.1 s.1
    let hi := min (r.1 + r.2) (s.1 + s.2)
    if lo < hi then some (lo, hi - lo) else none
  let (a, sat, added) := addVals x s.1 ((ct.vals.drop (s.1 - ct.first)).take s.2) bad a
  let b := putAcc i { a with own := true } (countSat sat (countElems added b))
  modChunk i k (fun c => { c with contribs := c.contribs.map fun y => if y.level = ct.level then { y with own := true } else y }) b

/-- An accumulator holds the node's own contribution and the pieces of all counterparts (R282). -/
def accComplete (g : Group) (x : Inst) (a : Acc) : Bool :=
  let s := memberShard g x a.chunk a.level (g.i a.level)
  a.own && !a.passed && (g.others a.level).all fun j => a.pieces.any fun p => p.1 == j && decide (s.2 ≤ p.2)

/-- One step of a chunk that can be taken (R282): an own part is added, a complete accumulator passed on, a
contribution that has been sent lets the accumulator it came from go. -/
def chunkStep (b : Block) (g : Group) (i : Nat) (c : CollChunk) : Option Block :=
  let x := b.inst i
  match c.contribs.find? fun ct => !ct.own && accFree b g i c.k ct.level with
  | some ct => some (ownAdd i c.k g ct b)
  | none =>
    match x.accs.find? fun a => a.chunk == c.k && accComplete g x a with
    | some a =>
      let s := memberShard g x c.k a.level (g.i a.level)
      let vals := (List.range s.2).map fun j => tget (instIdentity x) a.vals (s.1 + j)
      let b := putAcc i { a with passed := true } b
      let b := stage i c.k a.level s.1 vals a.poison b
      some (match g.above a.level with
        | some _ => b
        | none => releaseAcc i c.k a.level b)
    | none =>
      match c.contribs.find? fun ct => ct.own && (g.others ct.level).all fun j => c.sent.contains (ct.level, j) with
      | some ct =>
        let b := modChunk i c.k (fun c => { c with contribs := c.contribs.filter fun y => y.level != ct.level }) b
        some (match g.below ct.level with
          | some l => releaseAcc i c.k l b
          | none => b)
      | none => none

/-- One step of some running instance of a group. -/
def groupStep (gid : Nat) (b : Block) : Option Block :=
  match groupOf b gid with
  | none => none
  | some g =>
    b.press.insts.findSome? fun y =>
      if y.2.group = gid ∧ instRuns y.2 then y.2.chunks.findSome? (chunkStep b g y.1) else none

/-- Steps of a group until none is left; a chunk has at most 45 (R494). -/
def groupLoop (gid : Nat) : Nat → Block → Block
  | 0, b => b
  | n + 1, b =>
    match groupStep gid b with
    | some b => groupLoop gid n b
    | none => b

/-! ### The end of chunks and instances -/

/-- A packet of chunk k of an instance has not left this node. -/
def chunkWaits (b : Block) (i k : Nat) : Bool := pktHere b fun p => ofInst i p && bits p.pkt.op 85 68 == k

/-- Nothing of a chunk is left to do at this node: its results are written, its packets sent (R283). -/
def chunkOver (b : Block) (i : Nat) (c : CollChunk) : Bool :=
  c.phase == .own && c.contribs.isEmpty && c.pend.isEmpty && c.wait.isEmpty && decide (c.expect ≤ c.written) &&
    !((b.inst i).accs.any fun a => a.chunk == c.k) && !chunkWaits b i c.k

/-- What a packet is used for, with instance i renamed j. -/
def PktUse.rename (i j : Nat) (u : PktUse) : PktUse := if u = .inst i then .inst j else u

/-- Instance i moves to key j of the table, with all that names it. -/
def renameInst (i j : Nat) (b : Block) : Block :=
  let pk (p : QPkt) : QPkt := { p with use := p.use.rename i j }
  let why (w : MemWhy) : MemWhy := match w with
    | .collRead n k => if n = i then .collRead j k else w
    | .collWrite n k bytes u => if n = i then .collWrite j k bytes u else w
    | _ => w
  let who (w : Waiter) : Waiter := if w = .coll i then .coll j else w
  { b with
    egress := b.egress.map fun e => (e.1, { e.2 with
      queues := e.2.queues.map fun q => (q.1, q.2.map pk)
      cur := e.2.cur.map fun c => { c with qp := pk c.qp } })
    route := { b.route with
      waiting := b.route.waiting.map pk, exhausted := b.route.exhausted.map fun x => (x.1, x.2.rename i j) }
    meters := b.meters.map fun m => (m.1, { m.2 with hold := m.2.hold.map pk })
    mem := {
      outstanding := b.mem.outstanding.map fun o => { o with req := { o.req with why := why o.req.why } }
      waiting := b.mem.waiting.map fun r => { r with why := why r.why } }
    xlat := { b.xlat with
      uses := b.xlat.uses.map fun u => { u with who := who u.who }
      walks := b.xlat.walks.map fun k => { k with waiters := k.waiters.map fun x => (who x.1, x.2) } }
    press := { b.press with insts := tset (tdel b.press.insts i) j (b.inst i) } }

/-- A key of the instance table beyond its 256 registers that no instance stands at. -/
def spareKey (b : Block) : Nat := (b.press.insts.map fun x => x.1).foldl (fun m k => max m (k + 1)) 256

/-- An instance is finished: RT has advanced by its figure (R154), and it leaves the table (R318). What it still has
to send for other members it sends from a place of its own. -/
def finishInst (i : Nat) (b : Block) : Block :=
  let x := b.inst i
  if x.chunks.isEmpty ∧ x.writes = 0 then releaseInst i b
  else if i < 256 then renameInst i (spareKey b) (traceEnd i b)
  else b

/-- Chunks that are over leave. An instance all of whose chunks are over has left its contribution, for which a
REDUCE away from its root counts 1 (R154); one whose RT is complete is finished (R283). -/
def instCheck (i : Nat) (b : Block) : Block :=
  let x := b.inst i
  if !instRuns x ∨ x.kind = 7 then b
  else
    let ended := x.chunks.filter (chunkOver b i)
    let b := b.each ended fun c b =>
      b.modInst i fun x => { x with chunks := x.chunks.filter fun y => y.k != c.k, done := x.done + 1 }
    let x := b.inst i
    let b := if x.next = x.chunksTotal ∧ x.chunks.isEmpty ∧ x.writes = 0 ∧ 0 < x.rtLeft then
        enqueueIncr { ctx := x.ctx, idx := x.rt, amount := x.rtLeft, err := x.errored,
                      part := some (b.ctx x.ctx).part.val, seq := some x.seq }
          (b.modInst i fun x => { x with rtLeft := 0 })
      else b
    if (b.inst i).rtLeft = 0 ∧ (b.inst i).next = x.chunksTotal then finishInst i b else b

/-- A group's instances go as far as they can. -/
def pressGo (gid : Nat) (b : Block) : Block :=
  let chunks := (b.press.insts.map fun y => y.2.chunks.length).foldl (· + ·) 0
  let b := groupLoop gid (64 * (chunks + 1)) b
  b.each ((b.press.insts.filter fun y => y.2.group == gid).map fun y => y.1) instCheck

/-- Every group's instances go as far as they can. -/
def pressGoAll (b : Block) : Block := b.each (b.press.groups.map fun g => g.1) pressGo

/-! ### Chunks -/

/-- A node's own data of a chunk has been read (R280, R281): it is contributed, or gathered. The source tiles of
carried data are verified once their packets are made (R29); a mismatch poisons what this node keeps of them
(R307). -/
def ownRead (i k : Nat) (b : Block) : Block :=
  let x := b.inst i
  let b := endUse (.coll i) (2 * k) b
  match groupOf b x.group, chunkOf x k with
  | some g, some c =>
    let b := if c.readBad.isEmpty then b else divergeInst i 3 k b
    let s := sourceRange g x k
    if reduces x.kind then
      let shards := match g.levels.head? with
        | some l => (List.range (g.m l)).map fun j => memberShard g x k l j
        | none => [s]
      let bad := shards.flatMap fun r => badRuns g x c r.1 r.2
      let b := modChunk i k (fun c => { c with phase := .reducing }) b
      stage i k 0 s.1 (carriesIn x.ty x.carry (sourceBytes g x c s.1 s.2) s.2) bad b
    else
      let b := modChunk i k (fun c => { c with phase := .own }) b
      let pieces : List Piece := (cutRuns (packetInput x.ty) s.1 s.2).map fun r =>
        let poison := !(badRuns g x c r.1 r.2).isEmpty
        let bytes := if poison then [] else sourceBytes g x c r.1 r.2
        let va := x.gs.toNat + elemBytes x.ty (bufElem g x false k r.1)
        { first := r.1, count := r.2, bytes, poison
          csum := if !poison ∧ bytes.length = 4096 ∧ !tyMx x.ty ∧ checksummed b x.ctx va 4096 then
            some (BitVec.ofNat 32 (bytesNat (placeBytes c.src c.read (sidecarVa b x.ctx va).toNat 4))) else none }
      let b := b.each pieces fun p b => gatherOut i k (g.shape.length + 1) p b
      let (missed, b) := verifySource i k g c b
      b.each pieces fun p b =>
        if x.kind = kBroadcast ∧ x.gd = x.gs then countResult i k (runBytes x.ty p.count) (p.poison || missed) b
        else writePiece i k { p with poison := p.poison || missed } b
  | _, _ => b

/-- Sidecar words of the checksummed tiles of byte ranges. -/
def sidecarRuns (b : Block) (ctx : Nat) (runs : List (Nat × Nat)) : List (Nat × Nat) :=
  runs.flatMap fun r =>
    (((List.range (r.2 / 4096)).map fun j => r.1 + 4096 * j).filter fun va => checksummed b ctx va 4096).map
      fun va => ((sidecarVa b ctx va).toNat, 4)

/-- The window position of chunk k is free (R283). -/
def windowFree (x : Inst) (g : Group) (k : Nat) : Bool :=
  if k < g.window then true
  else match chunkOf x (k - g.window) with
    | none => true
    | some c => reduces x.kind && c.phase == .own && !(x.accs.any fun a => a.chunk == c.k)

/-- A chunk of an instance before anything is known of it. -/
def newChunk (k : Nat) : CollChunk :=
  { k, phase := .early, read := [], readLeft := 0, readBad := [], contribs := [], sent := [], pend := [], src := [],
    written := 0, expect := 0 }

/-- A chunk takes its place among those of its instance. -/
def openChunk (i k : Nat) (b : Block) : Block :=
  let x := b.inst i
  if (chunkOf x k).isSome then b
  else
    let expect := match groupOf b x.group with
      | some g => runBytes x.ty (resultRange g x k).2
      | none => 0
    b.modInst i fun x => { x with chunks := x.chunks ++ [{ newChunk k with expect }] }

/-- The granules of byte ranges at their places. -/
def placedGrans (rs : List (Nat × Nat × Nat)) : List Nat :=
  (rs.flatMap fun p => granulesOf (p.1 / 64 * 64) (p.1 % 64 + p.2.1)).eraseDups

/-- A chunk starts: its buffers are translated and checked and its own data is read (R283, R286, R287). The use of
the source's translations lasts until it has been read (R366). Of a source that the quarantine list touches, the
quarantined pieces are not read and are poisoned like pieces read with poison, and nothing freezes (R216, Table 6.8;
log 35). -/
def coreCollChunkStart (i : Nat) (b : Block) : Block :=
  let x := b.inst i
  match groupOf b x.group with
  | none => b
  | some g =>
    let k := x.next
    if !instRuns x ∨ x.kind = 7 ∨ x.chunksTotal ≤ k ∨ !windowFree x g k then b
    else
      let (bound, b) := bindInst i b
      if !bound then b
      else
        let s := sourceRange g x k
        let d := if x.kind = kBroadcast ∧ x.gd = x.gs ∧ g.rank = x.root then (0, 0) else resultRange g x k
        let sr := byteRuns g x false k s.1 s.2
        let dr := byteRuns g x true k d.1 d.2
        let sr := sr ++ sidecarRuns b x.ctx sr
        let dr := dr ++ sidecarRuns b x.ctx dr
        match placePages i 0 (pagesOf sr) b with
        | (.ok sp, b) =>
          match placePages i 1 (pagesOf dr) b with
          | (.ok _, b) =>
            let b := openChunk i k b
            let b := b.modInst i fun x => { x with next := x.next + 1 }
            let b := modChunk i k (fun c => { c with src := sp, phase := .reading }) b
            let places := placeRuns sp sr
            let x := b.inst i
            let bad := runsPoison b x 0 places
            let good := places.filter fun r => !bad.contains r
            match runsRefused b x 0 good with
            | some (dctx, st, prot) => collRefused i dctx st prot b
            | none =>
              let badGs := placedGrans bad
              let gs := (placedGrans good).filter fun a => !badGs.contains a
              let b := modChunk i k (fun c => { c with readBad := badGs, readLeft := gs.length }) b
              if places.isEmpty then pressGo x.group (gatherSteps i k (modChunk i k (fun c => { c with phase := .own }) b))
              else if gs.isEmpty then pressGo x.group (ownRead i k b)
              else
                (beginUse (.coll i) (2 * k) x.ctx (b.ctx x.ctx).gen b).each gs fun a b =>
                  memReadIn (runWins b x.ctx 0 x.key good a) (64 * a) hintStream (.collRead i k) b
          | (f, b) => placeFault i 1 f b
        | (f, b) => placeFault i 0 f b

/-- A granule of the node's own contribution is back (R195, R213, R215, Table 6.8). -/
def collGranule (i k addr : Nat) (poison : Bool) (data : Granule) (b : Block) : Block :=
  match chunkOf (b.inst i) k with
  | none => b
  | some c =>
    let b := if poison then quarEnter (64 * addr) b else b
    let b := modChunk i k (fun c =>
      { c with read := tset c.read addr data, readLeft := c.readLeft - 1
               readBad := if poison then c.readBad ++ [addr] else c.readBad }) b
    if c.readLeft = 1 then pressGo (b.inst i).group (ownRead i k b) else b

/-- A result granule is visible: the use of its piece's translations ends with the last of them (R284, R366); an
ended instance leaves when its last write is (R313), but not while its context is frozen (R385). -/
def collVisible (i k bytes use : Nat) (b : Block) : Block :=
  let b := b.modInst i fun x => { x with writes := x.writes - 1 }
  let b := if writesOut b i use then b else endUse (.coll i) use b
  let x := b.inst i
  if x.st = .ending then
    (if x.writes = 0 ∧ (b.ctx x.ctx).st ≠ .frozen then releaseInst i b else b)
  else instCheck i (if bytes = 0 then b else countResult i k bytes false b)

/-- The bytes of a piece of a contribution on the wire: the input format at the first level, the carry
format above (R281). -/
def wireBytes (g : Group) (x : Inst) (c : CollChunk) (ct : Contrib) (first n : Nat) : List Byte :=
  if g.levels.head? = some ct.level then sourceBytes g x c first n
  else wireCarries x.ty x.carry ((ct.vals.drop (first - ct.first)).take n)

/-- A node sends a reduce-scatter piece to a counterpart whose credit it holds, and uses the credit up
(R272, R281). An empty shard is one packet of LENGTH 0. `struck`: the piece is read from press staging with an
uncorrectable cellar error, which poisons it (Table 6.8, cause 1). -/
def coreCollPieceSend (gid : Nat) (sequence : Nat) (k level member : Nat) (struck : Bool) (b : Block) : Block :=
  match instFor b gid sequence with
  | none => b
  | some i =>
    let x := b.inst i
    match groupOf b x.group, chunkOf x k with
    | some g, some c =>
      match c.contribs.find? fun ct => ct.level == level with
      | none => b
      | some ct =>
        let node := g.peer level member
        let cr : Credit := { node, slot := x.sequence % g.slots, pos := k % g.window, level }
        if !instRuns x ∨ !(g.others level).contains member ∨ c.sent.contains (level, member) ∨ !g.credits.contains cr then b
        else
          let b := b.modGroup x.group fun g => { g with credits := g.credits.erase cr }
          let b := modChunk i k (fun c => { c with sent := c.sent ++ [(level, member)] }) b
          let b := if struck then divergeInst i 1 k (cellarHit 1 b) else b
          let s := memberShard g x k level member
          let first := g.levels.head? == some level
          let most := if first then packetInput x.ty else packetCarry x.ty x.carry
          let poison := if struck then [s] else ct.poison
          let parts := (cutRuns most s.1 s.2).flatMap fun r => splitBad poison r.1 r.2
          let parts := if parts.isEmpty then [(s.1, 0, false)] else parts
          let b := b.each parts fun r b =>
            let bytes := wireBytes g x c ct r.1 r.2.1
            instPacket i g node { seq := x.sequence, chunk := k, level, step := 0, elem := r.1, csv := false, low := formatOf x }
              r.2.2 (if r.2.2 then bytes.map fun _ => 0xFF else bytes) b
          pressGo x.group b
    | _, _ => b

/-! ### Arrivals -/

/-- A collective packet is discarded (R275). -/
def collDiscard (b : Block) : Block := { b with press := { b.press with discarded := b.press.discarded + 1 } }

/-- A sequence whose instance has ended here when it is not in the table (R275): this node has started it, or it
ended before that (R313). -/
def seqEnded (g : Group) (s : Nat) : Bool :=
  let d := (BitVec.ofNat 32 g.nextSeq - BitVec.ofNat 32 s).toNat
  decide (1 ≤ d ∧ d ≤ 2 ^ 31) || g.ended.contains s

/-- The elements that a payload of `len` bytes holds in the input format. -/
def elemsIn (ty len : Nat) : Nat := len / runBytes ty (tyBlock ty) * tyBlock ty

/-- A reduce-scatter piece is added into its accumulator, or poisons its range (R273, R309, R310). `cause`
is that of a damaged piece; `hit` of the packet: the accumulator's range is read with an uncorrectable cellar
error. `false`: the press has no permit (R289), or, which R318 says never happens, no index is free. -/
def collPiece (a : Arrival) (gid : Nat) (g : Group) (cause : Option Nat) (b : Block) : Bool × Block :=
  let op := a.op
  let s := bits op 117 86
  let k := bits op 85 68
  let l := bits op 67 64
  let b := if a.hit then cellarHit 1 b else b
  let cause := if a.hit then some 1 else cause
  match g.indexOf l (rSrc a.route) with
  | none => (true, collDiscard b)
  | some j =>
    let known := instFor b gid s
    if known.isNone ∧ seqEnded g s then (true, collDiscard b)
    else if (known.map fun i => (b.inst i).st == .ending).getD false then (true, collDiscard b)
    else if b.press.permit ≠ .held then (false, b)
    else match known.or (freeInst b g.seq) with
    | none => (false, b)
    | some i =>
      let b := if known.isSome then b else
        b.modInst i fun _ => { st := .arrived, group := gid, sequence := s, ctx := g.ctx, seq := g.seq }
      let b := b.modInst i fun x =>
        if x.issued then x else { x with ty := bits op 31 27, op := bits op 26 25, carry := bitAt op 24 }
      let x := b.inst i
      let len := rLen a.route
      let first := g.levels.head? == some l
      let n := if first then elemsIn x.ty len else len / carryBytes x.ty x.carry
      let e := bits op 60 38
      let acc := (accOf x k l).getD { chunk := k, level := l, vals := [], poison := [], pieces := [], own := false, passed := false }
      let bytes := slice a.payload 0 len
      let bad := rPoison a.route || cause.isSome
      let (acc, sat, added) := if bad then ({ acc with poison := acc.poison ++ [(e, n)] }, 0, 0)
        else addVals x e (if first then carriesIn x.ty x.carry bytes n else carriesWire x.ty x.carry bytes n) [] acc
      let had := ((acc.pieces.find? fun p => p.1 == j).map fun p => p.2).getD 0
      let acc := { acc with pieces := (acc.pieces.filter fun p => p.1 != j) ++ [(j, had + n)] }
      let b := putAcc i acc (countSat sat (countElems added b))
      let b := match cause with
        | some c => divergeInst i c k b
        | none => if bad then quietDiverge i b else b
      (true, pressGo gid b)

/-- Gathered data, data for a REDUCE root or BROADCAST data is written, or waits in the press for its translation,
and goes on (R274, R280, R305, Table 11.8). -/
def collData (a : Arrival) (gid : Nat) (g : Group) (cause : Option Nat) (b : Block) : Block :=
  let op := a.op
  let step := bits op 63 61
  let k := bits op 85 68
  let l := bits op 67 64
  match instFor b gid (bits op 117 86) with
  | none => collDiscard b
  | some i =>
    let x := b.inst i
    let from_ := if step = 2 then x.kind == kReduce && g.rank == x.root && g.nodes.contains (rSrc a.route)
      else (if step = 3 then x.kind == kBroadcast else x.kind == kAllReduce || x.kind == kAllGather) &&
        (g.indexOf l (rSrc a.route)).isSome
    if !instRuns x ∨ !from_ ∨ x.chunksTotal ≤ k then collDiscard b
    else
      let b := openChunk i k b
      let len := rLen a.route
      let poison := rPoison a.route || cause.isSome
      let bytes := slice a.payload 0 len
      let e := bits op 60 38
      let csum := if poison then none
        else if step = 2 then tileSum g x k e bytes
        else if bitAt op 37 then some (BitVec.ofNat 32 (bits op 31 0)) else none
      let p : Piece := { first := e, count := elemsIn x.ty len, bytes := if poison then [] else bytes, poison, csum }
      let b := writePiece i k p b
      let b := match cause with
        | some c => divergeInst i c k b
        | none => if poison then quietDiverge i b else b
      pressGo gid (if step = 2 then b else gatherOut i k l p b)

/-- A start grant (R274): what waited for it goes. -/
def takeGrant (gid node s : Nat) (g : Group) (b : Block) : Block :=
  let b := b.modGroup gid fun g => { g with grants := if g.grants.contains (node, s) then g.grants else g.grants ++ [(node, s)] }
  match instFor b gid s with
  | none => b
  | some i =>
    let x := b.inst i
    let b := b.each x.chunks fun c b =>
      let now := c.pend.filter fun t => t.1 == node
      let b := modChunk i c.k (fun c => { c with pend := c.pend.filter fun t => t.1 != node }) b
      b.each now fun t b => sendGather i c.k g t.2.1 (if x.kind = kBroadcast then 3 else 1) t.1 t.2.2 b
    pressGo gid b

/-- A collective packet that has passed checks 1 to 8, or is damaged with a cause of Table 6.8 (R743, R275,
R273). `false`: it waits in its ingress buffer. -/
def collArrive (a : Arrival) (cause : Option Nat) (b : Block) : Bool × Block :=
  let gid := bits a.op 127 118
  match groupOf b gid with
  | none => (true, collDiscard b)
  | some g =>
    let step := bits a.op 63 61
    if (b.ctx g.ctx).part.val ≠ rPart a.route ∨ !ctxServes b g.ctx then (true, collDiscard b)
    else if step = 0 then collPiece a gid g cause b
    else if step ≤ 3 then (true, collData a gid g cause b)
    else
      let s := bits a.op 117 86
      let node := rSrc a.route
      if step = 4 then
        if (g.indexOf (bits a.op 67 64) node).isSome then
          (true, pressGo gid (b.modGroup gid fun g =>
            { g with credits := g.credits ++ [{ node, slot := s, pos := bits a.op 85 68, level := bits a.op 67 64 }] }))
        else (true, collDiscard b)
      else if step = 5 then
        if (instFor b gid s).isNone ∧ seqEnded g s then (true, collDiscard b)
        else if !g.nodes.contains node then (true, collDiscard b)
        else (true, takeGrant gid node s g b)
      else (true, collDiscard b)

/-- The cause of a damaged collective packet that was let through (Table 6.8). -/
def damageOf (a : Arrival) : Option Nat := if a.psn then some 1 else if a.tagOk then none else some 2

/-- Packets waiting for the press are tried again, in order, and leave their ingress buffers when they are
taken. -/
def retryArrivals (b : Block) : Block :=
  Block.each b.press.arrivals (fun a b =>
    match collArrive a (damageOf a) b with
    | (true, b) => releaseIngress a.strait a.id b
    | (false, b) => { b with press := { b.press with arrivals := b.press.arrivals ++ [a] } })
    { b with press := { b.press with arrivals := [] } }

/-- A collective packet arrives; one that must wait stays in its ingress buffer, and a reduction asks for
the permit (R289). -/
def takeColl (a : Arrival) (b : Block) : Block :=
  match collArrive a (damageOf a) b with
  | (true, b) => releaseIngress a.strait a.id b
  | (false, b) =>
    let b := keepIngress a.strait a.id { b with press := { b.press with arrivals := b.press.arrivals ++ [a] } }
    if bits a.op 63 61 = 0 then pressAsk none b else b

/-- The press has its permit (R289): instances and arrivals that waited go on; it returns the units when
nothing is left for it to do (R290). -/
def pressGranted (b : Block) : Block :=
  pressRest (retryArrivals (pressRun { b with press := { b.press with permit := .held } }))

/-- The press may ask again: its token is free (R291). -/
def pressAgain (b : Block) : Block :=
  match b.press.insts.find? fun x => x.2.st == .permitWait with
  | some x => let b := pressAsk (some x.2.seq) b; if b.press.permit = .held then pressGranted b else b
  | none => if b.press.arrivals.any fun a => bits a.op 63 61 == 0 then pressAsk none b else b

/-- The press's request is cancelled once no reduction waits for it: its units come back with the grant (R602). -/
def pressUnask (b : Block) : Block :=
  if b.press.permit = .waiting ∧ !(b.press.insts.any fun x => x.2.st == .permitWait) ∧
      !(b.press.arrivals.any fun a => bits a.op 63 61 == 0) then
    let b' := cancelPermits (fun w => w == .press) { b with press := { b.press with permit := .none, lentBy := none } }
    match b.press.lentBy with
    | some (q, u) => returnLent q u b'
    | none => b'
  else b

/-! ### Credits at the first START (R271) -/

/-- One credit for every slot, window position and reduce-scatter level goes to each counterpart. -/
def firstCredits (q gid : Nat) (b : Block) : Block :=
  match groupOf b gid with
  | none => b
  | some g =>
    let used := (b.seq q).words.any fun w => wOpcode w == 0x20 && bits w 95 86 == gid && reduces (bits w 115 112)
    if !used ∨ g.levels.isEmpty then b
    else match currentSlot b (b.ctx g.ctx).part.val with
      | none => freezeCtx g.ctx 6 .keyRetired 0xFF q 0 b
      | some slot =>
        b.each g.levels fun l b => b.each (g.others l) fun j b => b.each (List.range g.slots) fun s b =>
          b.each (List.range g.window) fun w b =>
            collPacket g.ctx gid g.cls slot .none (g.peer l j)
              { seq := s, chunk := w, level := l, step := 4, elem := 0, csv := false, low := 0 } false [] b

/-! ### COLL issues -/

/-- A group is blocked (R312). -/
def groupBlocked (b : Block) (g : Nat) : Bool := bitAt (tget 0 b.press.blocked (g / 64)) (g % 64)

/-- A byte range is 4 KiB aligned and holds whole tiles. -/
def tiled (r : Nat × Nat) : Bool := r.1 % 4096 == 0 && r.2 % 4096 == 0

/-- R304 holds for a COLL: its ranges, and every shard or chunk that this node owns or sends; of an MX type, its
elements and its scales alike. -/
def collTiled (b : Block) (g : Group) (x : Inst) : Bool :=
  let whole (dst : Bool) : Nat × Nat := ((if dst then x.gd else x.gs).toNat, bufBytes x.ty (bufTotal g x dst))
  let ranges := (if x.kind = kBroadcast ∧ g.rank ≠ x.root then [] else [whole false]) ++
    (if x.kind = kReduce ∧ g.rank ≠ x.root then [] else [whole true])
  if !(ranges.any fun r => checksummed b x.ctx r.1 r.2) then true
  else
    (ranges.all fun r => !checksummed b x.ctx r.1 r.2 || tiled r) &&
      (List.range x.chunksTotal).all fun k =>
        let s := if x.kind = kBroadcast then (0, chunkN g x k) else finalShard g x k
        (byteRuns g x true k s.1 s.2).all fun r => (r.1 - x.gd.toNat) % 4096 == 0 && r.2 % 4096 == 0

/-- The instance takes its place in the table under the group's next sequence (R152, R318). -/
def newInst (q pc gid : Nat) (g : Group) (x : Inst) (b : Block) : Nat × Block :=
  let s := g.nextSeq
  let old := instFor b gid s
  let i := (old.or (freeInst b q)).getD 0
  let o := b.inst i
  let b := b.modGroup gid fun g => { g with nextSeq := (s + 1) % 2 ^ 32, ended := g.ended.filter fun t => t != s }
  (i, b.modInst i fun _ =>
    { x with group := gid, sequence := s, ctx := g.ctx, seq := q, pc := BitVec.ofNat 11 pc, issued := true
             accs := o.accs, errored := o.errored, facc := o.facc, fpoison := o.fpoison, fups := o.fups
             fdown := o.fdown, ffailed := o.ffailed })

/-- An instance of a blocked group ends at once with its whole count errored (R314). -/
def endBlocked (i : Nat) (b : Block) : Block :=
  endInst i (b.modInst i fun x => { x with st := .running, errored := true })

/-- What a COLL asks for, with what its group adds: chunks, result bytes, context. -/
def collShape (g : Group) (x : Inst) : Inst :=
  { x with chunksTotal := chunksOf g x.kind x.ty x.count, rtLeft := resultBytes g x, ctx := g.ctx }

/-- A COLL that R304 refuses faults as its word issues, takes no instance, and freezes its context; SOURCE is the
index that it would have taken (R115, Table 9.2; log 36). -/
def collFault (q pc gid : Nat) (g : Group) (b : Block) : Block :=
  let i := ((instFor b gid g.nextSeq).or (freeInst b q)).getD 0
  freezeCtx g.ctx 8 .access (i % 64) q pc (recordFault q pc .access b)

/-- A COLL issues (R152, R154, R274, R289, R314). -/
def collIssue (q pc gid : Nat) (x : Inst) (b : Block) : Block :=
  match groupOf b gid with
  | none => b
  | some g =>
    let (i, b) := newInst q pc gid g (collShape g x) b
    let x := b.inst i
    let b := traceEvent 7 i (w64 x.count) (w64 (gid * 2 ^ 32 + x.sequence)) q x.ctx 0 pc b
    if groupBlocked b gid then endBlocked i b
    else if reduces x.kind then
      let b := pressAsk (some q) (b.modInst i fun x => { x with st := .permitWait })
      pressRun b
    else
      let (bound, b) := bindInst i (b.modInst i fun x => { x with st := if x.errored then .diverged else .running })
      if !bound then b
      else
        let root := pathOf g.shape x.root
        let peers :=
          if x.kind = kAllGather then g.levels.flatMap fun l => (g.others l).map fun j => (l, g.peer l j)
          else match g.levels.find? fun l => g.i l != root.getD (l - 1) 0 with
            | some l => [(l, g.peer l (root.getD (l - 1) 0))]
            | none => []
        b.each peers fun t b =>
          instPacket i g t.2 { seq := x.sequence, chunk := 0, level := t.1, step := 5, elem := 0, csv := false, low := 0 }
            false [] b

end Sys2Proof.Machine
end

