-- ==== Sys2Proof/Machine/Ferry.lean ====
section
/-!
DEFINITION. The ferry (07_ferry.md): its tree (R325, R326), cells and the two planes (R320 to R324, R332,
R338), accumulation and results (R327 to R330, R342), arrivals and their failures (R333, R334, R339 to
R341), and forwarding in a torus (R335).
-/

namespace Sys2Proof.Machine

/-! ### The tree (R325, R326) -/

/-- λ: the largest level up to which this node's indices are 0, counting levels that are not skipped. -/
def Group.lambda (g : Group) : Nat :=
  ((g.levels.takeWhile fun l => g.i l == 0).getLast?).getD 0

/-- The levels at which this node roots a subtree. -/
def Group.roots (g : Group) : List Nat := g.levels.takeWhile fun l => g.i l == 0

/-- The level at which this node is a child, unless it is the root of the tree. -/
def Group.childLevel (g : Group) : Option Nat := g.levels.find? fun l => g.i l != 0

/-- The parent of this node. -/
def Group.parent (g : Group) : Option Nat := g.childLevel.map fun l => g.peer l 0

/-- The children of this node, with their indices at the level of the edge. -/
def Group.children (g : Group) : List (Nat × Nat) :=
  g.roots.flatMap fun l => (g.others l).map fun j => (g.peer l j, j)

/-! ### Cells onto straits -/

/-- The straits of either mask of a destination under a bank, eligible (R332). -/
def cellStraits (b : Block) (bank dst : Nat) : List Nat :=
  let (prim, spill) := routeMasks b bank dst 0
  (List.range 32).filter fun n => (prim.contains n || spill.contains n) && eligible b n

/-- The straits of a plane's mask for a copy. -/
def planeStraits (b : Block) (bank dst : Nat) (copy : Bool) : List Nat :=
  (cellStraits b bank dst).filter fun n => bitAt (if copy then b.ferry.planeB else b.ferry.planeA) n

/-- A strait is awake. -/
def awake (b : Block) (n : Nat) : Bool := (b.strait n).st == .up

/-- The strait of a copy by position in its own plane (R332), or another awake one of the plane when that
one sleeps (R338): the lowest-numbered, which no rule says (log 93). -/
def inPlane (b : Block) (ns : List Nat) (index : Nat) : Option Nat :=
  match ns[index % ns.length]? with
  | none => none
  | some n => if awake b n then some n else some ((ns.find? (awake b)).getD n)

/-- The strait for a copy of a cell (R332): in its plane, else the lowest-numbered eligible strait that the
other copy does not use, else the only one. -/
def cellStrait (b : Block) (bank dst index : Nat) (copy : Bool) : Option Nat :=
  let all := cellStraits b bank dst
  match inPlane b (planeStraits b bank dst copy) index with
  | some n => some n
  | none =>
    let other := match inPlane b (planeStraits b bank dst (!copy)) index with
      | some n => some n
      | none => if copy then all.head? else none
    match all.find? fun n => other != some n with
    | some n => some n
    | none => all.head?

/-- A cell joins the VC0 line of a strait, which wakes if it sleeps (R336, R338). -/
def pushCell (n : Nat) (c : Cell) (b : Block) : Block :=
  wakeStraits [n] (b.modEg n fun e => { e with cells := e.cells ++ [c] })

/-- One copy of a cell of this node goes onto its strait under the epoch of injection, which its tag covers, or waits
until one is eligible; then the planes and the epoch as they stand when it is placed choose its strait (log 93). A copy
whose key has been zeroised is not sent (R401). -/
def placeCell (w : CellWait) (b : Block) : Block :=
  let keep (b : Block) : Block := { b with ferry := { b.ferry with waiting := b.ferry.waiting ++ [w] } }
  match injectEpoch b with
  | none => keep b
  | some bank =>
    match cellStrait b bank (cDst w.cell.hdr) w.index (cCopy w.cell.hdr) with
    | none => keep b
    | some n =>
      if (b.slot w.slot).st == .empty then b
      else pushCell n (sealCell (b.slot w.slot).key { w.cell with hdr := setQuad w.cell.hdr 55 55 bank }) b

/-- Copies that wait for an eligible strait are tried again. -/
def retryCells (b : Block) : Block :=
  Block.each b.ferry.waiting placeCell { b with ferry := { b.ferry with waiting := [] } }

/-- The cell counter of a slot is exhausted (R323). -/
def cellsSpent (b : Block) (k : Nat) : Bool := decide (2 ^ 48 - 1 ≤ (b.slot k).cells)

/-- The slot's cell counter for one cell, and the counter advanced; at 2^47 the slot's bit is set in
FERRY.NONCE_HIGH and an event raised (R322, R323). -/
def takeCellNonce (k : Nat) (b : Block) : Nat × Block :=
  let n := (b.slot k).cells
  let b := b.modSlot k fun s => { s with cells := n + 1 }
  if n + 1 = 2 ^ 47 then
    (n, raiseEvent 0x0C 0 0xFF k 0 0 { b with ferry := { b.ferry with nonceHigh := setBit b.ferry.nonceHigh k } })
  else (n, b)

/-- The header of a cell of an instance (Table 7.1). -/
def cellHdr (b : Block) (x : Inst) (kind dst nonce : Nat) (poison : Bool) (copy : Bool) : Quad :=
  let part := (b.ctx x.ctx).part.val
  quad [(126, kind), (123, x.op), (121, x.ty), (119, x.fn - 1), (118, poison.toNat), (116, part),
    (103, b.route.self.toNat), (90, dst), (80, x.group), (64, x.sequence % 2 ^ 16),
    (56, slotKeyId b (x.key.getD 0)), (54, copy.toNat), (0, nonce)]

/-- Payload of a poisoned cell. -/
def ones256 : BitVec 256 := ~~~0

/-- A cell of an instance is encrypted once and goes out as copies A and B (R322, R332). With its counter
exhausted it is not sent and the instance diverges with cause 9, once for each cell unsent (R323; log 93). A
poisoned BARRIER cell has the payload of Table 7.1's POISON field, all ones (log 93). -/
def sendCellTo (i kind dst index : Nat) (b : Block) : Block :=
  let x := b.inst i
  let k := x.key.getD 0
  if cellsSpent b k then divergeInst i 9 0 (b.modInst i fun x => { x with fpoison := true })
  else
    let (nonce, b) := takeCellNonce k b
    let cell (copy : Bool) : Cell :=
      { hdr := cellHdr b x kind dst nonce x.fpoison copy, payload := if x.fpoison then ones256 else x.facc }
    placeCell { cell := cell true, index, slot := k } (placeCell { cell := cell false, index, slot := k } b)

/-! ### Results -/

/-- BARRIER. -/
def opBarrier : Nat := 6

/-- A DOWN cell of an instance has not left this node's egress. -/
def cellsLeft (b : Block) (x : Inst) : Bool :=
  let mine (c : Cell) : Bool :=
    cKind c.hdr == 1 && cSrc c.hdr == b.route.self.toNat && cGroup c.hdr == x.group && cSeqLow c.hdr == x.sequence % 2 ^ 16
  (b.ferry.waiting.any fun w => mine w.cell) || b.egress.any fun e => e.2.cells.any mine

/-- A ferry instance whose result is counted and whose DOWN cells are sent leaves the table (R328). -/
def ferryCheck (i : Nat) (b : Block) : Block :=
  let x := b.inst i
  if x.kind = 7 ∧ instRuns x ∧ x.fdone ∧ x.writes = 0 ∧ !cellsLeft b x then releaseInst i b else b

/-- RT goes up by 1 (R156, R157, R342). -/
def ferryCount (i : Nat) (err : Bool) (b : Block) : Block :=
  let x := b.inst i
  ferryCheck i (enqueueIncr { ctx := x.ctx, idx := x.rt, amount := 1, err, part := some (b.ctx x.ctx).part.val, seq := some x.seq }
    (b.modInst i fun x => { x with fdone := true, rtLeft := 0 }))

/-- The result is written at the address in GD (R156, R287, R342). A translation that waits is tried again
when its walk ends. -/
def ferryWrite (i : Nat) (b : Block) : Block :=
  let x := b.inst i
  if !instRuns x ∨ !x.fdown ∨ x.fdone ∨ x.writes ≠ 0 then b
  else if x.fpoison then ferryCount i true b
  else if x.op = opBarrier then ferryCount i false b
  else match translate 4 x.ctx x.gd 1 (.ferry i) b with
    | (.wait, b) => b
    | (.bad cause, b) => xlatFault x.ctx x.gd 1 cause 4 19 x.seq x.pc.toNat b
    | (.ok t, b) =>
      if t.node ≠ b.route.self.toNat then freezeCtx x.ctx 8 .access (i % 64) x.seq x.pc.toNat b
      else match runsRefused b x 1 [(t.off, 8 * x.fn, t.dctx)] with
        | some (dctx, st, prot) => collRefused i dctx st prot b
        | none =>
          let b := beginUse (.ferry i) 0 x.ctx (b.ctx x.ctx).gen (b.modInst i fun x => { x with writes := 1 })
          memWriteIn (runWins b x.ctx 1 x.key [(t.off, 8 * x.fn, t.dctx)] (t.off / 64)) t.off hintKeep (maskOf (t.off % 64) (8 * x.fn))
            (granOf (t.off % 64) (natBytes (8 * x.fn) x.facc.toNat)) (.ferryWrite i) b

/-- The node has its result: DOWN cells to its children, and the result to GD (R328, R329). -/
def ferryResult (i : Nat) (b : Block) : Block :=
  let x := b.inst i
  match groupOf b x.group with
  | none => b
  | some g =>
    let b := b.modInst i fun x => { x with fdown := true }
    ferryWrite i (b.each g.children fun c b => sendCellTo i 1 c.1 c.2 b)

/-- A cell from every child has been accepted: the UP cell goes to the parent, or the root has its result
(R327). -/
def ferryGo (i : Nat) (b : Block) : Block :=
  let x := b.inst i
  match groupOf b x.group with
  | none => b
  | some g =>
    if !instRuns x ∨ x.fsent ∨ !(g.children.all fun c => x.fups.contains c.1) then b
    else
      let b := b.modInst i fun x => { x with fsent := true }
      match g.childLevel with
      | some l => sendCellTo i 0 (g.peer l 0) (g.i l) b
      | none => ferryResult i b

/-- A payload is added into the accumulator; the first one meets the identity (R273, R327, R330). -/
def ferryAdd (i : Nat) (v : BitVec 256) (b : Block) : Block :=
  b.modInst i fun x => if x.op = opBarrier then x else { x with facc := ferryCombine x.op x.ty x.fn x.facc v }

/-- A FERRY issues (R152, R155, R314, R324). -/
def ferryIssue (q pc gid op ty n : Nat) (v : BitVec 256) (gd : Word) (rt : Nat) (b : Block) : Block :=
  match groupOf b gid with
  | none => b
  | some g =>
    let old := instFor b gid g.nextSeq
    let x : Inst := { kind := 7, op, ty, fn := n, gd, rt, rtLeft := 1, key := none }
    let (i, b) := newInst q pc gid g x b
    let b := if old.isSome then b else b.modInst i fun x => { x with facc := ferryIdentity op ty n }
    let x := b.inst i
    let b := traceEvent 9 i (w64 (8 * n)) (w64 (gid * 2 ^ 32 + x.sequence)) q x.ctx 0 pc b
    if groupBlocked b gid then endBlocked i b
    else
      let (bound, b) := bindInst i (b.modInst i fun x => { x with st := if x.errored then .diverged else .running })
      if bound then ferryGo i (ferryAdd i v b) else b

/-! ### Arrivals -/

/-- The instance that a cell names, if this node holds it (R320). -/
def cellInst (b : Block) (h : Quad) : Option Nat :=
  (b.press.insts.find? fun x => x.2.st != .free && x.2.group == cGroup h && x.2.sequence % 2 ^ 16 == cSeqLow h).map fun x => x.1

/-- A cell comes from the tree neighbour that its KIND names. -/
def fromNeighbour (g : Group) (h : Quad) : Bool :=
  if cKind h = 0 then g.children.any fun c => c.1 == cSrc h else g.parent == some (cSrc h)

/-- The slot that decrypts a cell (R324, R396). -/
def cellSlot (b : Block) (h : Quad) : Option Nat := matchSlot b false (cVintage h) (cPart h)

/-- A stranger (R410): kind 0 tag check failed, 1 no matching slot, 2 source not a member. -/
def countStranger (kind part src : Nat) (b : Block) : Block :=
  { b with keys := { b.keys with
    strangers := tmod 0 b.keys.strangers kind (· + 1)
    lastKind := BitVec.ofNat 2 kind, lastPart := BitVec.ofNat 2 part, lastNode := BitVec.ofNat 13 src } }

/-- A stranger among cells (R340, R410). -/
def cellStranger (kind : Nat) (h : Quad) (b : Block) : Block :=
  countStranger kind (cPart h) (cSrc h) { b with ferry := { b.ferry with strangers := b.ferry.strangers + 1 } }

/-- This side of the tree has had a cell of this KIND from this node (R333). -/
def hadCell (x : Inst) (h : Quad) : Bool := if cKind h = 0 then x.fups.contains (cSrc h) else x.fdown

/-- A cell is accepted: combined, or taken as the result (R327, R328, R342). `poison`: it carries poison, or
both its copies failed. -/
def acceptCell (i : Nat) (h : Quad) (v : BitVec 256) (poison : Bool) (b : Block) : Block :=
  if cKind h = 0 then
    let b := b.modInst i fun x => { x with fups := x.fups ++ [cSrc h] }
    ferryGo i (if poison then b.modInst i fun x => { x with fpoison := true } else ferryAdd i v b)
  else ferryResult i (b.modInst i fun x => if poison then { x with fpoison := true } else { x with facc := v })

/-- A copy from a neighbour fails for an instance that this node holds: the other copy is awaited; with
both lost the instance diverges with cause 7 (R339, R341). -/
def copyFailed (i : Nat) (h : Quad) (b : Block) : Block :=
  let b := { b with ferry := { b.ferry with copyFailed := b.ferry.copyFailed + 1 } }
  let x := b.inst i
  if hadCell x h then b
  else if x.ffailed.contains (cSrc h, cKind h) then acceptCell i h 0 true (divergeInst i 7 0 b)
  else b.modInst i fun x => { x with ffailed := x.ffailed ++ [(cSrc h, cKind h)] }

/-- An instance created by an arrival (R273, R318); none where no index of the reservation is free, which R318 says
never happens. -/
def cellArrived (gid : Nat) (g : Group) (h : Quad) (b : Block) : Option Nat × Block :=
  let low := BitVec.ofNat 16 (cSeqLow h) - BitVec.ofNat 16 g.nextSeq
  let n := cNm1 h + 1
  match freeInst b g.seq with
  | none => (none, b)
  | some i =>
    (some i, b.modInst i fun _ =>
      { st := .arrived, group := gid, sequence := (g.nextSeq + low.toNat) % 2 ^ 32, ctx := g.ctx, seq := g.seq, kind := 7
        op := cOp h, ty := cType h, fn := n, facc := ferryIdentity (cOp h) (cType h) n })

/-- An uncorrectable error of the ferry store strikes an instance as a cell is taken in (Table 7.4, cause 8). -/
def storeStruck (i : Nat) (b : Block) : Block := divergeInst i 8 0 (b.modInst i fun x => { x with fpoison := true })

/-- A cell whose instance has ended (R334, R313). -/
def cellEnded (g : Group) (h : Quad) : Bool :=
  let d := (BitVec.ofNat 16 g.nextSeq - BitVec.ofNat 16 (cSeqLow h)).toNat
  decide (1 ≤ d ∧ d ≤ 2 ^ 15) || g.ended.any fun s => s % 2 ^ 16 == cSeqLow h

/-- A copy that passes the checks is counted and accepted for instance i (R333, R342, Table 7.4). -/
def cellIn (i : Nat) (c : CellIn) (b : Block) : Block :=
  let b := { b with ferry := { b.ferry with cellsIn := b.ferry.cellsIn + 1 } }
  let b := if c.store then storeStruck i b else b
  acceptCell i c.hdr c.payload (cPoison c.hdr) (if cPoison c.hdr then quietDiverge i b else b)

/-- A cell for this node (R333, R334, R339, R340, R743; membership R411). A failed copy for an instance that is
ENDING, and a copy that only a cellar error strikes and that no held instance awaits, count as strangers of kind 0
(log 93). -/
def cellHere (c : CellIn) (b : Block) : Block :=
  let h := c.hdr
  let failed := !c.tagOk || c.cellarError
  if !isMember b (cPart h) (cSrc h) then cellStranger 2 h b
  else if (cellSlot b h).isNone then cellStranger 1 h b
  else
    match groupOf b (cGroup h) with
    | none => if failed then cellStranger 0 h b else collDiscard (matchCell true c.strait h c.phy b)
    | some g =>
      let known := cellInst b h
      if failed then
        match known with
        | some i => if fromNeighbour g h ∧ (b.inst i).st ≠ .ending then copyFailed i h b else cellStranger 0 h b
        | none => cellStranger 0 h b
      else
        let b := matchCell true c.strait h c.phy b
        if (b.ctx g.ctx).part.val ≠ cPart h ∨ !ctxServes b g.ctx ∨ !fromNeighbour g h then collDiscard b
        else match known with
          | some i =>
            let x := b.inst i
            if x.st = .ending ∨ (cKind h = 1 ∧ !instRuns x) then collDiscard b
            else if hadCell x h then { b with ferry := { b.ferry with duplicates := b.ferry.duplicates + 1 } }
            else cellIn i c b
          | none =>
            if cellEnded g h ∨ cKind h = 1 then collDiscard b
            else match cellArrived (cGroup h) g h b with
              | (some i, b) => cellIn i c b
              | (none, b) => collDiscard b

/-- A stale packet or cell (R520). -/
def staleArrival (src : Nat) (epoch : Bool) (b : Block) : Block :=
  { b with route := { b.route with
    staleEpoch := b.route.staleEpoch + 1, staleBit := epoch, staleNode := BitVec.ofNat 13 src } }

/-- A cell goes on through this node of a torus, unchanged (R335); the copies part where two straits are
offered. -/
def forwardCell (c : CellIn) (bank : Nat) (b : Block) : Block :=
  let ns := (cellStraits b bank (cDst c.hdr))
  match (if cCopy c.hdr then (ns.drop 1).head?.or ns.head? else ns.head?) with
  | some n => pushCell n c.raw { b with route := { b.route with forwarded := b.route.forwarded + 1 } }
  | none => { b with route := { b.route with unreachable := b.route.unreachable + 1 } }

/-- A ferry cell is taken from the ingress buffer (Table 11.7, as cells follow it; R335). One that a cellar error strikes
is not sent on: its one flit is a HEAD flit (R458). -/
def takeCell (c : CellIn) (b : Block) : Block :=
  let h := c.hdr
  let bank := (cEpoch h).toNat
  let b := releaseIngress c.strait c.id b
  let b := if c.cellarError then cellarHit 0 b else b
  if (b.bank bank).st = .opened then staleArrival (cSrc h) (cEpoch h) b
  else if cDst h = b.route.self.toNat then cellHere c b
  else if c.cellarError then headPoisoned c.strait 0 b
  else if (b.bank bank).torus then forwardCell c bank b
  else { b with route := { b.route with misdelivered := b.route.misdelivered + 1 } }

/-- The oldest packet of a VC in a strait's ingress buffer that has not been taken. -/
def nextIn (b : Block) (n v : Nat) : Option InPkt := (b.strait n).ingress.find? fun p => p.vc.val == v && !p.taken

/-- The cell that is next on a strait, decrypted under the slot that it names (R321, R324). -/
def cellOf (b : Block) (n : StraitId) (hit store : Bool) : Option CellIn :=
  (nextIn b n 0).map fun p =>
    let bs := natBytes 64 (p.flits.headD (0, false)).1.toNat
    let raw : Cell :=
      { hdr := p.route, payload := BitVec.ofNat 256 (bytesNat (slice bs 16 32)), tag := BitVec.ofNat 128 (bytesNat (slice bs 48 16)) }
    let text := match cellSlot b p.route with
      | some k => openCell (b.slot k).key raw
      | none => (raw.payload, false)
    { strait := n, id := p.id, raw, hdr := p.route, payload := text.1, tagOk := text.2, cellarError := hit, phy := p.phy, store }

/-- A cell of a KIND is taken; the command of the other KIND says nothing of it. -/
def coreFerryCell (kind : Nat) (n : StraitId) (hit store : Bool) (b : Block) : Block :=
  match cellOf b n hit store with
  | some c => if cKind c.hdr = kind then takeCell c b else b
  | none => b

/-- FERRY_CELL_UP. -/
def coreFerryCellUp (n : StraitId) (hit store : Bool) (b : Block) : Block := coreFerryCell 0 n hit store b

/-- FERRY_CELL_DOWN. -/
def coreFerryCellDown (n : StraitId) (hit store : Bool) (b : Block) : Block := coreFerryCell 1 n hit store b

/-- The result is visible (R328, R366). -/
def ferryVisible (i : Nat) (b : Block) : Block :=
  let x := b.inst i
  let b := endUse (.ferry i) 0 (b.modInst i fun x => { x with writes := 0 })
  if x.st = .ending then (if (b.ctx x.ctx).st = .frozen then b else releaseInst i b)
  else ferryCount i false b

/-- Instances that wait for nothing but their packets or cells to leave are looked at again. -/
def instSweep (b : Block) : Block :=
  b.each (b.press.insts.map fun x => x.1) fun i b => ferryCheck i (instCheck i b)

end Sys2Proof.Machine
end

