-- ==== Sys2Proof/Machine/Regs.lean ====
section
/-!
DEFINITION. The register window (18_register_map.md Table 18.1): the register at an offset (R714, R715),
its clock domain (R716), and what a read of it returns (R14, R609, R683).
-/

namespace Sys2Proof.Machine

/-- A register: its block or instance, and its offset there (Table 18.1). `glob` holds 0x1000 to 0x1FFF, `chart`
the scheduler registers of a strait and its tide registers (Table 13.10), `tideEntry` an admin or operating
entry. -/
inductive Reg where
  | ident (o : Nat)
  | glob (o : Nat)
  | members (p w : Nat)
  | strait (n o : Nat)
  | route (k node : Nat)
  | ctx (c o : Nat)
  | seq (q o : Nat)
  | rack (e o : Nat)
  | press (o : Nat)
  | inst (i o : Nat)
  | ferry (o : Nat)
  | xlat (o : Nat)
  | inv (a o : Nat)
  | xctx (c o : Nat)
  | harb (c w : Nat) (limit : Bool)
  | sched (o : Nat)
  | queue (q o : Nat)
  | meter (m o : Nat)
  | chart (n o : Nat)
  | tideEntry (n : Nat) (oper : Bool) (e : Nat)
  | thief (o : Nat)
  | watch (w o : Nat)
  | compat (k o : Nat)
  | list (i : Nat)
  | utilS (n o : Nat)
  | util (o : Nat)
  | pwr (o : Nat)
  | rst (o : Nat)
  | sec (o : Nat)
  | tally (c n : Nat)
  | lees (o : Nat)
  | none
  deriving DecidableEq, Repr

/-- The register at an 8 B offset of the window (Table 18.1). -/
def Reg.ofOffset (a : Nat) : Reg :=
  if a < 0x1000 then .ident a
  else if a < 0x2000 then .glob (a - 0x1000)
  else if a < 0x4000 then .none
  else if a < 0x5000 then .members ((a - 0x4000) / 0x400) ((a - 0x4000) % 0x400 / 8)
  else if a < 0x10000 then .none
  else if a < 0x20000 then .strait ((a - 0x10000) / 0x800) (a % 0x800)
  else if a < 0x40000 then .route ((a - 0x20000) / 0x10000) (a % 0x10000 / 8)
  else if a < 0x50000 then .ctx ((a - 0x40000) / 0x1000) (a % 0x1000)
  else if a < 0x60000 then .seq ((a - 0x50000) / 0x400) (a % 0x400)
  else if a < 0x64000 then .rack ((a - 0x60000) / 0x400) (a % 0x400)
  else if a < 0x66000 then .press (a - 0x64000)
  else if a < 0x68000 then .inst ((a - 0x66000) / 0x20) (a % 0x20)
  else if a < 0x70000 then .ferry (a - 0x68000)
  else if a < 0x70400 then .xlat (a - 0x70000)
  else if a < 0x70500 then .inv ((a - 0x70400) / 0x40) (a % 0x40)
  else if a < 0x71000 then .none
  else if a < 0x72000 then .xctx ((a - 0x71000) / 0x100) (a % 0x100)
  else if a < 0x74000 then .none
  else if a < 0x78000 then .harb ((a - 0x74000) / 0x400) (a % 0x400 / 0x10) (a % 0x10 == 8)
  else if a < 0x80000 then .none
  else if a < 0x80400 then .sched (a - 0x80000)
  else if a < 0x80400 + 133 * 0x10 then .queue ((a - 0x80400) / 0x10) (a % 0x10)
  else if a < 0x81000 then .none
  else if a < 0x82000 then .meter ((a - 0x81000) / 0x40) (a % 0x40)
  else if a < 0x84000 then .chart ((a - 0x82000) / 0x100) (a % 0x100)
  else if a < 0x8C000 then .tideEntry ((a - 0x84000) / 0x400) (a % 0x400 / 0x200 == 1) (a % 0x200 / 8)
  else if a < 0x90000 then .none
  else if a < 0x90100 then .thief (a - 0x90000)
  else if a < 0x90500 then .watch ((a - 0x90100) / 0x10) (a % 0x10)
  else if a < 0x90800 then .none
  else if a < 0x91000 then .compat ((a - 0x90800) / 0x100) (a % 0x100)
  else if a < 0x91200 then .list ((a - 0x91000) / 8)
  else if a < 0x92000 then .none
  else if a < 0x92800 then .utilS ((a - 0x92000) / 0x40) (a % 0x40)
  else if a < 0x93000 then .none
  else if a < 0xA0000 then .util (a - 0x93000)
  else if a < 0xB0000 then .pwr (a - 0xA0000)
  else if a < 0xC0000 then .rst (a - 0xB0000)
  else if a < 0xD0000 then .sec (a - 0xC0000)
  else if a < 0x100000 then .none
  else if a < 0x180000 then .tally ((a - 0x100000) / 0x8000) (a % 0x8000 / 8)
  else if a < 0x200000 then .none
  else if a < 0x400000 then .lees (a - 0x200000)
  else .none

/-- A register of the datapath domain (Table 18.1). -/
def Reg.dp : Reg → Bool
  | .ident _ | .tideEntry .. | .utilS .. | .util _ | .pwr _ | .rst _ | .lees _ | .none => false
  | .glob o => (decide (0x100 ≤ o) && decide (o < 0x120)) || (decide (0x200 ≤ o) && decide (o < 0x300))
  | .chart _ o => decide (o < 0x60)
  | _ => true

/-! ### Codes -/

/-- STATE of Table 2.3. -/
def SeqSt.code : SeqSt → Nat
  | .idle => 0 | .loading => 1 | .loaded => 2 | .running => 3 | .waiting => 4 | .halted => 5 | .frozen => 6
/-- STATE of Table 9.1. -/
def CtxSt.code : CtxSt → Nat
  | .unbound => 0 | .running => 1 | .frozen => 2 | .resetting => 3
/-- STATE of Table 5.2. -/
def RackSt.code : RackSt → Nat
  | .idle => 0 | .permitWait => 1 | .running => 2 | .draining => 3
/-- STATE of Table 6.10. -/
def InstSt.code : InstSt → Nat
  | .free => 0 | .permitWait => 1 | .running => 2 | .diverged => 3 | .ending => 4 | .arrived => 5
/-- STATE of Table 9.9. -/
def KeySt.code : KeySt → Nat
  | .empty => 0 | .staged => 1 | .current => 2 | .previous => 3 | .weight => 4
/-- STATE of Table 11.12. -/
def BankSt.code : BankSt → Nat
  | .opened => 0 | .ready => 1 | .current => 2 | .old => 3
/-- DP_STATE of R590. -/
def DpState.code : DpState → Nat
  | .stopped => 0 | .starting => 1 | .running => 2
/-- ROLE of Table 16.12. -/
def Role.code : Role → Nat
  | .booting => 0 | .active => 1 | .standby => 2 | .failed => 3
/-- B_STATE of Table 16.12. -/
def BSlot.code : BSlot → Nat
  | .empty => 0 | .staging => 1 | .staged => 2 | .bad => 3 | .booting => 4

/-! ### Reads by block -/

/-- The group-slot region in KiB (Tables 1.3 and 2.10, R446). -/
def regionKib (b : Block) : Nat :=
  40960 - ((List.range 32).map fun n => clsKib (b.strait n).cls).foldl (· + ·) 0

/-- Group-slot bytes that loaded programs have reserved (R69). -/
def slotsReserved (b : Block) : Nat := ((List.range 64).map fun q => (b.seq q).slotBytes).foldl (· + ·) 0

/-- Tables 2.10 and 18.2. -/
def readIdent (b : Block) (o : Nat) : Word :=
  match o with
  | 0x00 => word [(48, 0x7E20), (32, 0xD103), (16, 0x00A0), (8, 6)]
  | 0x10 => word [(32, 4), (24, 16), (16, 16), (8, 64), (0, 3)]
  | 0x18 => word [(48, 2048), (32, 4096), (16, 256), (0, 1024)]
  | 0x20 => word [(32, regionKib b - slotsReserved b / 1024), (0, regionKib b)]
  | 0x28 => 0xFF
  | 0x30 => word [(48, 16), (40, 32), (32, 64), (24, 64), (16, 64), (8, 8), (0, 13)]
  | 0x38 => word [(48, 16384), (32, 2048), (0, 49152)]
  | _ => 0

/-- CTX[c].STATE (Table 9.7). -/
def ctxStateWord (x : CtxRec) : Word := word [(8, x.incarnation.toNat), (0, x.st.code)]

/-- GLOBAL.STRANGER_LAST (Table 9.8). -/
def strangerLast (b : Block) : Word :=
  word [(16, b.keys.lastKind.toNat), (13, b.keys.lastPart.toNat), (0, b.keys.lastNode.toNat)]

/-- ROUTE.STALE_LAST (Table 11.13). -/
def staleLast (b : Block) : Word := word [(13, b.route.staleBit.toNat), (0, b.route.staleNode.toNat)]

/-- Route bank registers (Table 11.13). -/
def readBank (b : Block) (k o : Nat) : Word :=
  let x := b.bank k
  match o with
  | 0x00 => word [(32, drainCount b k), (8, x.torus.toNat), (0, x.st.code)]
  | 0x08 => word [(0, x.dateline.toNat)]
  | 0x10 => x.dims
  | 0x18 => x.arrivals
  | _ => 0

/-- Registers from 0x1000 (Tables 17.17, 18.3, 9.8, 11.13, 12.7, 17.4). -/
def readGlob (b : Block) (o : Nat) : Word :=
  if 0x220 ≤ o ∧ o < 0x260 then readBank b ((o - 0x220) / 0x20) (o % 0x20)
  else match o with
  | 0x000 => b.evt.ringBase
  | 0x008 => word [(0, b.evt.log2.toNat)]
  | 0x010 => word [(0, b.evt.head.toNat)]
  | 0x018 => word [(0, b.evt.tail.toNat)]
  | 0x020 => word [(8, b.evt.completeVec.toNat), (4, b.evt.faultVec.toNat), (0, b.evt.enable.toNat)]
  | 0x028 => word [(0, b.evt.moderation.toNat)]
  | 0x030 => b.evt.dropped
  | 0x038 => b.evt.ctlIgnored
  | 0x040 => b.evt.alerts
  | 0x048 => b.time.net
  | 0x050 => word [(32, b.time.steps.toNat), (7, b.time.locked.toNat), (6, b.time.srcValid.toNat), (0, b.time.src.toNat)]
  | 0x058 => word ((List.range 16).map fun c => (2 * c, (b.ctx c).st.code))
  | 0x100 => tget 0 b.keys.strangers 0
  | 0x108 => tget 0 b.keys.strangers 1
  | 0x110 => tget 0 b.keys.strangers 2
  | 0x118 => strangerLast b
  | 0x200 => word [(0, b.route.self.toNat)]
  | 0x210 => word [(0, b.route.status.toNat)]
  | 0x218 => match injectEpoch b with
    | some k => word [(1, 1), (0, k)]
    | none => 0
  | 0x260 => word [(0, b.route.spillAt.toNat)]
  | 0x280 => b.route.staleEpoch
  | 0x288 => staleLast b
  | 0x290 => b.route.misdelivered
  | 0x298 => b.route.malformed
  | 0x2A0 => b.route.hopLimit
  | 0x2A8 => b.route.unreachable
  | 0x2B0 => b.route.noRouteWaits
  | 0x2B8 => b.route.forwarded
  | 0x2C0 => b.route.controlDrops
  | 0x300 => tget 0 b.fm.sources 0
  | 0x308 => tget 0 b.fm.sources 1
  | 0x310 => word [(0, b.fm.hostLock.toNat)]
  | 0x318 => b.fm.high
  | 0x320 => b.fm.applied
  | 0x328 => b.fm.duplicates
  | 0x330 => b.fm.tooOld
  | 0x338 => b.fm.rejected
  | 0x340 => b.fm.reportSeq
  | 0x348 => word [(0, b.fm.reports.length)]
  | 0x350 => b.fm.reportsLost
  | 0x400 => b.maint.straps
  | _ => 0

/-- Strait registers (Table 10.10). -/
def readStrait (b : Block) (n o : Nat) : Word :=
  let s := b.strait n
  match o with
  | 0x000 => lstateWord b n
  | 0x008 => word [(0, s.cls.toNat)]
  | 0x010 => word [(0, s.enable.toNat)]
  | 0x018 => word [(24, s.msHolder.toNat), (0, s.msStatus.toNat)]
  | 0x020 => word [(16, s.good.toNat), (0, s.map.toNat)]
  | 0x028 => word [(63, s.peerValid.toNat), (50, s.peerRole.toNat), (48, s.peerCls.toNat), (32, s.peerEpoch.toNat),
      (16, s.peerStrait.toNat), (0, s.peerNode.toNat)]
  | 0x030 => s.expect
  | 0x038 => word [(0, s.rtt.toNat)]
  | 0x040 => word [(48, clsBuffer s.cls), (32, clsXoff s.cls), (16, clsXon s.cls), (8, s.rxXoff.toNat), (0, s.txXoff.toNat)]
  | 0x048 => word [(48, clsReplay s.cls), (32, clsTimeout s.cls), (0, s.replay.length)]
  | 0x050 => s.doze
  | 0x058 => word [(0, s.tsAsym.toNat)]
  | 0x060 => word [(0, s.laneAlarm.toNat)]
  | 0x080 => s.flitsOut
  | 0x088 => s.flitsIn
  | 0x090 => s.cwCorrected
  | 0x098 => s.cwUncorrectable
  | 0x0A0 => s.crcErrors
  | 0x0A8 => s.naksSent
  | 0x0B0 => s.replays
  | 0x0B8 => s.naksStray
  | 0x0C0 => s.fcOverruns
  | 0x0C8 => s.linkLosses
  | 0x0D0 => s.packetsLost
  | 0x0D8 => s.poisonedFlits
  | 0x0E0 => s.dozes
  | 0x100 => tget 0 s.laneSymbols 0
  | 0x108 => tget 0 s.laneSymbols 1
  | 0x110 => tget 0 s.laneSymbols 2
  | 0x118 => tget 0 s.laneSymbols 3
  | 0x120 => tget 0 s.laneSymbols 4
  | _ => 0

/-- Context registers (Tables 2.1, 4.4, 5.6, 9.7). -/
def readCtx (b : Block) (c o : Nat) : Word :=
  let x := b.ctx c
  match o with
  | 0x000 => word [(5, x.valid.toNat), (0, x.part.val)]
  | 0x008 => word [(0, x.engineMask.toNat)]
  | 0x010 => ctxStateWord x
  | 0x018 => freezeWord x
  | 0x020 => x.frzTime
  | 0x030 => x.dropped
  | 0x038 => x.late
  | 0x040 => word [(0, x.tagLimit.toNat)]
  | 0x048 => word [(0, x.tagsHeld)]
  | 0x050 => word [(0, x.pfVa.toNat)]
  | 0x058 => word [(26, x.pfValid.toNat), (16, x.pfRequester.toNat), (8, x.pfKind.toNat), (0, x.pfStatus.toNat)]
  | 0x080 => x.csumLo
  | 0x088 => x.csumHi
  | 0x090 => x.csumSide
  | 0x098 => x.sealTags
  | _ => 0

/-- SEQ[s].FAULT (Table 2.9). -/
def seqFaultWord (s : Seq) : Word := word [(16, s.faultPc.toNat), (0, s.faultStatus.toNat)]
/-- SEQ[s].WAIT_INFO (Table 2.9). -/
def waitInfoWord (s : Seq) : Word :=
  word [(12, if s.sealed.contains 20 then 0 else s.waitTarget.toNat % 2 ^ 52), (0, s.waitTally.toNat)]
/-- SEQ[s].LOAD_STATUS (Table 2.9). -/
def loadStatusWord (s : Seq) : Word :=
  word [(32, s.loadCount.toNat), (16, s.loadWord.toNat), (8, s.loadDetail.toNat), (0, s.loadStatus.toNat)]

/-- G[i] and L[d] as a register read and a dump show them: what came from a read under a weight slot is not shown
(R408; log 102). -/
def shownG (s : Seq) (i : Nat) : Word := if s.sealed.contains i then 0 else tget 0 s.g i
def shownL (s : Seq) (d : Nat) : BitVec 32 := if s.sealed.contains (16 + d) then 0 else tget 0 s.l d

/-- Sequencer registers (Table 2.9). -/
def readSeq (b : Block) (q o : Nat) : Word :=
  let s := b.seq q
  if 0x080 ≤ o ∧ o < 0x100 then shownG s ((o - 0x080) / 8)
  else if 0x110 ≤ o ∧ o < 0x130 then word [(0, (shownL s ((o - 0x110) / 8)).toNat)]
  else match o with
  | 0x000 => word [(4, s.ownerValid.toNat), (0, s.owner.val)]
  | 0x008 => word [(3, s.draining.toNat), (0, s.st.code)]
  | 0x018 => word [(0, s.ctrlStatus.toNat)]
  | 0x020 => s.loadAddr
  | 0x028 => loadStatusWord s
  | 0x030 => word [(0, s.pc.toNat)]
  | 0x038 => waitInfoWord s
  | 0x040 => s.crecAddr
  | 0x048 => s.cseq
  | 0x050 => seqFaultWord s
  | 0x100 => word [(0, s.p.toNat)]
  | _ => 0

/-- The program that has reserved an engine: its context. -/
def rackCtx (b : Block) (e : Nat) : Nat :=
  match (b.rack e).reservedBy with
  | some q => (b.seq q).owner.val
  | none => 0

/-- Racking engine registers (Table 5.5). -/
def readRack (b : Block) (e o : Nat) : Word :=
  let r := b.rack e
  match o with
  | 0x000 => word [(28, r.reservedBy.isSome.toNat), (24, rackCtx b e), (16, (r.reservedBy.map fun q => q.val).getD 0),
      (8, r.queue.length), (0, r.st.code)]
  | 0x008 => word [(0, match r.run with
      | some x => x.len - x.issued
      | none => 0)]
  | 0x010 => word [(0, r.inflight.length)]
  | 0x018 => word [(16, r.faultPc.toNat), (0, r.faultStatus.toNat)]
  | 0x020 => r.bytesOut
  | 0x028 => r.chunksOut
  | 0x030 => r.csumMismatch
  | 0x038 => word [(0, r.mismatchVa.toNat)]
  | 0x040 => word [(8, r.maintValid.toNat), (0, r.maintEntry.toNat)]
  | _ => 0

/-- Press registers (Table 6.9). -/
def readPress (b : Block) (o : Nat) : Word :=
  let p := b.press
  if 0x100 ≤ o ∧ o < 0x180 then tget 0 p.blocked ((o - 0x100) / 8)
  else match o with
  | 0x000 => p.groupBase
  | 0x008 => word [(2, ((b.token resPress).holder != 0).toNat), (1, (p.permit == .waiting).toNat), (0, (p.permit == .held).toNat)]
  | 0x010 => p.elements
  | 0x018 => p.saturated
  | 0x020 => p.csumMismatch
  | 0x028 => p.diverged
  | 0x030 => p.discarded
  | 0x038 => lastDiverged b
  | _ => 0

/-- Instance registers (Table 6.10). -/
def readInst (b : Block) (i o : Nat) : Word :=
  let x := b.inst i
  match o with
  | 0x00 => if x.st = .free then 0 else
      word [(32, x.sequence), (22, x.group), (18, x.ctx), (12, x.seq), (9, x.kind), (0, x.st.code)]
  | 0x08 => if x.st = .free then 0 else word [(32, doneChunks x), (0, x.chunksTotal)]
  | _ => 0

/-- Ferry registers (Table 7.5). -/
def readFerry (b : Block) (o : Nat) : Word :=
  let f := b.ferry
  match o with
  | 0x00 => word [(0, f.planeA.toNat)]
  | 0x08 => word [(0, f.planeB.toNat)]
  | 0x10 => f.cellsOut
  | 0x18 => f.cellsIn
  | 0x20 => f.duplicates
  | 0x28 => f.copyFailed
  | 0x30 => f.strangers
  | 0x38 => f.preemptions
  | 0x40 => word [(0, f.nonceHigh.toNat)]
  | _ => 0

/-- Translation counters (Table 8.7). -/
def readXlat (b : Block) (o : Nat) : Word :=
  match o with
  | 0x00 => b.xlat.l1Misses
  | 0x08 => b.xlat.l2Misses
  | 0x10 => b.xlat.walkCount
  | 0x18 => b.xlat.coalesced
  | 0x20 => b.xlat.invalidations
  | _ => 0

/-- Invalidation registers (Table 8.7). -/
def readInv (b : Block) (a o : Nat) : Word :=
  let i := b.inv a
  match o with
  | 0x00 => i.addr
  | 0x08 => word [(0, i.units.toNat)]
  | 0x10 => i.ackAddr
  | 0x20 => word [(32, i.seq.toNat), (16, i.frozen.toNat), (8, i.active.toNat), (0, i.status.toNat)]
  | 0x28 => word [(32, i.refSeq.toNat), (0, i.refCount.toNat)]
  | _ => 0

/-- Translation registers of a context (Table 8.8). -/
def readXctx (b : Block) (c o : Nat) : Word :=
  let x := b.ctx c
  if 0x40 ≤ o ∧ o < 0xC0 then
    let f := tget ({} : FaultRec) x.faults ((o - 0x40) / 0x20)
    match o % 0x20 with
    | 0x00 => word [(0, f.va.toNat)]
    | 0x08 => word [(63, f.valid.toNat), (14, f.type.toNat), (8, f.cause.toNat), (0, f.status.toNat)]
    | 0x10 => word [(0, f.mask.toNat)]
    | _ => 0
  else match o with
  | 0x00 => x.root
  | 0x08 => word [(0, x.gen.toNat)]
  | 0x10 => x.harbNacks
  | 0x18 => x.overflow
  | _ => 0

/-- INUSE of a harbour window (R377): an access that passed against it before its last withdrawal has not been
performed. -/
def windowInUse (b : Block) (c w : Nat) : Bool :=
  let now := (tget ({} : Window) (b.ctx c).windows w).withdrawn
  let old (r : WinRef) : Bool := r.ctx == c && r.win == w && decide (r.serial < now)
  (b.home.ops.any fun o => o.wins.any old) || (b.mem.outstanding.any fun o => o.req.wins.any old) ||
    b.mem.waiting.any fun r => r.wins.any old

/-- Harbour window registers (Table 8.9). -/
def readHarb (b : Block) (c w : Nat) (limit : Bool) : Word :=
  let x := tget ({} : Window) (b.ctx c).windows w
  if limit then word [(16, x.limit.toNat)]
  else word [(63, x.valid.toNat), (62, (windowInUse b c w).toNat), (61, x.rd.toNat), (60, x.wr.toNat), (59, x.atm.toNat),
    (16, x.base.toNat)]

/-- Scheduler registers (Table 13.8). -/
def readSched (b : Block) (o : Nat) : Word :=
  match o with
  | 0x00 => word [(0, b.sched.samplePeriod.toNat)]
  | 0x08 => b.sched.sampleSeq
  | 0x10 => b.sched.resetDiscards
  | _ => 0

/-- SCHED.Q[q].SAMPLE. -/
def sampleWord (b : Block) (q : Nat) : Word :=
  let s := tget ({} : QSample) b.sched.samples q
  word [(32, s.depth.toNat), (0, s.delay.toNat)]

/-- Queue registers (Table 13.8). -/
def readQueue (b : Block) (q o : Nat) : Word :=
  match o with
  | 0x0 => qCfg b q
  | 0x8 => sampleWord b q
  | _ => 0

/-- Meter registers (Table 13.9). -/
def readMeter (b : Block) (m o : Nat) : Word :=
  let x := b.meter m
  match o with
  | 0x00 => x.ctrl
  | 0x08 => x.rate
  | 0x10 => x.size
  | 0x18 => x.green
  | 0x20 => x.yellow
  | 0x28 => x.red
  | 0x30 => x.refused
  | 0x38 => word [(0, x.hold.length)]
  | _ => 0

/-- The ullage of a shaper as of now, in 1/16 B (R568). -/
def ullageWord (b : Block) (s : Shaper) : Word := BitVec.ofInt 64 (accrue b.time.loc s).ullage

/-- TIDE[n].STATUS (Table 13.10). -/
def tideStatusWord (t : Tide) : Word :=
  word [(32, t.cycles.toNat), (31, t.pending.toNat), (30, t.operValid.toNat), (16, t.entry.toNat), (0, t.status.toNat)]

/-- Shaper and tide registers of a strait (Table 13.10). -/
def readChart (b : Block) (n o : Nat) : Word :=
  let e := b.eg n
  let t := b.tide n
  if 0x20 ≤ o ∧ o < 0x60 then
    let s := tget ({} : Shaper) e.parts ((o - 0x20) / 0x10)
    if o % 0x10 = 0 then s.shape else if o % 0x10 = 8 then ullageWord b s else 0
  else match o with
  | 0x00 => e.ovh
  | 0x08 => e.strait.shape
  | 0x10 => ullageWord b e.strait
  | 0x60 => word [(0, t.enable.toNat)]
  | 0x68 => t.adminBase
  | 0x70 => t.adminCycle
  | 0x80 => tideStatusWord t
  | 0x88 => t.operBase
  | 0x90 => t.operCycle
  | 0x98 => t.switchTime
  | _ => 0

/-- Thief control registers (Table 15.6). -/
def readThief (b : Block) (o : Nat) : Word :=
  let t := b.thief
  match o with
  | 0x00 => word [(0, t.ctrl.toNat)]
  | 0x08 => t.ringBase
  | 0x10 => t.ringSize
  | 0x18 => word [(0, t.head.toNat)]
  | 0x20 => word [(0, t.tail.toNat)]
  | 0x28 => word [(0, t.samplePeriod.toNat)]
  | 0x30 => word [(0, t.pcPeriod.toNat)]
  | 0x38 => t.pcMask
  | 0x40 => t.traceCtrl
  | 0x48 => word [(0, t.matchShift.toNat)]
  | 0x50 => t.records
  | 0x58 => t.dropped
  | 0x60 => t.watchBase
  | 0x68 => word [(0, t.watchSize.toNat)]
  | 0x70 => word [(0, t.watchHead.toNat)]
  | 0x78 => word [(0, t.watchTail.toNat)]
  | _ => 0

/-- Utilisation counters (Table 15.9). -/
def readUtilS (b : Block) (n o : Nat) : Word :=
  let u := tget ({} : UtilStrait) b.util.straits n
  match o with
  | 0x00 => u.up
  | 0x08 => u.qdoze
  | 0x10 => u.ddoze
  | 0x18 => u.off
  | 0x20 => u.train
  | _ => 0

/-- Global utilisation counters (Table 15.9). -/
def readUtil (b : Block) (o : Nat) : Word :=
  match o with
  | 0x00 => b.util.cellarCorrected
  | 0x08 => b.util.cellarUncorrectable
  | 0x10 => b.util.portalRequests
  | 0x18 => b.util.tallyIncrements
  | 0x20 => b.util.atomics
  | 0x28 => b.util.dxiWords
  | _ => 0

/-- Power and clock registers (Table 14.5). -/
def readPwr (b : Block) (o : Nat) : Word :=
  let p := b.pwr
  let sum (l : List PermitReq) : Nat := (l.map fun r => r.units).foldl (· + ·) 0
  match o with
  | 0x00 => word [(0, p.dp.code)]
  | 0x08 => word [(0, p.dpIdle.toNat)]
  | 0x10 => p.hostAwake
  | 0x18 => word [(63, (hintClock b).toNat)] ||| wordOfBits 32 fun n => (hintStraits b).contains n || tideKeeps b n
  | 0x20 => word [(0, p.held)]
  | 0x28 => word [(16, p.outstanding.length), (0, sum p.outstanding + sum p.waiting)]
  | 0x30 => word [(0, p.waiting.length)]
  | 0x38 => wordOfBits 32 fun n => (b.strait n).wake == .waiting
  | 0x40 => p.grants
  | 0x48 => p.waitNs
  | 0x50 => p.returnedUnused
  | 0x58 => p.dpStarts
  | 0x60 => p.dpStoppedNs
  | _ => 0

/-- RST.CELLARER[k]. -/
def cellarerWord (b : Block) (k : Nat) : Word :=
  let c := b.cellarer k
  word [(32, c.selftests.toNat), (8, c.faultCode.toNat), (0, c.role.code)]

/-- A word of MAINT.HOLDERS. -/
def holdersWord (b : Block) (w : Nat) : Word :=
  word ((List.range 8).map fun j => (8 * j, (b.token (8 * w + j)).holder))

/-- Reset and maintenance registers (Table 16.12). -/
def readRst (b : Block) (o : Nat) : Word :=
  let m := b.maint
  if 0x400 ≤ o ∧ o < 0x500 then
    match tget none b.home.quar ((o - 0x400) / 8) with
    | some r => word [(63, 1), (16, r)]
    | none => 0
  else match o with
  | 0x018 => word [(32, m.frozen.toNat), (14, m.block.toNat), (10, (m.parts.map fun p => 2 ^ p).foldl (· + ·) 0),
      (0, m.status.toNat)]
  | 0x020 => cellarerWord b 0
  | 0x028 => cellarerWord b 1
  | 0x030 => m.failovers
  | 0x108 | 0x110 | 0x118 | 0x120 =>
    let s := tget ({} : MaintStatus) m.mstatus ((o - 0x108) / 8 + 1)
    word [(16, s.holder.toNat), (8, s.resource.toNat), (0, s.status.toNat)]
  | 0x140 => holdersWord b 0
  | 0x148 => holdersWord b 1
  | 0x150 => holdersWord b 2
  | 0x158 => holdersWord b 3
  | 0x160 => holdersWord b 4
  | 0x188 => word [(40, m.bistErrors.toNat), (16, m.bistFirst.toNat), (8, m.bistState.toNat), (0, m.bistStatus.toNat)]
  | 0x208 => word [(32, m.runVersion.toNat), (8, m.bState.code), (0, m.fwStatus.toNat)]
  | 0x210 => word [(0, m.stagedVersion.toNat)]
  | 0x218 => m.settingsDiscarded
  | 0x300 => word [(0, b.evt.logHead.toNat)]
  | 0x308 => word [(0, b.evt.slots.toNat)]
  | 0x318 => b.evt.overwritten
  | 0x508 => word [(0, m.quarStatus.toNat)]
  | 0x510 => m.quarEntered
  | _ => 0

/-- Word i of a 384-bit hash. -/
def hashWord (h : BitVec 384) (i : Nat) : Word := BitVec.ofNat 64 (h.toNat >>> (64 * i))

/-- Security registers, as the RoT port reads them (Table 9.9); SEC.KEY reads 0 (R398). -/
def readSec (b : Block) (o : Nat) : Word :=
  let k := b.keys
  if 0x100 ≤ o ∧ o < 0x300 then
    let s := b.slot ((o - 0x100) / 0x20)
    match o % 0x20 with
    | 0x00 => word [(32, s.vintage.toNat), (16, s.setTag.toNat), (12, s.pmask.toNat), (0, s.st.code)]
    | 0x08 => word [(0, s.refs)]
    | 0x10 => word [(48, s.high.toNat), (0, s.nonce)]
    | _ => 0
  else if 0x300 ≤ o ∧ o < 0x320 then word [(0, (tget 0 k.highest ((o - 0x300) / 8)).toNat)]
  else if 0x400 ≤ o ∧ o < 0x500 then
    let r := tget ({} : WRange) k.ranges ((o - 0x400) / 0x10)
    if o % 0x10 = 0 then word [(63, r.valid.toNat), (50, r.wslot.toNat), (16, r.base.toNat)]
    else if o % 0x10 = 8 then word [(16, r.limit.toNat)] else 0
  else if 0x810 ≤ o ∧ o < 0x840 then hashWord k.attRun ((o - 0x810) / 8)
  else if 0x840 ≤ o ∧ o < 0x870 then hashWord k.attStaged ((o - 0x840) / 8)
  else if 0x870 ≤ o ∧ o < 0x8A0 then hashWord k.attConfig ((o - 0x870) / 8)
  else match o with
  | 0x008 => k.arg0
  | 0x010 => k.arg1
  | 0x018 => k.arg2
  | 0x040 => word [(32, k.resRefs.toNat), (24, k.resHolder.toNat), (8, k.active.toNat), (0, k.resStatus.toNat)]
  | 0x800 => word [(32, k.attGen.toNat), (8, k.attStatus.toNat), (0, k.attTag.toNat)]
  | 0x808 => k.attTime
  | 0x8A0 => k.attStraps
  | 0x8A8 => word [(0, k.attScopes.toNat)]
  | 0x8B0 => 1
  | _ => 0

/-! ### A read of a register -/

/-- The value of a register that is not a VALUE of a compatibility set; the security block reads 0 here
(R15). -/
def readPlain (lees : List Host.Cell) (b : Block) (r : Reg) : Word :=
  match r with
  | .ident o => readIdent b o
  | .glob o => readGlob b o
  | .members p w => tget 0 b.fm.members (128 * p + w)
  | .strait n o => readStrait b n o
  | .route k node => tget 0 (b.bank k).entries node
  | .ctx c o => readCtx b c o
  | .seq q o => readSeq b q o
  | .rack e o => readRack b e o
  | .press o => readPress b o
  | .inst i o => readInst b i o
  | .ferry o => readFerry b o
  | .xlat o => readXlat b o
  | .inv a o => readInv b a o
  | .xctx c o => readXctx b c o
  | .harb c w l => readHarb b c w l
  | .sched o => readSched b o
  | .queue q o => readQueue b q o
  | .meter m o => readMeter b m o
  | .chart n o => readChart b n o
  | .tideEntry n oper e => tget 0 (if oper then (b.tide n).oper else (b.tide n).admin) e
  | .thief o => readThief b o
  | .watch w o => if o = 0 then (b.watch w).ctrl else (b.watch w).captures
  | .compat k o =>
    let x := b.compat k
    if 0x20 ≤ o ∧ o < 0x60 then tget 0 x.sel ((o - 0x20) / 8)
    else if 0xA0 ≤ o ∧ o < 0xE0 then tget 0 x.snap ((o - 0xA0) / 8)
    else match o with
    | 0x00 => x.bind
    | 0x10 => word [(32, x.snapSeq.toNat), (0, x.snapBoundary.toNat)]
    | 0x18 => x.snapTime
    | _ => 0
  | .list i => tget 0 b.thief.list i
  | .utilS n o => readUtilS b n o
  | .util o => readUtil b o
  | .pwr o => readPwr b o
  | .rst o => readRst b o
  | .sec _ => 0
  | .tally c n => b.tallyOf c n
  | .lees o => lword lees o
  | .none => 0

/-- The register that a SEL or sample-list word names: its offset is bits [23:3]. -/
def Reg.named (w : Word) : Reg := Reg.ofOffset (bits w 23 3 * 8)

/-- A register read, `fuel` deep through SELs that name VALUE registers (R631); a chain that returns on itself
has a free value (log 61). -/
def readDeep (lees : List Host.Cell) (b : Block) : Nat → Reg → Word
  | 0, _ => Config.selCycle b.free
  | fuel + 1, .compat k o =>
    if 0x60 ≤ o ∧ o < 0xA0 then
      let i := (o - 0x60) / 8
      readDeep lees b fuel (Reg.named (tget 0 (b.compat k).selNow i)) - tget 0 (b.compat k).base i
    else readPlain lees b (.compat k o)
  | _ + 1, r => readPlain lees b r

/-- A read of a register on the control port (R14, R15, R609). There are 64 VALUE registers, so a longer
chain of them returns on itself. -/
def readReg (lees : List Host.Cell) (b : Block) (r : Reg) : Word := readDeep lees b 65 r

/-- A read on a path: the security block answers the RoT only (R15, Table 18.4). -/
def readPath (p : Path) (lees : List Host.Cell) (b : Block) (r : Reg) : Word :=
  match r, p with
  | .sec o, .rot => readSec b o
  | r, _ => readReg lees b r

end Sys2Proof.Machine
end

