-- ==== Sys2Proof/Machine/Thief.lean ====
section
/-!
DEFINITION. The thief (15_counters_sampling_tracing.md): its ring (R611 to R617), samples (R619 to R624),
compatibility sets (R630 to R633) and watches (R627 to R629).
-/

namespace Sys2Proof.Machine

/-! ### The ring -/

/-- SIZE of the ring, in granules. -/
def ringSize (b : Block) : Nat := bits b.thief.ringSize 31 0
/-- NOTIFY. -/
def ringNotify (b : Block) : Nat := bits b.thief.ringSize 63 32

/-- The fill of the ring. -/
def ringFill (b : Block) : Nat := ringUsed b.thief.head.toNat b.thief.tail.toNat (ringSize b)

/-- The ring event as HEAD − TAIL has changed (R615). -/
def ringCheck (b : Block) : Block :=
  let up := decide (ringNotify b ≠ 0 ∧ ringNotify b ≤ ringFill b)
  let b' := { b with thief := { b.thief with above := up } }
  if up && !b.thief.above then raiseEvent 0x0F 0 0xFF 0xFF (w64 b.thief.head.toNat) 0 b' else b'

/-- Staged granules of a list of records. -/
def stagedGrans (l : List Staged) : Nat := (l.map fun r => r.grans.length).foldl (· + ·) 0

/-- The memory port has cycles that no other unit asks for (R28, R614): no request waits, and each slice that the
writes go to keeps a free tag beside theirs for the requests that may follow (log 97). -/
def portFree (gs : List Nat) (b : Block) : Bool :=
  b.mem.waiting.isEmpty && gs.all fun g =>
    decide ((b.mem.outstanding.filter fun o => o.slice == g % 32).length +
      (gs.filter fun x => x % 32 == g % 32).length < 512) && (granHolder b g).isNone

/-- The oldest staged record that has not been written goes to the ring in memory-port cycles that no
other unit asks for (R28, R612, R614). -/
def coreThiefRecordWrite (b : Block) : Block :=
  let before := b.thief.staged.takeWhile fun r => r.issued
  match b.thief.staged.dropWhile fun r => r.issued with
  | [] => b
  | r :: _ =>
    let at0 := ringAdd b.thief.head.toNat (stagedGrans before) (ringSize b)
    let addr (i : Nat) : Nat := bits b.thief.ringBase 49 0 + 64 * (ringAdd at0 i (ringSize b) % ringSize b)
    if !b.dpRuns ∨ !portFree ((List.range r.grans.length).map fun i => addr i / 64) b then b
    else
      let b := { b with thief := { b.thief with
        staged := b.thief.staged.map fun (x : Staged) => if x.serial = r.serial then { x with issued := true } else x } }
      b.each ((List.range r.grans.length).zip r.grans) fun x b =>
        memWrite (addr x.1) hintStream (~~~0) x.2 (.thief r.serial) b

/-- Records at the front whose granules are all visible leave the staging buffer, and HEAD advances for
each (R612, R617). -/
def headAdvance (size : Nat) : List Staged → BitVec 32 → List Staged × BitVec 32
  | [], h => ([], h)
  | r :: rest, h =>
    if r.issued ∧ r.left = 0 then headAdvance size rest (BitVec.ofNat 32 (ringAdd h.toNat r.grans.length size))
    else (r :: rest, h)

/-- A granule of a record is visible (R612). -/
def thiefVisible (serial : Nat) (b : Block) : Block :=
  let staged := b.thief.staged.map fun r => if r.serial = serial then { r with left := r.left - 1 } else r
  let (staged, head) := headAdvance (ringSize b) staged b.thief.head
  ringCheck { b with thief := { b.thief with staged, head } }

/-- THIEF.CTRL written: a rise of ENABLE sets HEAD to TAIL and starts SEQ anew (R611, Table 15.1). -/
def writeThiefCtrl (v : Word) (b : Block) : Block :=
  let rise := bitAt v 0 && !bitAt b.thief.ctrl 0
  let b := { b with thief := { b.thief with ctrl := BitVec.ofNat 6 v.toNat } }
  if rise then
    ringCheck { b with thief := { b.thief with head := b.thief.tail, seq := 0 } }
  else b

/-- A value written to a running index at or above M is taken modulo M (R616). -/
def indexWrite (v : Word) (size : Nat) : BitVec 32 :=
  let n := bits v 31 0
  BitVec.ofNat 32 (if ringMod size = 0 then n else n % ringMod size)

/-! ### Compatibility sets -/

/-- The eight counters that a set's words name, as they stand. -/
def compatNative (lees : List Host.Cell) (b : Block) (sel : Tbl Word) : Tbl Word :=
  (List.range 8).map fun i => (i, readReg lees b (Reg.named (tget 0 sel i)))

/-- A boundary of sequencer q: BASE of each set bound to it takes the counters at the end of the cycle
(R630), and new SELs take effect (R631). -/
def compatBoundary (lees : List Host.Cell) (q : Nat) (b : Block) : Block :=
  b.each ((List.range 8).filter fun k =>
      bitAt (b.compat k).bind 6 && bits (b.compat k).bind 5 0 == q) fun k b =>
    b.modCompat k fun x =>
      { x with boundary := true, before := x.base, selBefore := x.selNow
               selNow := x.sel, base := compatNative lees b x.sel }

/-- BIND written: every BASE is set as at a boundary (R630). -/
def coreCompatBind (lees : List Host.Cell) (k : Nat) (v : Word) (b : Block) : Block :=
  b.modCompat k fun x =>
    { x with bind := keep v 6 0, selNow := x.sel, base := compatNative lees b x.sel }

/-- A VALUE as a latch or an interval sample takes it (R631, R633): in a boundary cycle, the counter less
the BASE in force before the boundary. -/
def compatValue (lees : List Host.Cell) (b : Block) (k i : Nat) : Word :=
  let x := b.compat k
  if x.boundary then readReg lees b (Reg.named (tget 0 x.selBefore i)) - tget 0 x.before i
  else readReg lees b (.compat k (0x60 + 8 * i))

/-- LATCH (R632, R633). -/
def coreCompatLatch (lees : List Host.Cell) (k : Nat) (b : Block) : Block :=
  let x := b.compat k
  let snap := (List.range 8).map fun i => (i, compatValue lees b k i)
  b.modCompat k fun x' =>
    { x' with snap, snapTime := b.time.net, snapBoundary := x.boundary
              snapSeq := BitVec.ofNat 32 (b.seq (bits x.bind 5 0)).cseq.toNat }

/-- The compatibility set and index of a VALUE register. -/
def valueOf (r : Reg) : Option (Nat × Nat) :=
  match r with
  | .compat k o => if 0x60 ≤ o ∧ o < 0xA0 then some (k, (o - 0x60) / 8) else none
  | _ => none

/-! ### Samples -/

/-- The valid entries of the sample list, in order. -/
def sampleEntries (b : Block) : List Reg :=
  ((List.range 64).filter fun i => bitAt (tget 0 b.thief.list i) 63).map fun i => Reg.named (tget 0 b.thief.list i)

/-- An interval sample (R619 to R621, R633). -/
def coreSampleCapture (lees : List Host.Cell) (b : Block) : Block :=
  if !thiefOn b 1 then b
  else
    let es := sampleEntries b
    let vs := es.map fun r => match valueOf r with
      | some (k, i) => compatValue lees b k i
      | none => readReg lees b r
    let mask := (List.range 8).filter fun k =>
      (b.compat k).boundary && es.any fun r => (valueOf r).map (fun x => x.1) == some k
    stageRecord 0x01 (1 + ceilDiv es.length 8) 0 b.time.net
      (natBytes 2 es.length ++ natBytes 2 0 ++ natBytes 1 ((mask.map fun k => 2 ^ k).foldl (· + ·) 0) ++
        natBytes 43 0 ++ vs.flatMap fun v => natBytes 8 v.toNat) b

/-- STALL of a sequencer (Table 15.4, R624). -/
def stallCode (s : Seq) : Nat :=
  match s.st, s.hold with
  | .waiting, _ => 1
  | .running, .none => 0
  | .running, .engine => 2
  | .running, .tag => 3
  | .running, .inst => 4
  | .running, .permit => 5
  | .running, .result => 6
  | .running, .fence => 7
  | .running, .watch => 8
  | .running, .record => 9
  | _, _ => 15

/-- The entry of a sequencer in a PC record (Table 15.3). -/
def pcEntry (s : Seq) : Nat :=
  packNat [(31, 1), (18, s.owner.val), (14, stallCode s), (11, s.st.code), (0, s.pc.toNat)]

/-- A PC sample (R623). -/
def corePcSample (b : Block) : Block :=
  if !thiefOn b 3 then b
  else
    stageRecord 0x03 5 0 b.time.net
      (natBytes 8 b.thief.pcMask.toNat ++ natBytes 40 0 ++ (List.range 64).flatMap fun q =>
        natBytes 4 (if bitAt b.thief.pcMask q then pcEntry (b.seq q) else 0)) b

/-- The QUEUES record of a scheduler sample (R622). -/
def queuesRecord (b : Block) : Block :=
  if !thiefOn b 2 then b
  else
    stageRecord 0x02 18 0 b.time.net
      (natBytes 8 b.sched.sampleSeq.toNat ++ natBytes 40 0 ++ (List.range 133).flatMap fun q =>
        natBytes 8 (sampleWord b q).toNat) b

/-! ### Watches -/

/-- A WATCH word is accepted (R627). -/
def watchAccepts (b : Block) (w ctx step : Nat) : Bool :=
  let x := (b.watch w).ctrl
  bitAt x 63 && bits x 59 56 == ctx && decide (bits x 15 0 ≤ step ∧ step ≤ bits x 31 16) &&
    bits x 47 32 != 0 && bitAt b.thief.ctrl 0

/-- What acceptance does to the watch (R627). -/
def watchTake (w : Nat) (b : Block) : Block :=
  let x := b.watch w
  let n := bits x.ctrl 47 32 - 1
  let c := setField x.ctrl 47 32 n
  { b with thief := { b.thief with
    watches := tset b.thief.watches w
      { ctrl := if n = 0 then setField c 63 63 0 else c, captures := x.captures + 1 } } }

/-- An accepted word that faults after all has had no effect on its watch (R115). -/
def watchGive (w : Nat) (b : Block) : Block :=
  let x := b.watch w
  let n := bits x.ctrl 47 32
  let c := setField x.ctrl 47 32 (n + 1)
  { b with thief := { b.thief with
    watches := tset b.thief.watches w
      { ctrl := if n = 0 then setField c 63 63 1 else c, captures := x.captures - 1 } } }

/-- Granules of the watch buffer that the copies in progress that `p` holds of have beyond WATCH_HEAD. -/
def watchTaken (p : WatchCopy → Bool) (b : Block) : Nat :=
  ((b.thief.copies.filter p).map fun c => c.len / 64).foldl (· + ·) 0

/-- Free granules of the watch buffer: what accepted copies have found room for is not free (R628, log 31). -/
def watchFree (b : Block) : Nat :=
  b.thief.watchSize.toNat -
    ringUsed b.thief.watchHead.toNat b.thief.watchTail.toNat b.thief.watchSize.toNat - watchTaken (fun c => !c.noSpace) b

/-- A WATCH record (R629). -/
def watchRecord (flags : Nat) (time : Word) (c : WatchCopy) (b : Block) : Block :=
  if !bitAt b.thief.ctrl 0 then b
  else
    stageRecord 0x05 1 flags time
      (natBytes 1 c.watch ++ natBytes 1 c.seq.val ++ natBytes 2 c.ctx ++ natBytes 2 c.step ++ natBytes 2 0 ++
        natBytes 8 c.ga.toNat ++ natBytes 4 c.len ++ natBytes 4 c.index) b

/-- A copy changed. -/
def modCopy (id : Nat) (f : WatchCopy → WatchCopy) (b : Block) : Block :=
  { b with thief := { b.thief with copies := b.thief.copies.map fun c => if c.id = id then f c else c } }

/-- A copy is gone. -/
def dropCopy (id : Nat) (b : Block) : Block :=
  { b with thief := { b.thief with copies := b.thief.copies.filter fun c => c.id != id } }

/-- The word of a copy is done with, and its sequencer goes on (R163). -/
def watchRelease (c : WatchCopy) (b : Block) : Block :=
  if (b.seq c.seq).hold = .watch then
    advanceFrom c.seq c.pc (b.modSeq c.seq fun s => { s with hold := .none })
  else b

/-- The word of a copy fails before anything is read (R115): its sequencer stays at it, and its watch stands as
before. -/
def watchFail (c : WatchCopy) (st : Status) (b : Block) : Block :=
  recordFault c.seq c.pc st (watchGive c.watch (dropCopy c.id (b.modSeq c.seq fun s => { s with hold := .none })))

/-- What translating the source of a WATCH answers. -/
inductive WatchXl where
  | wait
  | bad (va : Word) (cause : Nat)
  | ok (ts : List Trans)
  deriving DecidableEq, Repr

/-- The pages of the source are translated in turn, through group 5 (R628). -/
def watchXlat (c : WatchCopy) : List Nat → Block → WatchXl × Block
  | [], b => (.ok [], b)
  | p :: rest, b =>
    let va : Word := w64 (max c.ga.toNat (p * 65536))
    match translate 5 c.ctx va 0 (.watch c.id) b with
    | (.wait, b) => (.wait, b)
    | (.bad cause, b) => (.bad va cause, b)
    | (.ok t, b) => match watchXlat c rest b with
      | (.ok ts, b) => (.ok (t :: ts), b)
      | r => r

/-- The pages of a range. -/
def pagesIn (va len : Nat) : List Nat :=
  (List.range ((va + len - 1) / 65536 + 1 - va / 65536)).map fun i => va / 65536 + i

/-- The parts of a range, one to a page: translated place, local offset, length. -/
def watchParts (c : WatchCopy) (ts : List Trans) : List (Trans × Nat) :=
  ((pagesIn c.ga.toNat c.len).zip ts).map fun x =>
    let lo := max c.ga.toNat (x.1 * 65536)
    (x.2, min (c.ga.toNat + c.len) (x.1 * 65536 + 65536) - lo)

/-- An accepted WATCH proceeds in one of the three ways of R628 once its source is translated. A source that
is not in this node's memory, or that its home does not grant, fails as the word's fault. -/
def watchGo (id : Nat) (b : Block) : Block :=
  match b.thief.copies.find? fun c => c.id == id && !c.asked with
  | none => b
  | some c =>
    match watchXlat c (pagesIn c.ga.toNat c.len) b with
    | (.wait, b) => b
    | (.bad va cause, b) => xlatFault c.ctx va 0 cause 5 20 c.seq c.pc (watchFail c (causeStatus cause) b)
    | (.ok ts, b) =>
      let parts := watchParts c ts
      if parts.any fun p => p.1.node != b.route.self.toNat then
        freezeCtx c.ctx 2 .access c.seq c.seq c.pc (watchFail c .access b)
      else if parts.any fun p => !(rangesOver b p.1.off p.2).isEmpty then
        watchRelease c (watchRecord 1 c.time { c with index := b.thief.watchHead.toNat } (dropCopy id b))
      else
        match parts.findSome? fun p => match localCheck b c.ctx p.1.dctx 0 p.1.off p.2 none with
          | .fail st _ => some (st, p.1.dctx)
          | .pass _ => none with
        | some (st, dctx) => freezeCtx c.ctx (if st = .access then 5 else 2) st (if st = .access then 0 else c.seq) c.seq c.pc
            (watchFail c st (countNack dctx st b))
        | none =>
          if c.noSpace then
            watchRelease c (watchRecord 2 c.time { c with index := b.thief.watchHead.toNat } (dropCopy id b))
          else
            let srcs := parts.flatMap fun p => granulesOf p.1.off p.2
            let index := ringAdd b.thief.watchHead.toNat (watchTaken (fun x => x.asked) b) b.thief.watchSize.toNat
            let b := beginUse (.watch id) 0 c.ctx (b.ctx c.ctx).gen b
            let b := dropCopy id b
            let c := { c with asked := true, index, srcs, left := srcs.eraseDups.length, writesLeft := srcs.length }
            let b := { b with thief := { b.thief with copies := b.thief.copies ++ [c] } }
            let rs := parts.map fun p => (p.1.off, p.2, p.1.dctx)
            b.each srcs.eraseDups fun a b =>
              memReadIn (runWins b c.ctx 0 none rs a) (64 * a) hintStream (.watchRead id) b

/-- A WATCH that is accepted at its issue (R627, R628). -/
def watchIssue (q : SeqId) (pc w step : Nat) (ga : Word) (len : Nat) (b : Block) : Block :=
  let id := b.thief.nextCopy
  let c : WatchCopy :=
    { id, seq := q, ctx := (b.seq q).owner.val, watch := w, step, ga, len, pc, index := 0, asked := false, srcs := [],
      left := 0, writesLeft := 0, time := b.time.net, noSpace := decide (watchFree b < len / 64) }
  let b := watchTake w (b.modSeq q fun s => { s with hold := .watch })
  watchGo id { b with thief := { b.thief with nextCopy := id + 1, copies := b.thief.copies ++ [c] } }

/-- Copies at the front of the buffer that are wholly visible advance WATCH_HEAD and leave their records
(R628, R629). -/
def watchDone : Nat → Block → Block
  | 0, b => b
  | fuel + 1, b =>
    match b.thief.copies.find? fun c => c.asked with
    | some c =>
      if c.left = 0 ∧ c.writesLeft = 0 then
        let head := ringAdd b.thief.watchHead.toNat (c.len / 64) b.thief.watchSize.toNat
        watchDone fuel (watchRecord 0 c.time c (dropCopy c.id { b with thief := { b.thief with watchHead := BitVec.ofNat 32 head } }))
      else b
    | none => b

/-- A granule of free data, for one that memory returned poisoned (log 62). -/
def freshGranule (b : Block) : Granule × Block :=
  (List.range 8).foldl (fun (acc : Granule × Block) i =>
    let (v, b) := acc.2.fresh
    (acc.1 ||| (BitVec.setWidth 512 v <<< (64 * i)), b)) (0, b)

/-- A granule of a WATCH's source is back: it goes to each of its places in the watch buffer; with the last
one the sequencer proceeds and the use ends (R163, R366, R628). -/
def watchRead (id addr : Nat) (poison : Bool) (data : Granule) (b : Block) : Block :=
  match b.thief.copies.find? fun c => c.id == id with
  | none => b
  | some c =>
    let (data, b) := if poison then freshGranule b else (data, b)
    let size := b.thief.watchSize.toNat
    let places := (List.range c.srcs.length).filter fun i => c.srcs[i]? == some addr
    let b := b.each places fun i b =>
      let pos := ringAdd c.index i size % size
      memWrite (bits b.thief.watchBase 49 0 + 64 * pos) hintStream (~~~0) data (.watchWrite id) b
    let b := modCopy id (fun c => { c with left := c.left - 1, time := b.time.net }) b
    if c.left = 1 then watchRelease c (endUse (.watch id) 0 b) else b

/-- A granule of the watch buffer is visible. -/
def watchVisible (id : Nat) (b : Block) : Block :=
  let b := modCopy id (fun c => { c with writesLeft := c.writesLeft - 1 }) b
  watchDone (b.thief.copies.length + 1) b

end Sys2Proof.Machine
end

