-- ==== Sys2Proof/Machine/Walks.lean ====
section
/-!
DEFINITION. The end of a page-table walk (08_address_translation.md R345 to R348, R355 to R357) and
invalidations (R362 to R372).
-/

namespace Sys2Proof.Machine

/-! ### Entries (Table 8.2) -/

/-- What an entry of a table says: a cause of Table 8.4, the next table, or a leaf. -/
inductive Entry where
  | bad (cause : Nat)
  | next (off : Nat)
  | leaf (w : Word)
  deriving DecidableEq, Repr

/-- An entry at a level (R346 to R348). -/
def readEntryWord (level : Nat) (e : Word) : Entry :=
  if !bitAt e 63 then .bad 1
  else if bitAt e 0 then
    if bits e 11 4 ≠ 0 ∨ level < 2 ∨ (level = 2 ∧ bits e 29 16 ≠ 0) ∨ (level = 3 ∧ bits e 20 16 ≠ 0) then .bad 3
    else .leaf e
  else if bits e 62 50 ≠ 0 ∨ bits e 7 1 ≠ 0 ∨ 4 ≤ level ∨ (level < 3 ∧ bits e 11 8 ≠ 0) then .bad 3
  else .next (keep e 49 8).toNat

/-! ### Waiters -/

/-- The group of Table 8.3 of a waiter. -/
def waiterGroup (b : Block) (w : Waiter) : Nat :=
  match w with
  | .portal tag => match b.req tag with
    | some r => reqGroup r
    | none => 0
  | .rack e => 2 + e / 8
  | .coll _ | .ferry _ => 4
  | .watch _ => 5
  | .gone g _ => g

/-- The access of a waiter fails (R355, R356, R358): its own record and the fault record. The word or
program that started it, for the trace record of a freeze. A waiter that is no longer there leaves its record
only for a frozen context (R357); else `none`. -/
def waiterFault (c page cause : Nat) (w : Waiter) (acc : Nat) (b : Block) : Option (Nat × Nat × Nat × Nat) × Block :=
  let st := causeStatus cause
  let note (g bit oseq opc : Nat) (b : Block) : Option (Nat × Nat × Nat × Nat) × Block :=
    let (k, b) := writeFaultRec c page (if acc = accNone then 1 else acc) cause st bit b
    (some (k, g, oseq, opc), b)
  let late (g bit : Nat) (b : Block) : Option (Nat × Nat × Nat × Nat) × Block :=
    if ctxRuns b c then (none, b) else note g bit 0xFF 0 b
  match w with
  | .portal tag =>
    match b.req tag with
    | none => (none, b)
    | some r =>
      let (oseq, opc) := reqOrigin r
      note (reqGroup r) (16 + reqGroup r) oseq opc (portalRefuse tag st b)
  | .rack e =>
    if acc = accRemainder then
      if (b.rack e).rems.any fun x => x.ctx == c && pageOf x.dst == page then
        (none, (note (2 + e / 8) e 0xFF 0 b).2)
      else (none, b)
    else match (b.rack e).run.filter fun x => decide (x.ctx = c ∧ x.issued < x.len) with
      | none => late (2 + e / 8) e b
      | some x => note (2 + e / 8) e x.seq x.pc.toNat
          (recordFault x.seq x.pc.toNat st (rackFault e x.pc st (xferError e st b)))
  | .coll i => let x := b.inst i; note 4 18 x.seq x.pc.toNat b
  | .ferry i => let x := b.inst i; note 4 19 x.seq x.pc.toNat b
  | .watch id =>
    match b.thief.copies.find? fun k => k.id == id && !k.asked with
    | none => (none, b)
    | some k => note 5 20 k.seq k.pc (watchFail k st b)
  | .gone g bit => late g bit b

/-- What waited for a translation goes on (R355). Racking engines and chunks that start ask again by their own
commands. -/
def waiterGo (c page : Nat) (res : Word → Nat → Xl) (w : Waiter) (acc : Nat) (b : Block) : Block :=
  match w with
  | .portal tag =>
    match b.req tag with
    | some r => if r.stage = .xlat then portalXlat tag b else b
    | none => b
  | .rack e =>
    if acc = accRemainder then
      remainderWalked e c page (fun x => match res x.dst acc with
        | .ok t => some t
        | _ => none) b
    else b
  | .coll i => retryPieces i b
  | .gone _ _ => b
  | .ferry i => ferryWrite i b
  | .watch id => watchGo id b

/-- A walk ends: a valid leaf is filled into the L2 and into the L1 of each waiter's group; every waiter takes
the result; the first fault of a RUNNING context freezes it (R348, R353, R355, R357), as a refusal by a protected range
where that is why the walk ended (R405; log 102). -/
def endWalk (k : Walk) (res : Word → Nat → Xl) (fill : Option TlbEntry) (prot : Option Nat) (b : Block) : Block :=
  let b := { b with xlat := { b.xlat with walks := b.xlat.walks.filter fun x => x.id != k.id } }
  let b := match fill with
    | some e => (k.waiters.map fun w => waiterGroup b w.1).eraseDups.foldl (fun b g => l1Fill g e b) (l2Fill e b)
    | none => b
  let running := ctxRuns b k.ctx
  let cause (w : Waiter × Nat × Word) : Option Nat := match res (w64 (k.page * 65536)) w.2.1 with
    | .bad n => some n
    | _ => none
  let (first, b) := k.waiters.foldl (fun (acc : Option (Nat × Word × Nat × Nat × Nat × Nat) × Block) w =>
    match cause w with
    | none => acc
    | some n =>
      let (r, b) := waiterFault k.ctx k.page n w.1 w.2.1 acc.2
      (acc.1.or (r.map fun x => (n, w.2.2, x)), b)) (none, b)
  let b := match first with
    | some (n, va, kk, g, oseq, opc) =>
      if running then
        freezeCtx k.ctx (if prot.isSome then 10 else 4) (causeStatus n) (prot.getD g) oseq opc
          (raiseEvent 0x02 (causeStatus n).code.toNat k.ctx g va (w64 kk) b)
      else b
    | none => b
  b.each (k.waiters.filter fun w => (cause w).isNone || w.2.1 == accRemainder) fun w b =>
    waiterGo k.ctx k.page res w.1 w.2.1 b

/-- A table entry has been read (R345 to R348). An answer for a walk that has been restarted is not used
(R365). -/
def walkRead (id : Nat) (poison : Bool) (data : Granule) (b : Block) : Block :=
  match b.xlat.walks.find? fun k => k.id == id with
  | none => b
  | some k =>
    let i := levelIndex k.page k.level % 8
    let e : Word := w64 (bits data (64 * i + 63) (64 * i))
    match (if !bitAt (b.ctx k.ctx).root 0 then Entry.bad 5 else if poison then Entry.bad 4
      else readEntryWord k.level e) with
    | .bad cause => endWalk k (fun _ _ => .bad cause) none none b
    | .next off =>
      readEntry id off k.page (k.level + 1)
        { b with xlat := { b.xlat with walks := b.xlat.walks.map fun x =>
            if x.id = id then { x with level := x.level + 1 } else x } }
    | .leaf w =>
      let t : TlbEntry := { ctx := k.ctx, level := k.level, page := k.page, gen := k.gen, leaf := w }
      endWalk k (fun va acc => checkLeaf b k.ctx acc k.level w va) (some t) none b

/-- A table entry stands in a protected range: it is not read, and the walk ends as at an entry that breaks Table 8.2
(R405; log 102). -/
def walkRefused (id j : Nat) (b : Block) : Block :=
  match b.xlat.walks.find? fun k => k.id == id with
  | none => b
  | some k => endWalk k (fun _ _ => .bad 3) none (some j) b

/-! ### Invalidation -/

/-- Walks of covered contexts start again from the root (R365), or end where it is gone (R351). -/
def restartWalks (cs : List Nat) (b : Block) : Block :=
  let old := b.xlat.walks.filter fun k => cs.contains k.ctx
  let b := { b with xlat := { b.xlat with walks := b.xlat.walks.filter fun k => !cs.contains k.ctx } }
  b.each old fun k b =>
    if bitAt (b.ctx k.ctx).root 0 then beginWalk k.ctx k.page k.waiters b
    else endWalk k (fun _ _ => .bad 5) none none b

/-- TLB entries that match are dropped (R364). -/
def dropEntries (p : TlbEntry → Bool) (b : Block) : Block :=
  { b with xlat := { b.xlat with
    l1 := b.xlat.l1.map fun g => (g.1, g.2.filter fun e => !p e)
    l2 := b.xlat.l2.filter fun e => !p e } }

/-- An entry covers a page of a range of `n` pages from `lo`. -/
def TlbEntry.inRange (e : TlbEntry) (lo n : Nat) : Bool :=
  let s := leafPages e.level
  let start := e.page / s * s
  decide (start < lo + n ∧ lo < start + s)

/-- The status register set takes the outcome, and ACTIVE falls (R368). -/
def invFinish (a : Nat) (b : Block) : Block :=
  b.modInv a fun i => { i with
    active := false, acking := false, seq := i.curSeq, frozen := i.curFrozen, status := i.curStatus, old := [], ctxs := [] }

/-- An invalidation completes: its acknowledgement word is written, when there is one (R368, Table 8.5). -/
def invComplete (a : Nat) (st : Status) (frozen : BitVec 16) (b : Block) : Block :=
  let b := b.modInv a fun i => { i with curStatus := st.code, curFrozen := frozen, acking := true }
  let i := b.inv a
  if i.ackAddr = 0 then invFinish a b
  else
    let w := word [(32, i.curSeq.toNat), (16, frozen.toNat), (0, st.code.toNat)]
    let off := bits i.ackAddr 49 0
    memWrite off hintKeep (maskOf (off % 64) 8) (granOf (off % 64) (natBytes 8 w.toNat)) (.ackWord a) b

/-- A start written to XLAT.INV[a].CTRL (R362 to R365, R371, R372). -/
def invStart (a kind ctx : Nat) (seq : BitVec 32) (b : Block) : Block :=
  let i := b.inv a
  if i.active then b.modInv a fun i => { i with refSeq := seq, refCount := i.refCount + 1 }
  else
    let b := { b with xlat := { b.xlat with invalidations := b.xlat.invalidations + 1, nextOrder := b.xlat.nextOrder + 1 } }
    let n := i.units.toNat
    let bad := decide (kind = 3 ∨ (kind = 0 ∧ n = 0) ∨ (kind = 2 ∧ ctx ≠ 0))
    let cs := if bad then [] else if kind = 2 then List.range 16 else [ctx]
    let b := b.modInv a fun i => { i with
      active := true, acking := false, curSeq := seq, curFrozen := 0, curStatus := 0, old := [], ctxs := cs
      order := b.xlat.nextOrder }
    if bad then invComplete a .access 0 b
    else
      let lo := pageOf i.addr
      let b := b.each cs (raiseGen (b.inv a).order)
      restartWalks cs (dropEntries (fun e => cs.contains e.ctx && (kind != 0 || e.inRange lo n)) b)

/-- The uses that an invalidation still waits for; where its increment waits (R371), every use of that
context. -/
def invUses (b : Block) (a : Nat) : List Use :=
  let i := b.inv a
  (i.old.filter fun u => b.xlat.uses.contains u) ++
    b.xlat.uses.filter fun u => b.xlat.delayed.any fun d => d.order == i.order && d.ctx == u.ctx

/-- An earlier invalidation that covers one of its contexts is not complete (R372). -/
def invBehind (b : Block) (a : Nat) : Bool :=
  [0, 1, 2, 3].any fun k =>
    let x := b.inv k
    k != a && x.active && !x.acking && decide (x.order < (b.inv a).order) && x.ctxs.any fun c => (b.inv a).ctxs.contains c

/-- The last old use has ended (R367, R368). -/
def coreInvalidationComplete (a : Nat) (b : Block) : Block :=
  let i := b.inv a
  if !i.active ∨ i.acking ∨ !(invUses b a).isEmpty ∨ invBehind b a then b
  else invComplete a .ok 0 b

/-- Ten microseconds after its start, contexts that hold old uses are frozen (R369). An earlier start over the same
context reaches its bound first, and completes then (R372). -/
def coreInvalidationBound (a : Nat) (b : Block) : Block :=
  let i := b.inv a
  let cs := ((invUses b a).map fun u => u.ctx).eraseDups
  if !i.active ∨ i.acking ∨ cs.isEmpty ∨ invBehind b a then b
  else
    let b := b.each cs fun c b => freezeCtx c 7 .busyDraining a 0xFF 0 b
    invComplete a .busyDraining (BitVec.ofNat 16 ((cs.map fun c => 2 ^ c).foldl (· + ·) 0)) b

end Sys2Proof.Machine
end

