-- ==== Sys2Proof/Machine/Packets.lean ====
section
/-!
DEFINITION. Packets as straits deliver them: the checks of Table 11.7 in order
(11_packets_routing_flow.md R495), forwarding in a torus (R505, R510), strangers (R410 to R412), and what each
TYPE then does (R482 to R491, R538).
-/

namespace Sys2Proof.Machine

/-! ### What ends a packet -/

/-- A packet is a stranger (R410). -/
def stranger (kind : Nat) (route : Quad) (b : Block) : Block := countStranger kind (rPart route) (rSrc route) b

/-- A packet goes on through this node of a torus, from its ingress buffer and as its flits arrive (R500), or ends here
(R509, R510, R557: TRANSIT of its partition). -/
def forwardPacket (a : Arrival) (b : Block) : Block :=
  if 31 ≤ rHops a.route then
    releaseIngress a.strait a.id { b with route := { b.route with hopLimit := b.route.hopLimit + 1 } }
  else
    let p := newPkt (hopRoute a.route) a.op [] none (129 + rPart a.route) a.vc none .none
    let b' := routeForward { p with
      forwarded := true, epoch := some (rEpoch a.route), inStrait := a.strait.val, fwd := some a.id } (keepIngress a.strait a.id b)
    if b'.route.unreachable = b.route.unreachable then
      { b' with route := { b'.route with forwarded := b'.route.forwarded + 1 } }
    else b'

/-! ### Control packets (R538, R541, Tables 12.3 and 12.4) -/

/-- The two header words of a control message, and its body. -/
def ctlMsg (a : Arrival) : CtlMsg :=
  { src := BitVec.ofNat 13 (rSrc a.route), epoch := rEpoch a.route
    w0 := BitVec.ofNat 128 (bytesNat (slice a.payload 0 16)), w1 := BitVec.ofNat 128 (bytesNat (slice a.payload 16 16))
    body := slice a.payload 32 (rLen a.route - 32) }

/-- KIND of a control message. -/
def mKind (m : CtlMsg) : Nat := bits m.w0 127 120
/-- COUNT. -/
def mCount (m : CtlMsg) : Nat := bits m.w0 111 96
/-- SEQUENCE. -/
def mSeq (m : CtlMsg) : Nat := bits m.w0 63 0
/-- OFFSET. -/
def mOffset (m : CtlMsg) : Nat := bits m.w1 23 0
/-- CODE. -/
def mCode (m : CtlMsg) : Nat := bits m.w1 127 120

/-- Item i of a WRITE: 16 B. -/
def mItem (m : CtlMsg) (i : Nat) : Quad := BitVec.ofNat 128 (bytesNat (slice m.body (16 * i) 16))
/-- Value i of a WRITE_BLOCK. -/
def mValue (m : CtlMsg) (i : Nat) : Word := w64 (bytesNat (slice m.body (8 * i) 8))

/-- Kind, COUNT, LENGTH and must-be-0 fields of a message are in range (Table 12.4). -/
def ctlOk (m : CtlMsg) (len : Nat) : Bool :=
  let n := mCount m
  bits m.w0 117 112 == 0 && bits m.w0 87 80 == 0 &&
    (if mKind m = 1 then
      decide (1 ≤ n ∧ n ≤ 254 ∧ len = 32 + 16 * n ∧ mSeq m ≠ 0) && (List.range n).all fun i => bits (mItem m i) 127 88 == 0
    else if mKind m = 2 then decide (1 ≤ n ∧ n ≤ 508 ∧ len = 32 + 8 * n ∧ mSeq m ≠ 0 ∧ mOffset m % 8 = 0)
    else if mKind m = 3 then decide (1 ≤ n ∧ n ≤ 508 ∧ len = 32 ∧ mOffset m % 8 = 0)
    else if mKind m = 4 then decide (n = 0 ∧ len = 32 ∧ mSeq m ≠ 0)
    else if mKind m = 5 then decide (n = 0 ∧ len = 32)
    else false)

/-- The route word, the operation word and the tag of a control message hold 0 where R541 says so. -/
def ctlZeros (route op tag : Quad) : Bool :=
  op == 0 && tag == 0 && bits route 89 79 == 0 && !rPoison route && bits route 64 0 == 0

/-- A CONTROL packet for this node (check 4, R538, R550): into the control queue, rejected, or dropped. -/
def takeControl (a : Arrival) (b : Block) : Block :=
  let m := ctlMsg a
  if a.psn ∨ !(fmSources b).contains (rSrc a.route) ∨ !ctlZeros a.route a.op a.tag ∨ rLen a.route < 32 ∨
      !ctlOk m (rLen a.route) then
    { b with fm := { b.fm with rejected := b.fm.rejected + 1 } }
  else if 64 ≤ b.fm.queue.length then
    { b with route := { b.route with controlDrops := b.route.controlDrops + 1 } }
  else { b with fm := { b.fm with queue := b.fm.queue ++ [m] } }

/-! ### Requests for this home -/

/-- The home access of a request packet under slot k (R172, R491). -/
def remoteOp (a : Arrival) (k : Nat) (what : HomeWhat) (hint : BitVec 2) (dt : Option (Nat × Nat)) : HomeOp :=
  { id := 0
    origin := .remote (BitVec.ofNat 13 (rSrc a.route)) (rSctx a.route) (BitVec.ofNat 8 (rInc a.route))
      (BitVec.ofNat 16 (bits a.op 127 112)) k
    what, dctx := rDctx a.route, part := ⟨rPart a.route % 4, Nat.mod_lt _ (by decide)⟩, off := bits a.op 111 62, hint, dt
    window := 64, left := 0, grans := [], side := none, poison := false, started := false, old := 0 }

/-- READ (R482, R128, R213). -/
def takeRead (a : Arrival) (k : Nat) (b : Block) : Block :=
  let n := bits a.op 61 55
  homeAccess (remoteOp a k (.read n) (BitVec.ofNat 2 (bits a.op 54 53)) none) 0 n (some k) none 0 0 b

/-- DTV, DT and an amount as an increment (R482). -/
def dtField (op : Quad) (dtv lo amount : Nat) : Option (Nat × Nat) :=
  if bitAt op dtv then some (bits op (lo + 11) lo, amount) else none

/-- WRITE (R484). -/
def takeWrite (a : Arrival) (k : Nat) (b : Block) : Block :=
  let off := bits a.op 111 62
  let masked := bitAt a.op 45
  let len := rLen a.route
  let mask : Word := if masked then w64 (bytesNat (slice a.payload 0 8)) else maskOf (off % 64) len
  let data := if masked then granOf 0 (slice a.payload 8 64) else granOf (off % 64) (slice a.payload 0 len)
  let amount := if bitAt a.op 46 then 1 else if masked then (maskBits mask).length else len
  let o := remoteOp a k .write (BitVec.ofNat 2 (bits a.op 61 60)) (dtField a.op 59 47 amount)
  let (first, span) := if masked then maskSpan mask else (0, len)
  match check10 b o.part.val o.dctx 1 (off + first) span (some k) none with
  | .pass w => homeBegin { o with window := w } mask data [] b
  | .fail st prot => homeAnswer o st 0 0 prot (countDt o true (countNack o.dctx st b))

/-- ATOMIC (R485, R186). -/
def takeAtomic (a : Arrival) (k : Nat) (b : Block) : Block :=
  let ty := BitVec.ofNat 2 (bits a.op 58 57)
  let o := remoteOp a k
    (.atomic (BitVec.ofNat 3 (bits a.op 61 59)) ty (bitAt a.op 56) (w64 (bytesNat (slice a.payload 0 8)))
      (w64 (bytesNat (slice a.payload 8 8)))) hintKeep (dtField a.op 55 43 1)
  homeAccess o 2 (atomBytes ty) (some k) none 0 0 b

/-- SIGNAL (R135, R483, R491, R741): its increment goes to the tally unit, which discards it where R86 says so;
the answer carries what the checks of check 10 that apply to it say. -/
def takeSignal (a : Arrival) (k : Nat) (b : Block) : Block :=
  let d := rDctx a.route
  let amount := bits a.op 99 68 + bits a.op 67 60 * 2 ^ 32
  let b := enqueueIncr { ctx := d, idx := bits a.op 111 100, amount, err := bitAt a.op 59, part := some (rPart a.route)
                         seq := none } b
  let st := match check10 b (rPart a.route) d 3 0 0 none none with
    | .pass _ => Status.ok
    | .fail st _ => st
  if bits a.op 127 126 = 2 then b
  else
    sendResp (rSrc a.route) (rSctx a.route) d (BitVec.ofNat 8 (rInc a.route)) (BitVec.ofNat 16 (bits a.op 127 112))
      (rPart a.route) k st false false [] (refSlot k (countNack d st b))

/-- FORWARD (R486, R488). -/
def takeForward (a : Arrival) (k : Nat) (b : Block) : Block :=
  let d0 : Quad := BitVec.ofNat 128 (bytesNat (slice a.payload 0 16))
  let d1 : Quad := BitVec.ofNat 128 (bytesNat (slice a.payload 16 16))
  let clen := bits a.op 59 47
  homeForward (remoteOp a k (.forward d0 d1 clen) hintStream none) (BitVec.ofNat 13 (rSrc a.route)) (rSctx a.route)
    (BitVec.ofNat 8 (rInc a.route)) (BitVec.ofNat 16 (bits a.op 127 112)) k d0 d1 clen b

/-- The quarantine entry that DATA for a chunk of this node's own maintenance transfer may pass (R253, R254). -/
def maintOf (ack : Nat) (reqId : BitVec 16) (b : Block) : Option Nat :=
  let r := b.rack (bits reqId 13 10)
  if ack = b.route.self.toNat ∧ bits reqId 15 14 = 1 ∧ (r.inflight.any fun k => k.slot == bits reqId 9 0) then
    r.run.bind fun x => x.maint
  else none

/-- DATA (R487, R489; check 7 for `transit`). -/
def takeData (a : Arrival) (k : Nat) (b : Block) : Block :=
  let e := a.ext.getD 0
  let csv := bitAt a.op 45
  let len := rLen a.route
  homeData
    { ack := bits a.op 12 0, sctx := rSctx a.route, inc := BitVec.ofNat 8 (rInc a.route)
      reqId := BitVec.ofNat 16 (bits a.op 127 112), slot := k, part := ⟨rPart a.route % 4, Nat.mod_lt _ (by decide)⟩
      dctx := rDctx a.route, off := bits a.op 111 62, hint := BitVec.ofNat 2 (bits a.op 61 60)
      dt := dtField a.op 59 47 (if bitAt a.op 46 then 1 else len), bytes := slice a.payload 0 len, len
      carry := if csv && bitAt e 62 then some (bits e 47 0, BitVec.ofNat 32 (bits a.op 44 13)) else none
      mismatch := csv && bitAt e 63
      notice := if rPoison a.route then some (statusOf (byteAt a.payload 0).toNat) else none
      transit := a.psn } (maintOf (bits a.op 12 0) (BitVec.ofNat 16 (bits a.op 127 112)) b) b

/-! ### The checks -/

/-- A damaged collective packet comes from a counterpart at its level and names an instance that this node holds
(Table 6.8). -/
def collDamaged (a : Arrival) (b : Block) : Bool :=
  match groupOf b (bits a.op 127 118) with
  | none => false
  | some g =>
    decide (bits a.op 63 61 ≤ 3) && (instFor b (bits a.op 127 118) (bits a.op 117 86)).isSome &&
      (if bits a.op 63 61 = 2 then g.nodes.contains (rSrc a.route)
       else (g.indexOf (bits a.op 67 64) (rSrc a.route)).isSome)

/-- Checks 5 to 10 of a packet for this node (R495); a collective packet that waits stays in its ingress
buffer. The extension's own zero bits show only once the packet is decrypted. -/
def takePacket (a : Arrival) (b : Block) : Block :=
  let ty := rType a.route
  let free (b : Block) : Block := releaseIngress a.strait a.id b
  if !isMember b (rPart a.route) (rSrc a.route) then free (stranger 2 a.route b)
  else match matchSlot b (rWeight a.route) (rKey a.route) (rPart a.route) with
    | none => free (stranger 1 a.route b)
    | some k =>
      if ty = tyColl then
        if a.psn then takeColl a b
        else if a.tagOk then takeColl a (matchPacket true a.strait a.vc.val a.route a.phy b)
        else if collDamaged a b then takeColl a b
        else free (collDiscard (stranger 0 a.route b))
      else if ty = tyData ∧ a.psn then free (takeData a k (refSlot k b))
      else if !a.tagOk then free (stranger 0 a.route b)
      else if !extOk a.ext then free { b with route := { b.route with malformed := b.route.malformed + 1 } }
      else
        let b := free (matchPacket true a.strait a.vc.val a.route a.phy b)
        if ty = tyResp then
          if respHeld b a.route a.op then takeResp a.route a.op a.payload b
          else b.modCtx (rDctx a.route) fun x => { x with late := x.late + 1 }
        else if ty = tySignal then takeSignal a k b
        else
          let b := refSlot k b
          if ty = tyRead then takeRead a k b
          else if ty = tyWrite then takeWrite a k b
          else if ty = tyAtomic then takeAtomic a k b
          else if ty = tyForward then takeForward a k b
          else takeData a k b

/-- What the flits of a packet for this node that have been accepted spell (R476, R479), decrypted under the slot that it
names (R478). A flit of `hits` cannot be read (R39). -/
def readIn (b : Block) (n : StraitId) (vc : Vc) (p : InPkt) (hits : List Nat) (hit : Bool) : Arrival :=
  let head := natBytes 120 (p.flits.headD (0, false)).1.toNat
  let quad (off : Nat) : Quad := BitVec.ofNat 128 (bytesNat (slice head off 16))
  let op := quad 16
  let len := rLen p.route
  let ext : Bool := decide (rType p.route = tyData) && opCsv op
  let body := ((p.flits.flatMap fun f => natBytes 120 f.1.toNat).drop 48).take (len + (if ext then 8 else 0))
  let iv := packetIv (rSrc p.route) (rNonce p.route)
  let key := if rType p.route = tyControl then none
    else (matchSlot b (rWeight p.route) (rKey p.route) (rPart p.route)).map fun k => (b.slot k).key
  let text := match key with
    | some k => gcmText k iv body
    | none => body
  { strait := n, vc, id := p.id, route := p.route, op, tag := quad 32, payload := text.take len
    ext := if ext then some (w64 (bytesNat (text.drop len))) else none
    tagOk := key.any fun k => gcmTag k iv (packetAad p.route op) body == quad 32
    psn := p.flits.any (fun f => f.2) || hits.any (fun i => decide (i ≠ 0 ∧ i < p.need))
    phy := p.phy, hit }

/-- The checks of Table 11.7 on the packet that is next on a VC. Checks 1 to 3 need only its HEAD flit; a packet for this
node waits for its last flit (R501). -/
def arrive (a : Arrival) (whole : Bool) (b : Block) : Block :=
  let free (b : Block) : Block := releaseIngress a.strait a.id b
  let bank := b.bank (rEpoch a.route).toNat
  if malformed a.route a.op then free { b with route := { b.route with malformed := b.route.malformed + 1 } }
  else if bank.st = .opened then free (staleArrival (rSrc a.route) (rEpoch a.route) b)
  else if rDst a.route ≠ b.route.self.toNat then
    if bank.torus then forwardPacket a b
    else free { b with route := { b.route with misdelivered := b.route.misdelivered + 1 } }
  else if !whole then b
  else if rType a.route = tyControl then free (takeControl a b)
  else takePacket a b

/-- The next packet of a VC is looked at when its TYPE is one of `is`; the command of another TYPE says nothing of it. A
HEAD flit that the cellar cannot correct ends the packet (R458); a BODY flit poisons it, once the packet is read whole
(R39). -/
def corePacket (is : Nat → Bool) (n : StraitId) (vc : Vc) (hits : List Nat) (acc : Bool) (b : Block) : Block :=
  match nextIn b n vc.val with
  | none => b
  | some p =>
    if !is (rType p.route) then b
    else if hits.contains 0 then headPoisoned n vc.val (cellarHit 0 (releaseIngress n p.id b))
    else
      let a := readIn b n vc p hits acc
      let whole := p.complete
      let here := whole && decide (rDst a.route = b.route.self.toNat)
      arrive a whole (if here && hits.any (fun i => decide (i < p.need)) then cellarHit 0 b else b)

/-- MALFORMED_PACKET: a TYPE absent from Table 11.2 (R480). -/
def coreMalformedPacket (n : StraitId) (vc : Vc) (hits : List Nat) (acc : Bool) (b : Block) : Block :=
  corePacket (fun ty => !typeOk ty) n vc hits acc b

end Sys2Proof.Machine
end

