-- ==== Sys2Proof/Machine/Seq.lean ====
section
/-!
DEFINITION. Sequencers (02_programs_sequencers_tallies.md Table 2.3, R57 to R62) and the DXI words
(03_dxi_reference.md). The command of a word issues the word at the PC of its sequencer; it has no effect
when that sequencer stands at another word or cannot issue (log 7).
-/

namespace Sys2Proof.Machine

/-! ### Operands -/

/-- A G register. -/
def gReg (s : Seq) (i : Nat) : Word := tget 0 s.g i

/-- A tally operand at bits [lo+12:lo] (R72, R105). -/
def tallyArg (s : Seq) (w : Quad) (lo : Nat) : Nat :=
  if bitAt w (lo + 12) then (gReg s (bits w (lo + 3) lo)).toNat % 4096 else bits w (lo + 11) lo

/-- The second operand of ALU and CMP (Table 3.7). -/
def secondArg (s : Seq) (w : Quad) : Word :=
  match bits w 103 102 with
  | 0 => gReg s (bits w 99 96)
  | 1 => BitVec.signExtend 64 (BitVec.ofNat 32 (bits w 31 0))
  | _ => BitVec.setWidth 64 (tget 0 s.l (bits w 97 96))

/-- G register plus sign-extended OFFSET (R106). -/
def addrArg (s : Seq) (w : Quad) : Word :=
  gReg s (bits w 107 104) + BitVec.signExtend 64 (BitVec.ofNat 32 (bits w 31 0))

/-- Some bit of [63:57] of an address is set (R106). -/
def addrBad (va : Word) : Bool := decide (2 ^ 57 ≤ va.toNat)

/-- The result of ALU (Table 3.7, R117). -/
def aluOp (op : Nat) (a c : Word) : Word :=
  let k := c.toNat % 64
  match op with
  | 0 => a + c
  | 1 => a - c
  | 2 => a * c
  | 3 => a &&& c
  | 4 => a ||| c
  | 5 => a ^^^ c
  | 6 => a <<< k
  | 7 => a >>> k
  | 8 => a.sshiftRight k
  | 9 => if a.toNat ≤ c.toNat then a else c
  | _ => if a.toNat ≤ c.toNat then c else a

/-- The condition of CMP (Table 3.7, R118). -/
def cmpOp (op : Nat) (a c : Word) : Bool :=
  match op with
  | 0 => a == c
  | 1 => a != c
  | 2 => decide (a.toNat < c.toNat)
  | 3 => decide (c.toNat ≤ a.toNat)
  | 4 => decide (a.toInt < c.toInt)
  | _ => decide (c.toInt ≤ a.toInt)

/-- A predicate written. -/
def putPred (p : BitVec 4) (i : Nat) (v : Bool) : BitVec 4 := if v then setBit p i else clearBit p i

/-! ### Issue -/

/-- Sequencer q stands at a word that it can issue (R111). -/
def canIssue (s : Seq) : Bool := s.st == .running && s.hold == .none && !s.stopPending && !s.freezePending

/-- The predicate test of a word (Table 3.1). -/
def testHolds (s : Seq) (w : Quad) : Bool := !bitAt w 119 || (bitAt s.p (bits w 117 116) != bitAt w 118)

/-- Words counted in UTIL.DXI_WORDS. -/
def countWords (n : Nat) (b : Block) : Block :=
  { b with util := { b.util with dxiWords := b.util.dxiWords + w64 n } }

/-- The word at index `at0` has issued and completed without a taken branch; `n` counts it, and a KEYSEL
before it. -/
def wordDone (q at0 n : Nat) (b : Block) : Block := advanceFrom q at0 (countWords n b)

/-- A word faults (R115). -/
def wordFault (q at0 : Nat) (st : Status) (b : Block) : Block :=
  freezeCtx (b.seq q).owner.val 2 st q q at0 (recordFault q at0 st b)

/-- A word that finds no CURRENT slot fails as under a retired key (R740). -/
def wordNoKey (q at0 : Nat) (b : Block) : Block :=
  freezeCtx (b.seq q).owner.val 6 .keyRetired 0xFF q at0 (recordFault q at0 .keyRetired b)

/-- The sequencer holds at its word (R112). -/
def holdAt (q : Nat) (h : Hold) (b : Block) : Block := b.modSeq q fun s => { s with hold := h }

/-- The context of a sequencer. -/
def ownerOf (b : Block) (q : Nat) : Nat := (b.seq q).owner.val

/-- The partition of a sequencer's context. -/
def partOf (b : Block) (q : Nat) : Nat := (b.ctx (ownerOf b q)).part.val

/-- The key that a word uses (R148, R149): `weight` is the slot a KEYSEL WEIGHT named. -/
inductive KeyPick where
  | slot (k : Nat)
  | lost
  | none
  deriving DecidableEq, Repr

/-- The key of a word at its issue. -/
def pickKey (b : Block) (q : Nat) (weight : Option Nat) : KeyPick :=
  match weight with
  | some w => if weightHeld b (partOf b q) w then .slot (12 + w) else .lost
  | none => match currentSlot b (partOf b q) with
    | some k => .slot k
    | none => .none

/-! ### Register and control words -/

/-- SET. -/
def wSet (q at0 : Nat) (w : Quad) (b : Block) : Block :=
  wordDone q at0 1 (b.modSeq q fun s =>
    { s with g := tset s.g (bits w 111 108) (w64 (bits w 63 0)), sealed := sealRegs false [bits w 111 108] s.sealed })

/-- A G register that the second argument of a word reads is one that R408 keeps from view. -/
def secondSealed (s : Seq) (w : Quad) : Bool :=
  match bits w 103 102 with
  | 0 => s.sealed.contains (bits w 99 96)
  | 1 => false
  | _ => s.sealed.contains (16 + bits w 97 96)

/-- ALU; what it computes from a register that R408 keeps from view is kept from view too. -/
def wAlu (q at0 : Nat) (w : Quad) (b : Block) : Block :=
  wordDone q at0 1 (b.modSeq q fun s =>
    { s with g := tset s.g (bits w 111 108) (aluOp (bits w 115 112) (gReg s (bits w 107 104)) (secondArg s w))
             sealed := sealRegs (s.sealed.contains (bits w 107 104) || secondSealed s w) [bits w 111 108] s.sealed })

/-- CMP. -/
def wCmp (q at0 : Nat) (w : Quad) (b : Block) : Block :=
  wordDone q at0 1 (b.modSeq q fun s =>
    { s with p := putPred s.p (bits w 111 110) (cmpOp (bits w 115 112) (gReg s (bits w 107 104)) (secondArg s w)) })

/-- BR, taken (R119). -/
def wBr (q _at0 : Nat) (w : Quad) (b : Block) : Block := setPc q (bits w 10 0) (countWords 1 b)

/-- LOOP (R121, R122, R126). -/
def wLoop (q at0 : Nat) (w : Quad) (b : Block) : Block :=
  let s := b.seq q
  let b := countWords 1 b
  let e := bits w 42 32
  if testHolds s w then
    let count : BitVec 32 :=
      if bits w 115 112 = 0 then BitVec.ofNat 32 (bits w 31 0) else BitVec.setWidth 32 (gReg s (bits w 111 108))
    let d := loopDepth (loopsOf s.words) at0
    let hidden := bits w 115 112 != 0 && s.sealed.contains (bits w 111 108)
    let b := b.modSeq q fun s => { s with l := tset s.l d count, sealed := sealRegs hidden [16 + d] s.sealed }
    setPc q (if count = 0 then e + 1 else at0 + 1) b
  else setPc q (e + 1) b

/-! ### Remote access words -/

/-- A word that needs one of the sequencer's tags (R112). -/
def withTag (q : Nat) (f : Nat → Block → Block) (b : Block) : Block :=
  match seqTag b q with
  | none => holdAt q .tag b
  | some t => f t b

/-- A word that needs a tag, and then a key (R112, R148, R740). -/
def withTagKey (q at0 : Nat) (weight : Option Nat) (f : Nat → Nat → Block → Block) (b : Block) : Block :=
  withTag q (fun t b =>
    match pickKey b q weight with
    | .lost => wordFault q at0 .access b
    | .none => wordNoKey q at0 b
    | .slot k => f t k b) b

/-- The address of a GET or PUT of N registers is out of bounds (R106, R127). -/
def spanBad (va : Word) (bytes : Nat) : Bool :=
  addrBad va || va.toNat % 8 != 0 || decide (64 < va.toNat % 64 + bytes)

/-- GET (R127, R128). -/
def wGet (q : SeqId) (at0 n : Nat) (weight : Option Nat) (w : Quad) (b : Block) : Block :=
  let s := b.seq q
  let va := addrArg s w
  let bytes := 8 * (bits w 114 112 + 1)
  if spanBad va bytes then wordFault q at0 .access b
  else
    withTagKey q at0 weight (fun t k b =>
      seqRequest q t at0 (.read bytes) va (BitVec.ofNat 2 (bits w 103 102)) none (bits w 111 108) k
        (holdAt q .result (countWords n b))) b

/-- PUT (R127, R129). -/
def wPut (q : SeqId) (at0 n : Nat) (weight : Option Nat) (w : Quad) (b : Block) : Block :=
  let s := b.seq q
  let va := addrArg s w
  let regs := bits w 114 112 + 1
  let data := (List.range regs).flatMap fun i => natBytes 8 (gReg s (bits w 111 108 + i)).toNat
  let dt := if bitAt w 103 then some (tallyArg s w 90, bitAt w 115) else none
  if spanBad va (8 * regs) then wordFault q at0 .access b
  else
    withTagKey q at0 weight (fun t k b =>
      seqRequest q t at0 (.write (maskOf (va.toNat % 64) (8 * regs)) (granOf (va.toNat % 64) data)) va
        (BitVec.ofNat 2 (bits w 89 88)) dt 0 k (wordDone q at0 n b)) b

/-- ATOMIC (R130, R131, R133). -/
def wAtomic (q : SeqId) (at0 : Nat) (w : Quad) (b : Block) : Block :=
  let s := b.seq q
  let va := addrArg s w
  let ty : BitVec 2 := BitVec.ofNat 2 (bits w 95 94)
  let res := bitAt w 93
  let dt := if bitAt w 92 then some (tallyArg s w 79, true) else none
  let op : ReqOp := .atomic (BitVec.ofNat 3 (bits w 115 112)) ty res (gReg s (bits w 103 100)) (gReg s (bits w 99 96))
  if addrBad va ∨ va.toNat % atomBytes ty ≠ 0 then wordFault q at0 .access b
  else
    withTagKey q at0 none (fun t k b =>
      seqRequest q t at0 op va hintKeep dt (bits w 111 108) k
        (if res then holdAt q .result (countWords 1 b) else wordDone q at0 1 b)) b

/-! ### Signals, waits and fences -/

/-- A peer descriptor breaks R107. -/
def peerBad (d : Word) : Bool := bits d 63 20 != 0 || bits d 15 13 != 0

/-- SIGNAL (R135, R136). -/
def wSignal (q : SeqId) (at0 : Nat) (w : Quad) (b : Block) : Block :=
  let s := b.seq q
  let amount := if bitAt w 113 then bits (gReg s (bits w 107 104)) 31 0 else bits w 31 0
  let idx := tallyArg s w 91
  let d := gReg s (bits w 111 108)
  if bitAt w 112 then
    if peerBad d then wordFault q at0 .access b
    else if amount = 0 then wordDone q at0 1 b
    else
      withTagKey q at0 none (fun t k b =>
        seqRequest q t at0 (.signal (BitVec.ofNat 32 amount) (some (BitVec.ofNat 13 (bits d 12 0), bits d 19 16)))
          0 hintKeep (some (idx, true)) 0 k (wordDone q at0 1 b)) b
  else
    let b := wordDone q at0 1 b
    if amount = 0 then b
    else enqueueIncr { ctx := s.owner.val, idx, amount, err := false, part := some (partOf b q), seq := none, sig := some q.val } b

/-- The comparison of R83. -/
def reached (tally target : Word) : Bool :=
  decide ((tally.toNat % 2 ^ 63 + 2 ^ 63 - target.toNat % 2 ^ 63) % 2 ^ 63 < 2 ^ 62)

/-- WAIT (R84, R85, R138). -/
def wWait (q at0 : Nat) (w : Quad) (b : Block) : Block :=
  let s := b.seq q
  let t := tallyArg s w 91
  let target := gReg s (bits w 107 104)
  let v := b.tallyOf s.owner.val t
  if reached v target then
    wordDone q at0 1 (b.modSeq q fun s => { s with p := putPred s.p (bits w 111 110) (bitAt v 63) })
  else
    countWords 1 (b.modSeq q fun s =>
      { s with st := .waiting, waitTally := BitVec.ofNat 12 t, waitTarget := target, waitPd := BitVec.ofNat 2 (bits w 111 110)
               sealed := sealRegs (s.sealed.contains (bits w 107 104)) [20] s.sealed })

/-- A request of sequencer q that a FENCE covers: all but its reads (R139). -/
def fenced (q : Nat) (r : PReq) : Bool :=
  (match r.src with
   | .seq p _ => p.val == q
   | .tile .. => false) &&
  (match r.op with
   | .read _ => false
   | _ => true)

/-- Some transfer of sequencer q has not ended. -/
def movesOpen (b : Block) (q : Nat) : Bool :=
  b.racks.any fun r => (r.2.run.any fun x => x.seq.val == q) || r.2.queue.any fun x => x.seq.val == q

/-- What a FENCE waits for has happened (R139, R140). -/
def fenceClear (b : Block) (q kind : Nat) : Bool :=
  let quiet := !(b.tally.incs.any fun i => i.sig == some q)
  match kind with
  | 0 => quiet && b.portal.reqs.all fun r => !fenced q r || r.stage == .sent || r.stage == .done
  | 1 => quiet && b.portal.reqs.all fun r => !fenced q r
  | _ => !movesOpen b q

/-- FENCE (R139). -/
def wFence (q at0 : Nat) (w : Quad) (b : Block) : Block :=
  let kind := bits w 115 112
  if fenceClear b q kind then wordDone q at0 1 b
  else countWords 1 (b.modSeq q fun s => { s with hold := .fence, fenceKind := BitVec.ofNat 4 kind })

/-- The last operation covered by a waiting FENCE has landed. -/
def coreFenceRelease (q : Nat) (b : Block) : Block :=
  let s := b.seq q
  if s.hold = .fence ∧ s.st = .running ∧ fenceClear b q s.fenceKind.toNat then
    advance q (b.modSeq q fun s => { s with hold := .none })
  else b

/-! ### MOVE -/

/-- The physical engine of an engine operand (R72, R108). -/
def engineArg (s : Seq) (w : Quad) : Nat :=
  let k := if bitAt w 99 then (gReg s (bits w 98 95)).toNat % s.engines.length else bits w 98 95
  s.engines.getD k 0

/-- MOVE (R141 to R145, R235). A MOVE of length 0 takes no place in a queue; no rule gives the transfer
serial of its trace record, which is free (log 4). -/
def wMove (q : SeqId) (at0 n : Nat) (weight : Option Nat) (w : Quad) (b : Block) : Block :=
  let s := b.seq q
  let src := gReg s (bits w 111 108)
  let dst := gReg s (bits w 107 104)
  let len := (gReg s (bits w 103 100)).toNat
  let e := engineArg s w
  let c := s.owner.val
  let ct := if bitAt w 112 then some (tallyArg s w 69) else none
  let lost : Bool := match weight with
    | some k => !weightHeld b (partOf b q) k
    | none => false
  if addrBad src ∨ addrBad dst ∨ src.toNat % 64 ≠ 0 ∨ dst.toNat % 64 ≠ 0 ∨ len % 64 ≠ 0 ∨ 2 ^ 40 ≤ len ∨ lost then
    wordFault q at0 .access b
  else if len = 0 then
    let (ref, b) := b.fresh
    let b := traceEvent 5 e 0 ref q c 0 at0 (wordDone q at0 n b)
    match ct with
    | some t => enqueueIncr { ctx := c, idx := t, amount := 1, err := false, part := some (partOf b q), seq := some q.val } b
    | none => b
  else if 4 ≤ (b.rack e).queue.length then holdAt q .engine b
  else
    let serial := (b.rack e).serial + 1
    let x : Xfer :=
      { seq := q, ctx := c, pc := BitVec.ofNat 11 at0, src, dst, len,
        dt := if bitAt w 113 then some (tallyArg s w 82, bitAt w 114) else none, ct,
        hint := BitVec.ofNat 2 (bits w 68 67), rate := bits w 66 64, weight, key := none, lent := 0, asked := 0,
        issued := 0, chunks := 0, errored := false, firstErr := 0, stopped := false, last := none, maint := none,
        serial }
    let b := b.modRack e fun r => { r with queue := r.queue ++ [x], serial }
    let b := traceEvent 5 e (w64 len) (w64 serial) q c 0 at0 b
    rackNext e (wordDone q at0 n b)

/-! ### COLL and FERRY -/

/-- Instances that count as unfinished for R153 and R270: issued and in the table, which one leaves when it is
finished (R154, R318). -/
def unfinished (b : Block) (p : Inst → Bool) : Nat :=
  (b.press.insts.filter fun x => decide (x.1 < 256) && x.2.st != .free && x.2.st != .ending && x.2.issued && p x.2).length

/-- A word that starts an instance holds for one of its program's, or for a slot of its group (R153, R270). An
instance that has ended keeps its index until its last write is visible (R313), so the word holds for that too. -/
def instRoom (b : Block) (q gid : Nat) (g : Group) : Bool :=
  decide (unfinished b (fun x => x.seq == q) < (b.seq q).instances ∧ unfinished b (fun x => x.group == gid) < g.slots) &&
    ((instFor b gid g.nextSeq).isSome || (freeInst b q).isSome)

/-- An instance has been issued: the word is done unless it froze its own sequencer. -/
def afterIssue (q at0 : Nat) (b : Block) : Block :=
  if (b.seq q).st = .running then wordDone q at0 1 b else countWords 1 b

/-- COLL (R150 to R154). -/
def wColl (q : SeqId) (at0 : Nat) (w : Quad) (b : Block) : Block :=
  let s := b.seq q
  let gid := bits w 95 86
  match groupOf b gid with
  | none => b
  | some g =>
    let kind := bits w 115 112
    let ty := bits w 83 79
    let count := (gReg s (bits w 103 100)).toNat
    let root := (gReg s (bits w 99 96)).toNat
    let rooted := kind == kBroadcast || kind == kReduce
    let step := if byRank kind then g.n * tyBlock ty else tyBlock ty
    let x : Inst :=
      { kind, gs := gReg s (bits w 111 108), gd := gReg s (bits w 107 104), count, root := if rooted then root else 0,
        op := bits w 85 84, ty, carry := bitAt w 78, rt := tallyArg s w 65, hint := BitVec.ofNat 2 (bits w 64 63) }
    let past (va : Word) (dst : Bool) : Bool := decide (2 ^ 57 < va.toNat + bufBytes ty (bufTotal g x dst))
    if x.gs.toNat % 64 ≠ 0 ∨ x.gd.toNat % 64 ≠ 0 ∨ count = 0 ∨ 2 ^ 32 ≤ count ∨ count % step ≠ 0 ∨
        (rooted ∧ g.n ≤ root) ∨ past x.gs false ∨ past x.gd true then wordFault q at0 .access b
    else if !instRoom b q gid g then holdAt q .inst b
    else if !groupBlocked b gid ∧ !collTiled b g (collShape g x) then collFault q at0 gid g b
    else afterIssue q at0 (collIssue q at0 gid x b)

/-- FERRY (R155 to R158). -/
def wFerry (q : SeqId) (at0 : Nat) (w : Quad) (b : Block) : Block :=
  let s := b.seq q
  let gid := bits w 105 96
  match groupOf b gid with
  | none => b
  | some g =>
    let op := bits w 115 112
    let n := bits w 107 106 + 1
    let va := gReg s (bits w 92 89)
    let v : BitVec 256 := BitVec.ofNat 256 (packNat ((List.range n).map fun i => (64 * i, (gReg s (bits w 111 108 + i)).toNat)))
    if op ≠ opBarrier ∧ spanBad va (8 * n) then wordFault q at0 .access b
    else if !instRoom b q gid g then holdAt q .inst b
    else
      afterIssue q at0 (ferryIssue q at0 gid op (bits w 95 93) n (if op = opBarrier then 0 else v)
        (if op = opBarrier then 0 else va) (tallyArg s w 76) b)

/-! ### Observation -/

/-- WATCH (R163, R164). -/
def wWatch (q : SeqId) (at0 : Nat) (w : Quad) (b : Block) : Block :=
  let s := b.seq q
  let ga := gReg s (bits w 111 108)
  let len := (gReg s (bits w 107 104)).toNat
  let id := bits w 21 16
  if addrBad ga ∨ ga.toNat % 64 ≠ 0 ∨ len % 64 ≠ 0 ∨ len = 0 ∨ 2 ^ 20 < len ∨ 2 ^ 57 < ga.toNat + len then
    wordFault q at0 .access b
  else if watchAccepts b id s.owner.val (bits w 15 0) then
    watchIssue q at0 id (bits w 15 0) ga len (countWords 1 b)
  else wordDone q at0 1 b

/-- MARK (R165, Table 15.5); it traces no value that R408 keeps from view. -/
def wMark (q at0 : Nat) (w : Quad) (b : Block) : Block :=
  let s := b.seq q
  let g := if s.sealed.contains (bits w 111 108) then 0 else gReg s (bits w 111 108)
  wordDone q at0 1 (traceEvent (bits w 115 112) (bits w 15 0) g 0 q s.owner.val 0 at0 b)

/-! ### PERMIT -/

/-- PERMIT ACQUIRE (R159): the increase over the holding is asked for (Table 14.3). -/
def wAcquire (q : SeqId) (at0 : Nat) (w : Quad) (b : Block) : Block :=
  let s := b.seq q
  let units := bits w 8 0
  if units ≤ s.permitHeld then wordDone q at0 1 (lowerHolding q units b)
  else askPermit (.seq q) (units - s.permitHeld) (b.modSeq q fun s => { s with hold := .permit })

/-- The grant of an ACQUIRE: the holding is as the word set it (R159). -/
def acquireGranted (q units : Nat) (b : Block) : Block :=
  let s := b.seq q
  wordDone q s.pc.toNat 1 (b.modSeq q fun s => { s with permitHeld := s.permitHeld + units, hold := .none })

/-- PERMIT RELEASE (R159). -/
def wRelease (q at0 : Nat) (_w : Quad) (b : Block) : Block := wordDone q at0 1 (lowerHolding q 0 b)

/-- PERMIT AWAKE_SET (R161, R606). -/
def wAwakeSet (q at0 : Nat) (w : Quad) (b : Block) : Block :=
  let m : BitVec 32 := BitVec.setWidth 32 (gReg (b.seq q) (bits w 111 108))
  wordDone q at0 1 (wakeStraits (setBits 32 m) (b.modSeq q fun s => { s with awake := some m }))

/-- PERMIT AWAKE_CLEAR (R161). -/
def wAwakeClear (q at0 : Nat) (_w : Quad) (b : Block) : Block :=
  wordDone q at0 1 (b.modSeq q fun s => { s with awake := none })

/-! ### COMPLETE -/

/-- The completion record (Table 2.8). -/
def recordGran (b : Block) (q : SeqId) (at0 : Nat) (w : Quad) : Granule :=
  let s := b.seq q
  granOf 0 (natBytes 8 s.cseq.toNat ++ natBytes 1 (bits w 7 0) ++ natBytes 1 q.val ++ natBytes 1 s.owner.val ++
    natBytes 1 (bits w 113 112) ++ natBytes 4 at0 ++ natBytes 8 s.tag.toNat ++
    natBytes 8 (gReg s (bits w 111 108)).toNat ++ natBytes 8 b.time.net.toNat)

/-- COMPLETE (R87 to R90, R166 to R168, R745). -/
def wComplete (lees : List Host.Cell) (q : SeqId) (at0 : Nat) (w : Quad) (b : Block) : Block :=
  if (b.seq q).recBusy then holdAt q .record b
  else
    let b := countWords 1 (b.modSeq q fun s => { s with cseq := s.cseq + 1 })
    let s := b.seq q
    let ev : EventEntry :=
      { time := 0, seq := 0, code := 0x20, status := BitVec.ofNat 8 (bits w 7 0), ctx := BitVec.ofNat 8 s.owner.val,
        unit := BitVec.ofNat 8 q.val, arg0 := s.cseq, arg1 := s.tag }
    let b := memWrite (bits s.crecAddr 49 0) hintKeep (~~~0) (recordGran b q at0 w) (.crec q) b
    let b := b.modSeq q fun s => { s with recBusy := true, recEvent := if bitAt w 113 then some ev else none }
    let b := traceEvent 4 0 s.cseq s.tag q s.owner.val (bits w 7 0) at0 b
    let b :=
      if bitAt w 112 then
        let (n, l) := loopBack at0 (loopsEnding s.words at0) s.l
        dropHolding q (b.modSeq q fun s =>
          { s with l, st := .halted, pc := if n = s.words.length then 0 else BitVec.ofNat 11 n })
      else advanceFrom q at0 b
    compatBoundary lees q b

/-- The record is visible (R88, R90, R166, R709). -/
def crecVisible (q : Nat) (b : Block) : Block :=
  let ev := (b.seq q).recEvent
  let b := b.modSeq q fun s => { s with recBusy := false, recEvent := none }
  match ev with
  | some e => raiseEvent 0x20 e.status.toNat e.ctx.toNat e.unit.toNat e.arg0 e.arg1 b
  | none => b

/-! ### KEYSEL -/

/-- A KEYSEL and the word after it, as one unit that the following word predicates (R99, R147 to R149). -/
def wKeysel (q : SeqId) (at0 : Nat) (w : Quad) (b : Block) : Block :=
  let s := b.seq q
  match s.words[at0 + 1]? with
  | none => b
  | some v =>
    let weight := if bits w 115 112 = 1 then some (bits w 1 0) else none
    if !testHolds s v then wordDone q (at0 + 1) 2 b
    else match wOpcode v with
      | 0x10 => wMove q (at0 + 1) 2 weight v b
      | 0x11 => wGet q (at0 + 1) 2 weight v b
      | 0x12 => wPut q (at0 + 1) 2 weight v b
      | _ => b

/-! ### A word's command -/

/-- The word at PC of sequencer q is issued when its opcode is `op` and its sub-operation one of the
command's. A failed predicate test makes it advance PC only (R99); LOOP and KEYSEL see to the test themselves. -/
def dxi (op : Nat) (sub : Nat → Bool) (f : Nat → Quad → Block → Block) (q : SeqId) (b : Block) : Block :=
  let s := b.seq q
  match s.words[s.pc.toNat]? with
  | none => b
  | some w =>
    if !canIssue s ∨ wOpcode w ≠ op ∨ !sub (bits w 115 112) then b
    else if op = 0x05 ∨ op = 0x33 ∨ testHolds s w then f s.pc.toNat w b
    else wordDone q s.pc.toNat 1 b

/-- Any sub-operation. -/
def anySub (_ : Nat) : Bool := true

def coreNop (q : SeqId) (b : Block) : Block := dxi 0x00 anySub (fun i _ => wordDone q i 1) q b
def coreSet (q : SeqId) (b : Block) : Block := dxi 0x01 anySub (wSet q) q b
def coreAlu (q : SeqId) (b : Block) : Block := dxi 0x02 anySub (wAlu q) q b
def coreCmp (q : SeqId) (b : Block) : Block := dxi 0x03 anySub (wCmp q) q b
def coreBr (q : SeqId) (b : Block) : Block := dxi 0x04 anySub (wBr q) q b
def coreLoop (q : SeqId) (b : Block) : Block := dxi 0x05 anySub (wLoop q) q b
def coreMove (q : SeqId) (b : Block) : Block := dxi 0x10 anySub (fun i => wMove q i 1 none) q b
def coreGet (q : SeqId) (b : Block) : Block := dxi 0x11 anySub (fun i => wGet q i 1 none) q b
def corePut (q : SeqId) (b : Block) : Block := dxi 0x12 anySub (fun i => wPut q i 1 none) q b
def coreAtomic (q : SeqId) (b : Block) : Block := dxi 0x13 anySub (wAtomic q) q b
def coreSignal (q : SeqId) (b : Block) : Block := dxi 0x14 anySub (wSignal q) q b
def coreWait (q : SeqId) (b : Block) : Block := dxi 0x15 anySub (wWait q) q b
def coreFence (q : SeqId) (b : Block) : Block := dxi 0x16 anySub (wFence q) q b
def coreColl (q : SeqId) (b : Block) : Block := dxi 0x20 anySub (wColl q) q b
def coreFerry (q : SeqId) (b : Block) : Block := dxi 0x21 anySub (wFerry q) q b
def coreWatch (q : SeqId) (b : Block) : Block := dxi 0x30 anySub (wWatch q) q b
def coreMark (q : SeqId) (b : Block) : Block := dxi 0x31 anySub (wMark q) q b
def corePermitAcquire (q : SeqId) (b : Block) : Block := dxi 0x32 (· == 0) (wAcquire q) q b
def corePermitRelease (q : SeqId) (b : Block) : Block := dxi 0x32 (· == 1) (wRelease q) q b
def coreAwakeSet (q : SeqId) (b : Block) : Block := dxi 0x32 (· == 2) (wAwakeSet q) q b
def coreAwakeClear (q : SeqId) (b : Block) : Block := dxi 0x32 (· == 3) (wAwakeClear q) q b
def coreKeysel (q : SeqId) (b : Block) : Block := dxi 0x33 anySub (wKeysel q) q b
def coreComplete (lees : List Host.Cell) (q : SeqId) (b : Block) : Block := dxi 0x3F anySub (wComplete lees q) q b

/-- A word held before issue is tried again (R112): it issues when it finds what it waited for. -/
def coreSeqHoldRelease (lees : List Host.Cell) (q : SeqId) (b : Block) : Block :=
  let s := b.seq q
  let waits := s.hold == .engine || s.hold == .tag || s.hold == .inst || s.hold == .record
  if s.st ≠ .running ∨ !waits then b
  else
    let b := b.modSeq q fun s => { s with hold := .none }
    match (s.words[s.pc.toNat]?).map wOpcode with
    | some 0x10 => coreMove q b
    | some 0x11 => coreGet q b
    | some 0x12 => corePut q b
    | some 0x13 => coreAtomic q b
    | some 0x14 => coreSignal q b
    | some 0x20 => coreColl q b
    | some 0x21 => coreFerry q b
    | some 0x33 => coreKeysel q b
    | some 0x3F => coreComplete lees q b
    | _ => b

/-- A sequencer that waited after issue has its result and enters FROZEN or HALTED (R114). -/
def coreSeqEnterFrozen (q : SeqId) (b : Block) : Block :=
  let s := b.seq q
  if s.hold ≠ .none ∨ (s.st ≠ .running ∧ s.st ≠ .halted) then b
  else if s.freezePending then
    dropHolding q (b.modSeq q fun s => { s with st := .frozen, freezePending := false, stopPending := false })
  else if s.stopPending then
    dropHolding q (b.modSeq q fun s => { s with st := .halted, stopPending := false })
  else b

/-! ### START, STOP and UNLOAD -/

/-- SEQ[s].CTRL_STATUS. -/
def ctrlStatus (q : Nat) (st : Status) (b : Block) : Block := b.modSeq q fun s => { s with ctrlStatus := st.code }

/-- The owning context of a sequencer is frozen, or being reset. -/
def ownerFrozen (b : Block) (q : Nat) : Bool :=
  (b.seq q).ownerValid && ((b.ctx (ownerOf b q)).st == .frozen || (b.ctx (ownerOf b q)).st == .resetting)

/-- START written (R60, R63, R271, R630); refused in the cycle of a STOP to the same sequencer (R61; log 90). -/
def seqStart (lees : List Host.Cell) (q : SeqId) (b : Block) : Block :=
  let s := b.seq q
  if b.stopped = some q then ctrlStatus q .busyActive b
  else if ownerFrozen b q then ctrlStatus q .access b
  else if (s.st ≠ .loaded ∧ s.st ≠ .halted) ∨ s.draining then ctrlStatus q .busyActive b
  else
    let b := ctrlStatus q .ok (b.modSeq q fun s => { s with st := .running, started := true, stopPending := false })
    let b := traceEvent 3 0 0 s.tag q s.owner.val 0 s.pc.toNat b
    let b := if s.started then b else b.each s.groups (firstCredits q)
    compatBoundary lees q b

/-- STOP written (R57, R113, R114). -/
def seqStop (q : SeqId) (b : Block) : Block :=
  let s := b.seq q
  let b := { ctrlStatus q .ok b with stopped := some q }
  if s.st ≠ .running ∧ s.st ≠ .waiting then b
  else if s.hold = .result ∨ s.hold = .watch then b.modSeq q fun s => { s with stopPending := true }
  else dropHolding q (b.modSeq q fun s => { s with st := .halted, hold := .none })

/-- UNLOAD written (R58, R59). -/
def seqUnload (q : SeqId) (b : Block) : Block :=
  let s := b.seq q
  if s.st = .halted ∧ s.draining then ctrlStatus q .ok b
  else if s.st = .loaded ∨ s.st = .halted then
    ctrlStatus q .ok (dropHolding q (b.modSeq q fun s =>
      { s with st := .halted, draining := true, faultValid := false, faultPc := 0, faultStatus := 0 }))
  else ctrlStatus q .busyActive b

/-- An instance that arrivals created leaves the table with its group's claim (R261, R313). -/
def dropArrived (i : Nat) (b : Block) : Block :=
  let b := dropWaiter (.coll i) 4 18 (endUses (fun u => u.who == .coll i || u.who == .ferry i) b)
  { b with press := { b.press with insts := tdel b.press.insts i } }

/-- A program's claim of a group ends (R261, R312). -/
def dropClaim (g : Nat) (b : Block) : Block :=
  let b := b.each (instsWhere b fun x => x.group == g && !x.issued) dropArrived
  let w := tget 0 b.press.blocked (g / 64)
  { b with press := { b.press with
    groups := b.press.groups.filter fun x => x.1 != g
    blocked := if bitAt w (g % 64) then tset b.press.blocked (g / 64) (clearBit w (g % 64)) else b.press.blocked } }

/-- The program of a sequencer and all that it reserved are released (R59): it is IDLE. -/
def releaseProgram (q : Nat) (b : Block) : Block :=
  let s := b.seq q
  let b := b.each s.engines fun e b => b.modRack e fun r => { r with reservedBy := none }
  let b := b.each s.groups dropClaim
  pressRest (b.modSeq q fun s =>
    { s with st := .idle, draining := false, words := [], engines := [], instances := 0, instSet := [], groups := []
             slotBytes := 0, started := false, hold := .none, stopPending := false, freezePending := false })

/-- Nothing that the program of sequencer q started is still open (R59). -/
def programQuiet (b : Block) (q : Nat) : Bool :=
  !movesOpen b q && !(b.portal.reqs.any fun r => match r.src with
    | .seq p _ => p.val == q
    | .tile .. => false) &&
  !(b.press.insts.any fun x => x.2.st != .free && x.2.issued && x.2.seq == q) &&
  !(b.tally.incs.any fun i => i.seq == some q || i.sig == some q)

/-- The drain of an UNLOAD has ended (R59). -/
def coreUnloadDrainDone (q : SeqId) (b : Block) : Block :=
  let s := b.seq q
  if s.st = .halted ∧ s.draining ∧ programQuiet b q then releaseProgram q b else b

end Sys2Proof.Machine
end

