-- ==== Sys2Proof/Machine/Loader.lean ====
section
/-!
DEFINITION. The loader (02_programs_sequencers_tallies.md R65 to R70, Tables 2.4 and 2.5): what it reads,
its checks of the header, of the words (03_dxi_reference.md R97 to R110, R120, R121, R125, R146) and of the
groups (06_groups_collectives_press.md Table 6.1, R258 to R262, R269), and what an accepted program
reserves.
-/

namespace Sys2Proof.Machine

/-! ### The header (Table 2.4) -/

/-- A granule that the loader has read, by its number in local memory. -/
def gotGran (b : Block) (a : Nat) : LoadGran := tget {} b.loader.grans a

/-- The sequencer of the load in progress. -/
def loadHead (b : Block) : Option Nat := b.loader.queue.head?

/-- The granule of the header of a sequencer's image. -/
def headGran (b : Block) (q : Nat) : Nat := bits (b.seq q).loadAddr 49 6

/-- A number of a granule: bytes [hi:lo]. -/
def granNum (g : Granule) (lo hi : Nat) : Nat := bits g (8 * hi + 7) (8 * lo)

def hWords (h : Granule) : Nat := granNum h 4 5
def hEngines (h : Granule) : Nat := granNum h 6 7
def hInstances (h : Granule) : Nat := granNum h 8 9
def hGroups (h : Granule) : Nat := granNum h 10 11
def hLevel (h : Granule) : Nat := granNum h 2 2
def hNeeds (h : Granule) : Nat := granNum h 16 23
/-- The listed group IDs. -/
def hGroupIds (h : Granule) : List Nat := (List.range (hGroups h)).map fun i => granNum h (32 + 2 * i) (33 + 2 * i)

/-- Checks 1 to 3 of Table 2.5, and the bits of check 4 that name no word: the detail of the first that
fails. -/
def headerFault (h : LoadGran) : Option Nat :=
  let g := h.data
  let mbz := granNum g 3 3 != 0 || granNum g 12 15 != 0 ||
    ((List.range 16).any fun i =>
      let id := granNum g (32 + 2 * i) (33 + 2 * i)
      if i < hGroups g then decide (1024 ≤ id) else id != 0)
  if h.poison ∨ granNum g 0 1 ≠ 0x5844 ∨ mbz ∨ 16 < hGroups g then some 1
  else if hLevel g ≠ 1 ∧ hLevel g ≠ 2 then some 2
  else if hWords g = 0 ∨ 2048 < hWords g then some 3
  else if hNeeds g / 256 ≠ 0 then some 4
  else none

/-! ### What the loader reads -/

/-- The granules of a byte range of local memory. -/
def rangeGrans (off len : Nat) : List Nat :=
  if len = 0 then [] else (List.range ((off + len - 1) / 64 + 1 - off / 64)).map fun i => (off / 64 + i) % 2 ^ 44

/-- A group table entry (Table 6.1). -/
structure GroupTab where
  nested : Bool
  chunk : Nat
  window : Nat
  slots : Nat
  members : Nat
  cls : Nat
  list : Nat
  deriving DecidableEq, Repr

/-- The granule of a group table. -/
def tabGran (b : Block) (g : Nat) : Nat := (bits b.loader.base 49 6 + g) % 2 ^ 44

/-- A group table that has been read, is valid and lies within Table 6.1 (R260). -/
def groupTab (b : Block) (g : Nat) : Option GroupTab :=
  let x := gotGran b (tabGran b g)
  let d := x.data
  let flags := granNum d 0 0
  let t : GroupTab :=
    { nested := flags / 2 % 2 == 1, chunk := granNum d 1 1, window := granNum d 2 2, slots := granNum d 3 3
      members := granNum d 4 5, cls := granNum d 6 6, list := granNum d 8 15 }
  if x.got ∧ !x.poison ∧ flags % 2 = 1 ∧ flags < 4 ∧ 16 ≤ t.chunk ∧ t.chunk ≤ 22 ∧ 1 ≤ t.window ∧ t.window ≤ 8 ∧
      1 ≤ t.slots ∧ t.slots ≤ 64 ∧ 1 ≤ t.members ∧ t.members ≤ (if t.nested then 64 else 8192) ∧ t.cls ≤ 3 ∧
      granNum d 7 7 = 0 ∧ t.list % 8 = 0 ∧ granNum d 16 63 = 0 then some t else none

/-- The granules of a table's member list. Bits [63:50] of LIST and of PRESS.GROUP_BASE, which a local physical
address does not have, are dropped (DESIGN CHOICE, log 94: R258 says nothing of such an address). -/
def listGrans (t : GroupTab) : List Nat := rangeGrans (t.list % 2 ^ 50) (2 * t.members)

/-- The member list of a table, once all of it has been read without poison (R259). -/
def memberList (b : Block) (t : GroupTab) : Option (List Nat) :=
  if (listGrans t).all fun a => (gotGran b a).got && !(gotGran b a).poison then
    some ((List.range t.members).map fun i =>
      let off := t.list % 2 ^ 50 + 2 * i
      granNum (gotGran b (off / 64 % 2 ^ 44)).data (off % 64) (off % 64 + 1))
  else none

/-- The tables beneath a list of tables, as far as they have been read, `fuel` levels deep. -/
def tabsBelow (b : Block) : Nat → List Nat → List Nat
  | 0, gs => gs
  | fuel + 1, gs =>
    let more := gs.flatMap fun g => match groupTab b g with
      | some t => if t.nested then (match memberList b t with
          | some l => l.filter fun m => decide (m < 1024)
          | none => []) else []
      | none => []
    let all := (gs ++ more).eraseDups
    if all.length = gs.length then gs else tabsBelow b fuel all

/-- The granules that the load in progress needs, as far as is known: header, words, group tables, member
lists. -/
def neededGrans (b : Block) (q : Nat) : List Nat :=
  let h := gotGran b (headGran b q)
  headGran b q ::
    (if !h.got ∨ (headerFault h).isSome then []
     else
       let tabs := tabsBelow b 1024 (hGroupIds h.data).eraseDups
       rangeGrans (64 * headGran b q + 64) (16 * hWords h.data) ++ tabs.map (tabGran b) ++
         tabs.flatMap fun g => match groupTab b g with
           | some t => listGrans t
           | none => [])

/-- The loader asks for what it needs and has not asked for (Table 4.7). -/
def loaderAsk (b : Block) : Block :=
  match loadHead b with
  | none => b
  | some q =>
    let new := (neededGrans b q).eraseDups.filter fun a => !b.loader.asked.contains a
    let b := { b with loader := { b.loader with asked := b.loader.asked ++ new } }
    b.each new fun a b => memRead (64 * a) hintStream .loader b

/-- The first load in the queue begins. -/
def loaderBegin (b : Block) : Block :=
  loaderAsk { b with loader := { b.loader with base := b.press.groupBase, grans := [], asked := [] } }

/-- A granule is back. -/
def loaderGran (a : Nat) (poison : Bool) (data : Granule) (b : Block) : Block :=
  loaderAsk { b with loader := { b.loader with grans := tset b.loader.grans a { data, poison, got := true } } }

/-- LOAD written (R66, R67). -/
def seqLoad (q : SeqId) (b : Block) : Block :=
  let s := b.seq q
  if s.st ≠ .idle then ctrlStatus q .busyActive b
  else if !s.ownerValid ∨ !ctxRuns b s.owner.val then ctrlStatus q .access b
  else
    let first := b.loader.queue.isEmpty
    let b := b.modSeq q fun s =>
      { s with st := .loading, loadCount := s.loadCount + 1, loadStatus := Status.notReady.code, loadDetail := 0, loadWord := 0 }
    let b := { b with loader := { b.loader with queue := b.loader.queue ++ [q.val] } }
    if first then loaderBegin b else b

/-! ### Checks 4 to 10: the words -/

/-- The words of the image, with whether their granule is poisoned. -/
def imageWords (b : Block) (q : Nat) (n : Nat) : List (Quad × Bool) :=
  (List.range n).map fun i =>
    let x := gotGran b ((headGran b q + 1 + i / 4) % 2 ^ 44)
    (BitVec.ofNat 128 (granNum x.data (16 * (i % 4)) (16 * (i % 4) + 15)), x.poison)

/-- The level of an opcode (Table 3.4); 0 for one that is not defined. -/
def opLevel (op : Nat) : Nat :=
  if op ≤ 5 ∨ (0x10 ≤ op ∧ op ≤ 0x16) ∨ op = 0x20 ∨ op = 0x31 ∨ op = 0x3F then 1
  else if op = 0x21 ∨ op = 0x30 ∨ op = 0x32 ∨ op = 0x33 then 2
  else 0

/-- Tally operands of a word, by the low bit of their field; a DT or CT whose enable is 0 is no operand, so its bits
fall under check 7 and not check 6 (DEDUCED, log 45). -/
def tallyFields (w : Quad) : List Nat :=
  match wOpcode w with
  | 0x10 => (if bitAt w 113 then [82] else []) ++ (if bitAt w 112 then [69] else [])
  | 0x12 => if bitAt w 103 then [90] else []
  | 0x13 => if bitAt w 92 then [79] else []
  | 0x14 | 0x15 => [91]
  | 0x20 => [65]
  | 0x21 => [76]
  | _ => []

/-- G register fields of a word, by the low bit of the field. -/
def gFields (w : Quad) : List Nat :=
  match wOpcode w with
  | 0x01 => [108]
  | 0x02 => [108, 104] ++ (if bits w 103 102 = 0 then [96] else [])
  | 0x03 => [104] ++ (if bits w 103 102 = 0 then [96] else [])
  | 0x05 => if bits w 115 112 = 1 then [108] else []
  | 0x10 => [108, 104, 100] ++ (if bitAt w 99 then [95] else [])
  | 0x11 | 0x12 => [108, 104]
  | 0x13 => [108, 104, 100, 96]
  | 0x14 => [108, 104]
  | 0x15 => [104]
  | 0x20 => [108, 104, 100, 96]
  | 0x31 | 0x3F => [108]
  | _ => []

/-- Check 4 for one word (R103): a feature that NEEDS does not name. -/
def needsFault (needs : Nat) (w : Quad) : Bool :=
  let lacks (bit : Nat) : Bool := needs / 2 ^ bit % 2 == 0
  match wOpcode w with
  | 0x21 => lacks 5
  | 0x20 =>
    let ty := bits w 83 79
    (bitAt w 78 && lacks 4) || ((ty == 8 || ty == 9) && lacks 2) || (tyMx ty && lacks 1) || (ty == 15 && lacks 3)
  | _ => false

/-- Check 6 for one word of a level 1 program (R101, R121, R127). -/
def level2Fault (loops : List (Nat × Nat)) (i : Nat) (w : Quad) : Bool :=
  let op := wOpcode w
  bitAt w 117 || ((gFields w).any fun lo => bitAt w (lo + 3)) ||
    ((tallyFields w).any fun lo => bitAt w (lo + 12) || bits w (lo + 11) (lo + 10) != 0) ||
    ((op == 3 || op == 0x15) && bitAt w 111) ||
    ((op == 2 || op == 3) && bits w 103 102 == 2 && decide (1 < bits w 99 96) && decide (bits w 99 96 < 4)) ||
    ((op == 0x11 || op == 0x12) && decide (7 < bits w 111 108 + bits w 114 112)) ||
    (op == 5 && decide (1 < loopDepth loops i)) ||
    (op == 0x20 && (bitAt w 78 || (decide (8 ≤ bits w 83 79) && tyKnown (bits w 83 79))))

/-- The bits that the fields of a word take, below bit 116, as (high, low) pairs (Tables 3.7 to 3.15,
R102). -/
def usedFields (w : Quad) : List (Nat × Nat) :=
  let sub := bits w 115 112
  match wOpcode w with
  | 0x01 => [(111, 108), (63, 0)]
  | 0x02 => [(115, 112), (111, 108), (107, 104), (103, 102), if bits w 103 102 = 1 then (31, 0) else (99, 96)]
  | 0x03 => [(115, 112), (111, 110), (107, 104), (103, 102), if bits w 103 102 = 1 then (31, 0) else (99, 96)]
  | 0x04 => [(10, 0)]
  | 0x05 => [(115, 112), (42, 32), if sub = 0 then (31, 0) else (111, 108)]
  | 0x10 => [(114, 95), (68, 64)] ++ (if bitAt w 113 then [(94, 82)] else []) ++ (if bitAt w 112 then [(81, 69)] else [])
  | 0x11 => [(114, 102), (31, 0)]
  | 0x12 => [(115, 103), (89, 88), (31, 0)] ++ (if bitAt w 103 then [(102, 90)] else [])
  | 0x13 => [(115, 112), (107, 100), (95, 92), (31, 0)] ++ (if bitAt w 93 then [(111, 108)] else []) ++
      (if sub = 4 then [(99, 96)] else []) ++ (if bitAt w 92 then [(91, 79)] else [])
  | 0x14 => [(113, 112), (103, 91)] ++ (if bitAt w 112 then [(111, 108)] else []) ++
      (if bitAt w 113 then [(107, 104)] else [(31, 0)])
  | 0x15 => [(111, 110), (107, 91)]
  | 0x16 => [(115, 112)]
  | 0x20 => [(115, 100), (95, 63)] ++ (if sub = 3 ∨ sub = 4 then [(99, 96)] else [])
  | 0x21 => [(115, 112), (105, 96), (88, 76)] ++ (if sub = 6 then [] else [(111, 106), (95, 89)])
  | 0x30 => [(111, 104), (21, 0)]
  | 0x31 => [(115, 108), (15, 0)]
  | 0x32 => [(115, 112)] ++ (if sub = 0 then [(8, 0)] else if sub = 2 then [(111, 108)] else [])
  | 0x33 => [(115, 112)] ++ (if sub = 1 then [(1, 0)] else [])
  | 0x3F => [(113, 108), (7, 0)]
  | _ => []

/-- The values of a word's fields are ones that its table lists (R102, R127, R130, R135, R150, R155, R293). -/
def valuesOk (w : Quad) : Bool :=
  let sub := bits w 115 112
  let ty := bits w 83 79
  let second := if bits w 103 102 = 2 then decide (bits w 99 96 ≤ 3) else bits w 103 102 != 3
  match wOpcode w with
  | 0x02 => decide (sub ≤ 10) && second
  | 0x03 => decide (sub ≤ 5) && second
  | 0x05 => decide (sub ≤ 1)
  | 0x10 => bits w 68 67 != 3 && decide (bits w 66 64 ≤ 4)
  | 0x11 => bits w 103 102 != 3 && decide (bits w 111 108 + bits w 114 112 ≤ 15)
  | 0x12 => bits w 89 88 != 3 && decide (bits w 111 108 + bits w 114 112 ≤ 15)
  | 0x13 => decide (sub ≤ 7) && atomicPair (BitVec.ofNat 3 sub) (BitVec.ofNat 2 (bits w 95 94))
  | 0x14 => bitAt w 113 || bits w 31 0 != 0
  | 0x16 => decide (sub ≤ 2)
  | 0x20 => decide (sub ≤ 4) && bits w 85 84 != 3 && ((sub != 2 && sub != 3) || bits w 85 84 == 0) && tyKnown ty &&
      !(bitAt w 78 && (tyMx ty || ty == 15)) && bits w 64 63 != 3
  | 0x21 => decide (sub ≤ 6) && decide (bits w 95 93 ≤ 3) &&
      (decide (sub < 3) || sub == 6 || decide (bits w 95 93 ≤ 1)) && decide (bits w 111 108 + bits w 107 106 ≤ 15)
  | 0x31 => decide (sub ≤ 2)
  | 0x32 => decide (sub ≤ 3) && (sub != 0 || (bits w 8 0 != 0 && decide (bits w 8 0 ≤ 350)))
  | 0x33 => decide (sub ≤ 1)
  | 0x3F => decide (bits w 7 0 ≤ 0x0C)
  | _ => true

/-- Words that a KEYSEL may stand before (R146). -/
def keyedOp (op : Nat) : Bool := op == 0x10 || op == 0x11 || op == 0x12

/-- The word targets that a word names: BR its TARGET, LOOP the places where it may send PC (R122, R123,
R126). -/
def targetsOf (i : Nat) (w : Quad) : List Nat :=
  match wOpcode w with
  | 0x04 => [bits w 10 0]
  | 0x05 => [i + 1, bits w 42 32 + 1]
  | _ => []

/-- Check 7 for the word at i (R97, R100, R102, R105, R146, R147). -/
def reservedFault (ops : List Nat) (i : Nat) (w : Quad) : Bool :=
  let used (k : Nat) : Bool := (usedFields w).any fun f => decide (f.2 ≤ k ∧ k ≤ f.1)
  ((List.range 116).any fun k => bitAt w k && !used k) ||
    (!bitAt w 119 && bits w 118 116 != 0) || !valuesOk w ||
    ((tallyFields w).any fun lo => bitAt w (lo + 12) && bits w (lo + 11) (lo + 4) != 0) ||
    (wOpcode w == 0x33 && (bitAt w 119 || !keyedOp (ops.getD (i + 1) 0xFF))) ||
    ((targetsOf i w).any fun t => decide (0 < t) && ops.getD (t - 1) 0xFF == 0x33)

/-- Check 8 for the word at i (R104, R119, R120, R125). -/
def targetFault (n : Nat) (loops : List (Nat × Nat)) (i : Nat) (w : Quad) : Bool :=
  let op := wOpcode w
  let t := bits w 10 0
  let e := bits w 42 32
  (op == 4 && (decide (n ≤ t) ||
    loops.any fun l => decide (l.1 < t ∧ t ≤ l.2) && !decide (l.1 < i ∧ i ≤ l.2))) ||
    (op == 5 && !decide (i < e ∧ e < n)) ||
    (decide (i + 1 = n) && (bitAt w 119 || !(op == 4 || (op == 0x3F && bitAt w 112))))

/-- Check 9 for the word at i (R121). -/
def depthFault (level : Nat) (loops : List (Nat × Nat)) (i : Nat) (w : Quad) : Bool :=
  wOpcode w == 5 &&
    ((level == 2 && decide (3 < loopDepth loops i)) ||
      loops.any fun l => decide (l.1 < i ∧ i ≤ l.2 ∧ l.2 < bits w 42 32))

/-- Check 10 for one word (R72, R150). -/
def undeclaredFault (engines : Nat) (groups : List Nat) (w : Quad) : Bool :=
  match wOpcode w with
  | 0x10 => engines == 0 || (!bitAt w 99 && decide (engines ≤ bits w 98 95))
  | 0x20 => !groups.contains (bits w 95 86)
  | 0x21 => !groups.contains (bits w 105 96)
  | _ => false

/-- The first word that fails a check. -/
def firstFault (p : Nat → Quad → Bool) (ws : List Quad) : Option Nat :=
  ((List.range ws.length).zip ws).findSome? fun x => if p x.1 x.2 then some x.1 else none

/-- Checks 4 to 10: detail and word of the first that fails (R69). A poisoned word fails check 5 and meets no
other check. -/
def wordsFault (level needs engines : Nat) (groups : List Nat) (iw : List (Quad × Bool)) : Option (Nat × Nat) :=
  let ws := iw.map fun x => if x.2 then (0 : Quad) else x.1
  let ops := ws.map wOpcode
  let loops := loopsOf ws
  let bad5 (i : Nat) (w : Quad) : Bool :=
    (iw.getD i (0, false)).2 || opLevel (wOpcode w) == 0 || decide (level < opLevel (wOpcode w))
  let checks : List (Nat × (Nat → Quad → Bool)) :=
    [(4, fun _ w => needsFault needs w), (5, bad5),
     (6, fun i w => level == 1 && level2Fault loops i w), (7, reservedFault ops),
     (8, targetFault ws.length loops), (9, depthFault level loops),
     (10, fun _ w => undeclaredFault engines groups w)]
  checks.findSome? fun c => (firstFault c.2 ws).map fun i => (c.1, i)

/-! ### Check 11: the groups -/

/-- The tree of a group: shape, leaves with index 1 varying fastest, tables (R259, R260). -/
def groupTree (b : Block) : Nat → Nat → Option (List Nat × List Nat × List Nat)
  | 0, _ => none
  | fuel + 1, g =>
    match groupTab b g with
    | none => none
    | some t =>
      match memberList b t with
      | none => none
      | some l =>
        if !t.nested then (if l.all fun n => decide (n < 8192) then some ([t.members], l, [g]) else none)
        else if l.any fun m => decide (1024 ≤ m) then none
        else
          let subs := l.map (groupTree b fuel)
          if subs.any fun s => s.isNone then none
          else
            let subs := subs.filterMap id
            let shape := (subs.head?.map fun s => s.1).getD []
            if subs.all fun s => s.1 == shape then
              some (shape ++ [t.members], subs.flatMap fun s => s.2.1, g :: subs.flatMap fun s => s.2.2)
            else none

/-- No entry of a list appears twice. -/
def distinct (l : List Nat) : Bool := l.eraseDups.length == l.length

/-- The path of a position among the leaves. -/
def leafPath : List Nat → Nat → List Nat
  | [], _ => []
  | m :: s, i => i % m :: leafPath s (i / m)

/-- The claim of one listed group, when check 11 passes (R260 to R262, R494). -/
def claimOf (b : Block) (q : Nat) (g : Nat) : Option Group :=
  let s := b.seq q
  match groupTab b g, groupTree b 1024 g with
  | some t, some (shape, nodes, tabs) =>
    match (List.range nodes.length).find? fun i => nodes.getD i 0 == b.route.self.toNat with
    | none => none
    | some i =>
      if distinct tabs ∧ distinct nodes ∧ (shape.filter fun m => m != 1).length ≤ 15 ∧ (nodes.all fun n => isMember b (partOf b q) n) ∧ (groupOf b g).isNone then
        finOf 64 q |>.map fun q =>
          { seq := q, ctx := s.owner.val, shape, path := leafPath shape i, nodes, chunk := t.chunk, window := t.window,
            slots := t.slots, cls := t.cls, nextSeq := 0, credits := [], grants := [] }
      else none
  | _, _ => none

/-- Check 11 for a group that a FERRY word names: at most 4 levels with more than one member, and at most 64 members
at a level (R325). -/
def ferryFits (ws : List Quad) (c : Nat × Group) : Bool :=
  !(ws.any fun w => wOpcode w == 0x21 && bits w 105 96 == c.1) ||
    (decide (c.2.levels.length ≤ 4) && c.2.shape.all fun m => decide (m ≤ 64))

/-! ### Checks 12 to 15, and the reservations -/

/-- A_w of a COLL word (R269). -/
def slotAcc (g : Group) (w : Quad) : Nat :=
  if !reduces (bits w 115 112) then 0
  else
    let ty := bits w 83 79
    let bl := tyBlock ty
    ((g.levels.map fun l =>
      bl * ceilDiv (chunkE g.chunk ty) ((g.shape.take l).foldl (· * ·) 1 * bl)).foldl (· + ·) 0) *
        carryBytes ty (bitAt w 78)

/-- Z_g (R269). -/
def slotSize (gid : Nat) (g : Group) (ws : List Quad) : Nat :=
  let a := ((ws.filter fun w => wOpcode w == 0x20 && bits w 95 86 == gid).map (slotAcc g)).foldl max 0
  ceilDiv (512 + g.window * a) 4096 * 4096

/-- Engines of a context's mask that no program has reserved. -/
def freeEngines (b : Block) (c : Nat) : List Nat := (ownEngines b c).filter fun e => (b.rack e).reservedBy.isNone

/-- Instance indices that no program has reserved. -/
def freeInsts (b : Block) : List Nat :=
  let used := b.seqs.flatMap fun s => s.2.instSet
  (List.range 256).filter fun i => !used.contains i

/-- What the checks find: a refusal with its detail and word, or the claims and the group-slot bytes. -/
inductive Loaded where
  | refused (detail word : Nat)
  | fits (words : List Quad) (claims : List (Nat × Group)) (slotBytes insts : Nat)
  deriving DecidableEq, Repr

/-- The checks of Table 2.5, in order (R69). -/
def loadChecks (b : Block) (q : Nat) : Loaded :=
  let h := gotGran b (headGran b q)
  let g := h.data
  match headerFault h with
  | some d => .refused d 0
  | none =>
    let iw := imageWords b q (hWords g)
    let ids := hGroupIds g
    match wordsFault (hLevel g) (hNeeds g) (hEngines g) ids iw with
    | some (d, w) => .refused d w
    | none =>
      let ws := iw.map fun x => x.1
      let claims := ids.filterMap fun i => (claimOf b q i).map fun c => (i, c)
      if claims.length ≠ ids.length ∨ !distinct ids ∨ !claims.all (ferryFits ws) then .refused 0x0B 0
      else if (freeEngines b (ownerOf b q)).length < hEngines g then .refused 0x0C 0
      else
        let insts := hInstances g + (claims.map fun c => c.2.slots).foldl (· + ·) 0
        if (freeInsts b).length < insts then .refused 0x0D 0
        else
          let bytes := (claims.map fun c => c.2.slots * slotSize c.1 c.2 ws).foldl (· + ·) 0
          if regionKib b * 1024 < slotsReserved b + bytes then .refused 0x0E 0
          else
            match firstFault (fun _ w => wOpcode w == 0x33 && bits w 115 112 == 1 &&
                !weightHeld b (partOf b q) (bits w 1 0)) ws with
            | some i => .refused 0x0F i
            | none => .fits ws claims bytes insts

/-- Everything that the load in progress needs has been read. -/
def loadRead (b : Block) (q : Nat) : Bool := (neededGrans b q).all fun a => (gotGran b a).got

/-- LOAD_STATUS at the end of a load. -/
def loadStatus (q : Nat) (st : Status) (detail word : Nat) (b : Block) : Block :=
  b.modSeq q fun s =>
    { s with loadStatus := st.code, loadDetail := BitVec.ofNat 8 detail, loadWord := BitVec.ofNat 16 word }

/-- A program that passed every check takes its reservations and its place (R62, R70, R108, R261). -/
def takeProgram (q : SeqId) (ws : List Quad) (claims : List (Nat × Group)) (bytes insts : Nat) (b : Block) : Block :=
  let g := (gotGran b (headGran b q)).data
  let es := (freeEngines b (ownerOf b q)).take (hEngines g)
  let is := (freeInsts b).take insts
  let b := b.each es fun e b => b.modRack e fun r => { r with reservedBy := some q }
  let b := { b with press := { b.press with groups := b.press.groups ++ claims } }
  let st : SeqSt := if ctxRuns b (ownerOf b q) then .loaded else .frozen
  b.modSeq q fun s =>
    { s with st, words := ws, engines := es, instances := hInstances g, instSet := is, groups := claims.map fun c => c.1
             slotBytes := bytes, tag := w64 (granNum g 24 31), level := BitVec.ofNat 8 (hLevel g), g := [], sealed := [], p := 0
             l := [], pc := 0, started := false, hold := .none }

/-- The load in progress ends (R66, R70), and the next one begins (R68). -/
def coreLoadChecksEnd (q : SeqId) (b : Block) : Block :=
  if loadHead b ≠ some q.val ∨ !loadRead b q then b
  else
    let b := match loadChecks b q with
      | .refused d w => loadStatus q .refusedFit d w (b.modSeq q fun s => { s with st := .idle })
      | .fits ws claims bytes insts => loadStatus q .ok 0 0 (takeProgram q ws claims bytes insts b)
    let b := { b with loader := { b.loader with queue := b.loader.queue.drop 1, grans := [], asked := [] } }
    if b.loader.queue.isEmpty then b else loaderBegin b

end Sys2Proof.Machine
end

