-- ==== Sys2Proof/Machine/Tally.lean ====
section
/-!
DEFINITION. The tally unit (02_programs_sequencers_tallies.md R76 to R86, R735) and the responses of the
memory port (17_ports_integration.md R687, R688).
-/

namespace Sys2Proof.Machine

/-! ### The tally unit -/

/-- An increment is discarded (R86). -/
def incrRefused (b : Block) (i : Incr) : Bool :=
  let x := b.ctx i.ctx
  x.st != .running || !x.valid || (match i.part with
    | some p => x.part.val != p
    | none => false)

/-- The key of an increment's tally (R74). -/
def incrKey (i : Incr) : Nat := 4096 * i.ctx + i.idx

/-- One increment applied to a tally's value: COUNT modulo 2^63, ERROR sticky (R76, R77). -/
def addIncr (v : Word) (i : Incr) : Word :=
  w64 ((v.toNat % 2 ^ 63 + i.amount) % 2 ^ 63 + if bitAt v 63 || i.err then 2 ^ 63 else 0)

/-- The WAITs that a tally's new value satisfies (R84, R85). -/
def wakeWaits (key : Nat) (b : Block) : Block :=
  let v := tget 0 b.tally.tallies key
  let qs := (List.range 64).filter fun q =>
    let s := b.seq q
    s.st == .waiting && 4096 * s.owner.val + s.waitTally.toNat == key && reached v s.waitTarget
  b.each qs fun q b =>
    advance q (b.modSeq q fun s => { s with st := .running, p := putPred s.p s.waitPd.toNat (bitAt v 63) })

/-- One cycle of the tally unit: discarded increments are counted, and the first four tallies that the
others name are each updated once with all that is ready for them (R735). -/
def coreTallyUpdate (b : Block) : Block :=
  if !b.dpRuns then b
  else
    let bad := b.tally.incs.filter (incrRefused b)
    let good := b.tally.incs.filter fun i => !incrRefused b i
    let keys := (good.map incrKey).eraseDups.take 4
    let now := good.filter fun i => keys.contains (incrKey i)
    let b := b.each bad fun i b => b.modCtx i.ctx fun x => { x with dropped := x.dropped + 1 }
    let tallies := now.foldl (fun t i => tmod 0 t (incrKey i) fun v => addIncr v i) b.tally.tallies
    let b := { b with
      tally := { tallies, incs := good.filter fun i => !keys.contains (incrKey i) }
      util := { b.util with tallyIncrements := b.util.tallyIncrements + w64 now.length } }
    b.each keys wakeWaits

/-! ### Responses of the memory port -/

/-- The outstanding request of a slice and tag, in one direction. -/
def memFind (b : Block) (slice tag : Nat) (write : Bool) : Option MemOut :=
  b.mem.outstanding.find? fun o => o.slice == slice && o.tag == tag && o.req.write == write

/-- A request has its response: its tag is free. -/
def memDone (o : MemOut) (b : Block) : Block :=
  { b with mem := { b.mem with outstanding := b.mem.outstanding.filter fun x => x != o } }

/-- Data of a home-node access is back (R187, R214, R215, R488, Table 5.4). -/
def homeRead (id addr : Nat) (poison : Bool) (data : Granule) (b : Block) : Block :=
  match b.homeOp id with
  | none => b
  | some o =>
    match o.what with
    | .atomic aop ty _ opnd cmp => atomicRead o aop ty opnd cmp poison data b
    | .read n =>
      let b := dropHome id b
      if poison then homeAnswer o .dataPoison 0 0 none (quarEnter o.off b)
      else homeAnswer o .ok (BitVec.ofNat 512 (bits data (8 * (o.off % 64 + n) - 1) (8 * (o.off % 64)))) n none b
    | .forward d0 d1 clen =>
      let b := homeGather id addr poison data b
      match b.homeOp id, o.origin with
      | some o', .remote src sctx inc reqId slot =>
        if o'.poison then
          -- nothing further is read (R488)
          answerForward o' src sctx inc reqId slot d0 d1 clen [] (some .dataPoison) none false
            (dropHome id (forgetReads (fun w => w == .home id) b))
        else if o'.left = 0 then
            let b := dropHome id b
            let bytes := gathered o'.grans o'.off clen
            let sum := o'.side.map fun s => sideWord o'.grans s.1
            let mismatch := match sum with
              | some s => crc32c bytes != s
              | none => false
            answerForward o' src sctx inc reqId slot d0 d1 clen bytes none sum mismatch b
        else b
      | _, _ => b
    | .chunkRead =>
      let b := homeGather id addr poison data b
      match b.homeOp id, o.origin with
      | some o', .chunk e slot => if o'.left = 0 then chunkRead e slot o'.grans o'.poison (dropHome id b) else b
      | _, _ => b
    | .write | .data .. => b

/-- A READ is answered (R687). -/
def coreMemReadData (slice tag : Nat) (poison : Bool) (data : Granule) (b : Block) : Block :=
  match memFind b slice tag false with
  | none => b
  | some o =>
    let addr := o.req.addr.toNat
    let b := memDone o b
    memDrain (match o.req.why with
      | .loader => loaderGran addr poison data b
      | .walk id => walkRead id poison data b
      | .home id => homeRead id addr poison data b
      | .collRead i k => collGranule i k addr poison data b
      | .watchRead id => watchRead id addr poison data b
      | .crec _ | .ferryWrite _ | .ackWord _ | .collWrite .. | .watchWrite _ | .thief _ => b)

/-- A WRITE is visible (R25, R688). -/
def coreMemWriteVisible (slice tag : Nat) (b : Block) : Block :=
  match memFind b slice tag true with
  | none => b
  | some o =>
    let b := memDone o b
    memDrain (atomicNext o.req.addr.toNat <| match o.req.why with
      | .home id => homeVisible id b
      | .crec q => crecVisible q b
      | .ferryWrite i => ferryVisible i b
      | .ackWord a => invFinish a b
      | .collWrite i k bytes use => collVisible i k bytes use b
      | .watchWrite id => watchVisible id b
      | .thief serial => thiefVisible serial b
      | .loader | .walk _ | .collRead .. | .watchRead _ => b)

/-- A request that was refused for a protected range (R405): a table entry, a program image, a completion record, an
acknowledgement word, a record of the thief, a granule of the watch buffer. What the spec gives for each unit's own
request, a context frozen with cause 10, holds for a sequencer's record and for a load; the rest goes on without the
access (log 102). -/
def memRefused (r : MemReq) (b : Block) : Block :=
  let j := (memBarred b r).getD 0
  match r.why with
  | .walk id => walkRefused id j b
  | .loader =>
    let c := (loadHead b).map fun q => (b.seq q).owner.val
    let b := loaderGran r.addr.toNat true 0 b
    match c with
    | some c => freezeCtx c 10 .access j 0xFF 0 b
    | none => b
  | .crec q =>
    let pc := granNum r.data 12 15
    let b := recordFault q pc .access (b.modSeq q fun s => { s with recBusy := false, recEvent := none })
    freezeCtx (b.seq q).owner.val 10 .access j q pc b
  | .ackWord a => invFinish a b
  | .thief serial => thiefVisible serial b
  | .watchWrite id => watchVisible id b
  | .home _ | .ferryWrite _ | .collRead .. | .collWrite .. | .watchRead _ => b

/-- Every request refused in this command is answered (R405). -/
def answerRefused (b : Block) : Block := Block.each b.mem.refused memRefused { b with mem := { b.mem with refused := [] } }

end Sys2Proof.Machine
end

