-- ==== Sys2Proof/Machine/Dump.lean ====
section
/-!
DEFINITION. Dumps into the lees (16_faults_reset_recovery.md R639, R642 to R645, Tables 16.4 and 16.5).
Where a table gives the order of a dump's words but not their places, the registers stand at the offsets of
their own blocks (log 70).
-/

namespace Sys2Proof.Machine

/-- A write to the lees, applied when the command ends. -/
def leesOp (o : LeesOp) (b : Block) : Block := { b with evt := { b.evt with leesOps := b.evt.leesOps ++ [o] } }

/-- Words written into a cleared region: offset and value; a 0 needs no write. -/
def leesPut (base : Nat) (ws : List (Nat × Word)) (b : Block) : Block :=
  b.each (ws.filter fun w => w.2 != 0) fun w b => leesOp (.words (base + w.1) [w.2]) b

/-! ### What a dump holds (R408: registers, addresses and lengths, no data) -/

/-- The context registers at their offsets in the context block, and those of XLAT.CTX[c] from 0x100 (log 70). -/
def ctxWords (b : Block) (c : Nat) : List (Nat × Word) :=
  ((List.range 32).map fun i => (8 * i, readCtx b c (8 * i))) ++
    (List.range 32).map fun i => (0x100 + 8 * i, readXctx b c (8 * i))

/-- The 30 words of a sequencer (Table 16.5). -/
def seqWords (b : Block) (q : Nat) : List (Nat × Word) :=
  let s := b.seq q
  let ws := ((List.range 16).map fun i => shownG s i) ++ ((List.range 4).map fun i => w64 (shownL s i).toNat) ++
    [readSeq b q 0x100, readSeq b q 0x030, readSeq b q 0x008, readSeq b q 0x038, readSeq b q 0x050, readSeq b q 0x048,
      readSeq b q 0x020, readSeq b q 0x040, readSeq b q 0x000, readSeq b q 0x028]
  (List.range ws.length).zip ws |>.map fun x => (8 * x.1, x.2)

/-- The nine registers of an engine, then its queued MOVE words (Table 16.5). -/
def rackWords (b : Block) (e : Nat) : List (Nat × Word) :=
  let moves := (b.rack e).queue.flatMap fun x =>
    let w : Quad := (b.seq x.seq).words.getD x.pc.toNat 0
    [BitVec.ofNat 64 w.toNat, BitVec.ofNat 64 (w.toNat >>> 64)]
  ((List.range 9).map fun i => (8 * i, readRack b e (8 * i))) ++
    ((List.range moves.length).zip moves).map fun x => (72 + 8 * x.1, x.2)

/-- The bytes queued at strait n for a queue, and how long its head has waited. -/
def depthWord (b : Block) (n q : Nat) : Word :=
  let l := queueOf b n q
  word [(32, framesOf l), (0, match l with
    | p :: _ => b.time.loc - p.since
    | [] => 0)]

/-- Tallies of a context that are not 0: index and value. -/
def ctxTallies (b : Block) (c : Nat) : List (Nat × Word) :=
  (b.tally.tallies.filter fun t => t.1 / 4096 == c).map fun t => (t.1 % 4096 * 8, t.2)

/-! ### A context dump -/

/-- The slot of a new dump (R644): the lowest free one, or else the one with the oldest dump; `true` when it is
overwritten. -/
def dumpSlot (b : Block) : Nat × Bool :=
  match (List.range 11).find? fun k => !bitAt b.evt.slots k with
  | some k => (k, false)
  | none => ((leastBy (fun k => tget 0 b.evt.slotSeq k) (List.range 11)).getD 0, true)

/-- A context dump (R639, R644, Table 16.5). -/
def dumpCtx (c : Nat) (b : Block) : Block :=
  let (k, full) := dumpSlot b
  let base := 0x150000 + k * 0x10000
  let n := b.evt.dumpSeq + 1
  let b := { b with evt := { b.evt with
    slots := setBit b.evt.slots k
    slotSeq := tset b.evt.slotSeq k n
    dumpSeq := n
    overwritten := if full then b.evt.overwritten + 1 else b.evt.overwritten } }
  let b := leesOp (.clear base 0x10000) b
  let b := leesPut base (ctxWords b c) b
  let b := leesPut (base + 0x1000) (ctxTallies b c) b
  let b := b.each (ownSeqs b c) fun q b => leesPut (base + 0x9000 + 256 * q) (seqWords b q) b
  let b := b.each (ownEngines b c) fun e b => leesPut (base + 0xD000 + 256 * e) (rackWords b e) b
  let own := (b.press.insts.filter fun x => x.2.st != .free && x.2.ctx == c).map fun x => x.1
  let b := b.each own fun i b => leesPut (base + 0xE000 + 16 * i) [(0, readInst b i 0), (8, readInst b i 8)] b
  let b := b.each (b.egress.map fun x => x.1) fun n b =>
    leesPut (base + 0xF000 + 64 * n) ((List.range 8).map fun j => (8 * j, depthWord b n (8 * c + j))) b
  leesOp (.words (0x100 + 32 * k)
    [word [(0, 1), (8, c), (16, (b.ctx c).frzCause.toNat)], b.time.net, w64 n, 0]) b

/-- LEES.DUMP written (R639). -/
def coreLeesDump (c : Nat) (b : Block) : Block := if (b.ctx c).st = .frozen then dumpCtx c b else b

/-- LEES.SLOTS written (R644): the slots named are free, and their directory entries not valid. -/
def writeSlots (v : Word) (b : Block) : Block :=
  let gone := (List.range 11).filter fun k => bitAt v k && bitAt b.evt.slots k
  let b := { b with evt := { b.evt with slots := w1c b.evt.slots (BitVec.ofNat 11 v.toNat) } }
  b.each gone fun k b => leesOp (.clear (0x100 + 32 * k) 1) b

/-! ### The block dump -/

/-- The block dump and the header capture of a block reset (R645, Tables 16.4 and 16.7). -/
def dumpBlock (cause : Nat) (b : Block) : Block :=
  let base := 0x090000
  let b := leesOp (.clear base 0xC0000) b
  let b := b.each (List.range 16) fun c b => leesPut (base + 0x8000 * c) (ctxTallies b c) b
  let b := b.each (b.seqs.map fun x => x.1) fun q b => leesPut (base + 0x80000 + 256 * q) (seqWords b q) b
  let b := b.each (b.racks.map fun x => x.1) fun e b => leesPut (base + 0x84000 + 256 * e) (rackWords b e) b
  let b := b.each (b.press.insts.map fun x => x.1) fun i b =>
    leesPut (base + 0x85000 + 32 * i) [(0, readInst b i 0), (8, readInst b i 8)] b
  let b := b.each (b.egress.map fun x => x.1) fun n b =>
    leesPut (base + 0x87000 + 133 * 8 * n) ((List.range 133).map fun q => (8 * q, depthWord b n q)) b
  let b := b.each (List.range 16) fun c b => leesPut (base + 0x90000 + 0x1000 * c) (ctxWords b c) b
  let b := leesOp (.clear 0x1000 0xF000) b
  let b := b.each (List.range 32) fun n b =>
    leesPut (0x1000 + 0x200 * n) ((List.range 37).map fun i => (8 * i, readStrait b n (8 * i))) b
  let b := leesPut 0x5000 ((List.range 129).map fun i => (8 * i, readGlob b (8 * i))) b
  let b := { b with maint := { b.maint with blockResets := b.maint.blockResets + 1, cause } }
  leesOp (.words 0 [w64 b.maint.blockResets, w64 cause, b.time.net]) b

end Sys2Proof.Machine
end

