-- ==== Sys2Proof/Machine/Contexts.lean ====
section
/-!
DEFINITION. Contexts (09_contexts_keys_weights.md R382 to R390, R739): binding, FREEZE, RESET and its results
(Table 9.3); groups blocked and ended (R312, R648); key slots emptied (R401, R402); the partition reset
(16_faults_reset_recovery.md R649).
-/

namespace Sys2Proof.Machine

/-! ### What waits for something that is gone -/

/-- Memory requests whose asker is gone: a read completes nothing, a write becomes visible for nobody. -/
def orphanMem (p : MemWhy → Bool) (b : Block) : Block :=
  let f (r : MemReq) : MemReq := if p r.why then { r with why := deadWhy } else r
  let b := forgetReads p b
  { b with mem := {
    outstanding := b.mem.outstanding.map fun o => { o with req := f o.req }
    waiting := b.mem.waiting.map f } }

/-- A tag and an engine that no request and no transfer has: the asker of an access that goes on alone. -/
def deadTag : Nat := 0x10000
def deadEngine : Nat := 0x10000

/-- An asker that is gone. -/
def deadFrom (h : HomeFrom) : HomeFrom :=
  match h with
  | .loop _ => .loop deadTag
  | .chunk _ s => .chunk deadEngine s
  | r => r

/-- Accesses at this home go on, but their asker is no longer told. -/
def orphanHome (gone : HomeFrom → Bool) (b : Block) : Block :=
  let f (o : HomeOp) : HomeOp := if gone o.origin then { o with origin := deadFrom o.origin } else o
  { b with home := { b.home with ops := b.home.ops.map f } }

/-! ### BIND and FREEZE -/

/-- Every sequencer that the context owns is IDLE (R53). -/
def seqsIdle (b : Block) (c : Nat) : Bool := (ownSeqs b c).all fun q => (b.seq q).st == .idle

/-- CTX[c].BIND written (R53, R382, R660). -/
def writeBind (c : Nat) (v : Word) (b : Block) : Block :=
  if !seqsIdle b c ∨ (bitAt v 5 ∧ b.maint.bistState = 1) then b
  else b.modCtx c fun x =>
    { x with
      valid := bitAt v 5
      part := ⟨bits v 1 0 % 4, Nat.mod_lt _ (by decide)⟩
      st := if x.st = CtxSt.unbound ∧ bitAt v 5 then .running
        else if x.st = CtxSt.running ∧ !bitAt v 5 then .unbound else x.st }

/-- CTX[c].ENGINE_MASK written (R53, R55). -/
def writeMask (c : Nat) (v : Word) (b : Block) : Block :=
  let m : BitVec 16 := BitVec.ofNat 16 v.toNat
  let taken := (List.range 16).any fun d => d != c && (b.ctx d).engineMask &&& m != 0
  if !seqsIdle b c ∨ taken then b else b.modCtx c fun x => { x with engineMask := m }

/-- FREEZE written to CTX[c].CTRL (R386). -/
def coreCtxFreeze (c : Nat) (b : Block) : Block := freezeCtx c 9 .ok 0 0xFF 0 b

/-- RST.STATUS.STATUS. -/
def rstStatus (st : Status) (b : Block) : Block := { b with maint := { b.maint with status := st.code } }

/-- RESET written to CTX[c].CTRL (R387, R388): accepted in FROZEN; during a reset of the context, or of what
contains it, refused with BUSY_ACTIVE in RST.STATUS (R653). -/
def coreCtxReset (c : Nat) (b : Block) : Block :=
  match (b.ctx c).st with
  | .frozen => (dumpCtx c b).modCtx c fun x => { x with st := .resetting }
  | .resetting => rstStatus .busyActive b
  | _ => if b.maint.block then rstStatus .busyActive b else b

/-! ### The end of a context reset (Table 9.3) -/

/-- An engine is IDLE with an empty queue; its counters and serial stay. Units that a transfer in PERMIT_WAIT asked
for come back with their grant (R602). -/
def resetRack (e : Nat) (b : Block) : Block :=
  let b := match (b.rack e).run with
    | some x =>
      let granted := if (b.rack e).st = .permitWait then 0 else x.asked
      let b := returnUnits granted (returnLent x.seq x.lent b)
      (match x.key with
        | some k => unrefSlot k b
        | none => b)
    | none => b
  let b := cancelPermits (fun w => w == .rack e) b
  let gone (h : HomeFrom) : Bool := match h with
    | .chunk e' _ => e' == e
    | _ => false
  let reads := (b.home.ops.filter fun o => gone o.origin && o.what == .chunkRead).map fun o => o.id
  let b := forgetReads (fun w => match w with
    | .home i => reads.contains i
    | _ => false) b
  let b := orphanHome gone (b.each reads dropHome)
  b.modRack e fun r =>
    { r with st := .idle, run := none, queue := [], inflight := [], rems := [], faultValid := false, faultPc := 0, faultStatus := 0
             maintValid := false, maintEntry := 0 }

/-- Every portal tag of the context is free, and its key references are gone. -/
def resetTags (c : Nat) (b : Block) : Block :=
  let mine := b.portal.reqs.filter fun r => r.ctx == c
  let held (t : Nat) : Bool := mine.any fun r => r.tag == t
  let b := b.each (mine.filterMap fun r => r.key) unrefSlot
  let b := orphanHome (fun h => match h with
    | .loop t => held t
    | _ => false) b
  { b with portal := { b.portal with
    reqs := b.portal.reqs.filter fun r => r.ctx != c
    resps := b.portal.resps.map fun r => match r.tag with
      | some t => if held t then { r with tag := none } else r
      | none => r } }

/-- The packets of the context's queues that have not started are discarded and counted (R559). -/
def resetQueues (c : Nat) (b : Block) : Block :=
  let own (p : QPkt) : Bool := decide (p.q < 128) && p.q / 8 == c
  let gone := (b.egress.flatMap fun e => e.2.queues.flatMap fun x => x.2.filter own) ++ b.route.waiting.filter own ++
    b.meters.flatMap fun m => m.2.hold.filter own
  let b := b.each (gone.map fun p => p.use) dropUse
  let b := dropQueued own (dropWaiting own b)
  { b with sched := { b.sched with resetDiscards := b.sched.resetDiscards + w64 gone.length } }

/-- The instances that the context's programs issued leave the table (R313). -/
def resetInsts (c : Nat) (b : Block) : Block :=
  let own := (b.press.insts.filter fun x => x.2.st != .free && x.2.ctx == c).map fun x => x.1
  let b := orphanMem (fun w => match w with
    | .collRead i _ => own.contains i
    | .collWrite i .. => own.contains i
    | .ferryWrite i => own.contains i
    | _ => false) b
  b.each own releaseInst

/-- A sequencer of the context is IDLE with its program unloaded; SEQ[s].CSEQ stays (R89). -/
def resetSeq (q : Nat) (b : Block) : Block :=
  let b := releaseProgram q (dropHolding q b)
  b.modSeq q fun s => { s with faultValid := false, faultPc := 0, faultStatus := 0 }

/-- The results of a context reset (Table 9.3, R389, R390). -/
def resetCtx (c : Nat) (b : Block) : Block :=
  let b := b.each (ownSeqs b c) dropHolding
  let racks := (List.range 16).filter fun e =>
    (ownEngines b c).contains e || (match (b.rack e).run with
      | some x => x.ctx == c
      | none => false) || (b.rack e).queue.any fun x => x.ctx == c
  let b := b.each racks resetRack
  let b := resetQueues c (resetTags c b)
  let b := resetInsts c b
  let b := b.each (ownSeqs b c) resetSeq
  let b := b.each (b.ctx c).keptKeys unrefSlot
  let n := (b.tally.incs.filter fun i => i.ctx == c).length
  let b := b.modCtx c fun x => { x with dropped := x.dropped + w64 n }
  let b := { b with
    tally := { tallies := b.tally.tallies.filter fun t => t.1 / 4096 != c
               incs := b.tally.incs.filter fun i => i.ctx != c }
    xlat := { b.xlat with walks := b.xlat.walks.filter fun k => k.ctx != c }
    thief := { b.thief with copies := b.thief.copies.filter fun k => k.ctx != c || k.asked } }
  let b := endUses (fun u => u.ctx == c) b
  memDrain (pressRest (b.modCtx c fun x =>
    { x with
      st := if x.valid then .running else .unbound
      incarnation := x.incarnation + 1
      frzSource := 0, frzStatus := 0, frzCause := 0, frzTime := 0
      pfVa := 0, pfValid := false, pfRequester := 0, pfKind := 0, pfStatus := 0
      tagsHeld := 0, faults := [], overflow := 0, keptKeys := [] }))

/-! ### Key slots emptied (R401, R402) -/

/-- A slot that does not exist: what an answer names whose slot is gone; it encrypts nothing. -/
def deadSlot : Nat := 0x10000

/-- Answers of this home that have not been encrypted lose their slot; those on their way keep no reference. -/
def orphanAnswers (k : Nat) (b : Block) : Block :=
  let f (p : QPkt) : QPkt := if p.use = .home k then { p with use := .none } else p
  let g (p : QPkt) : QPkt := if p.slot = some k ∧ p.epoch = none then { f p with slot := some deadSlot } else f p
  { b with
    egress := b.egress.map fun e => (e.1, { e.2 with
      queues := e.2.queues.map fun x => (x.1, x.2.map g)
      cur := e.2.cur.map fun c => { c with qp := f c.qp } })
    route := { b.route with waiting := b.route.waiting.map g }
    meters := b.meters.map fun m => (m.1, { m.2 with hold := m.2.hold.map g })
    home := { b.home with ops := b.home.ops.map fun o =>
      match o.origin with
      | .remote src sctx inc reqId slot => if slot = k then { o with origin := .remote src sctx inc reqId deadSlot } else o
      | _ => o } }

/-- A slot is EMPTY and its key zeroised; no context keeps a reference on it any more. -/
def zeroiseSlot (k : Nat) (b : Block) : Block :=
  let b := orphanAnswers k b
  { b with ctxs := b.ctxs.map fun (x : Nat × CtxRec) => (x.1, { x.2 with keptKeys := x.2.keptKeys.filter fun j => j != k }) }.modSlot k fun _ => {}

/-- What holds a reference on a slot: portal tags, engines, instances. -/
structure SlotUses where
  tags : List Nat
  racks : List Nat
  insts : List Nat

/-- The uses bound to a slot. -/
def slotUses (k : Nat) (b : Block) : SlotUses :=
  { tags := (b.portal.reqs.filter fun r => r.key == some k).map fun r => r.tag
    racks := (List.range 16).filter fun e => match (b.rack e).run with
      | some x => x.key == some k
      | none => false
    insts := (b.press.insts.filter fun x => x.2.key == some k).map fun x => x.1 }

/-- The uses of a slot are bound to no slot any more. -/
def unbindUses (u : SlotUses) (b : Block) : Block :=
  let b := b.each u.tags fun t b => b.modReq t fun r => { r with key := none }
  let b := b.each u.racks fun e b => b.modRack e fun r => { r with run := r.run.map fun x => { x with key := none } }
  b.each u.insts fun i b => b.modInst i fun x => { x with key := none }

/-- The uses of slot k fail with KEY_RETIRED and their contexts freeze with cause 6 (R401). -/
def failUses (k : Nat) (u : SlotUses) (b : Block) : Block :=
  let b := b.each u.tags fun t b =>
    let b := orphanHome (fun h => match h with
      | .loop u => u == t
      | _ => false) (dropWaiting (ofTag t) b)
    portalFail t .keyRetired 6 k b
  let b := b.each u.racks fun e b => xferFail e .keyRetired 6 k b
  b.each u.insts fun i b =>
    let x := b.inst i
    freezeCtx x.ctx 6 .keyRetired k (if x.issued then x.seq else 0xFF) (if x.issued then x.pc.toNat else 0) b

/-- RETIRE_FORCE on a slot (R401): the slot is EMPTY at once, and nothing that its uses still do is encrypted under
it. -/
def forceSlot (k : Nat) (b : Block) : Block :=
  let u := slotUses k b
  failUses k u (zeroiseSlot k (unbindUses u b))

/-! ### The partition reset (R649) -/

/-- A packet, or a cell, names partition p; a control message names none. -/
def routeNames (p : Nat) (vc : Vc) (r : Quad) : Bool :=
  if vc.val = 0 then cPart r == p else rType r != tyControl && rPart r == p

/-- A queued packet names partition p. -/
def pktNames (p : Nat) (x : QPkt) : Bool := routeNames p 1 x.pkt.route

/-- A flit held for replay names partition p. -/
def heldNames (p : Nat) (h : HeldFlit) : Bool := routeNames p h.vc h.route

/-- Some packet or cell that names partition p is held at this node (R649 step 6). -/
def partHeld (b : Block) (p : Nat) : Bool :=
  (b.egress.any fun e =>
    (e.2.queues.any fun x => x.2.any (pktNames p)) || e.2.cells.any (fun c => cPart c.hdr == p) ||
      (match e.2.cur with
       | some c => pktNames p c.qp
       | none => false)) ||
  (b.straits.any fun s => s.2.replay.any (heldNames p) || s.2.ingress.any fun i => routeNames p i.vc i.route) ||
  b.route.waiting.any (pktNames p) || (b.meters.any fun m => m.2.hold.any (pktNames p)) ||
  b.ferry.waiting.any fun w => cPart w.cell.hdr == p

/-- The contexts bound to partition p. -/
def partCtxs (b : Block) (p : Nat) : List Nat :=
  (List.range 16).filter fun c => (b.ctx c).valid && (b.ctx c).part.val == p

/-- A context of partition p is still in reset. -/
def partBusy (b : Block) (p : Nat) : Bool := (partCtxs b p).any fun c => (b.ctx c).st == .resetting

/-- Steps 3 to 5 of R649, once the contexts are reset: keys, grants, TRANSIT and held packets, shapers. -/
def partClear (p : Nat) (b : Block) : Block :=
  let b := b.each [3 * p, 3 * p + 1, 3 * p + 2] forceSlot
  let b := b.each [12, 13, 14, 15] fun k b => b.modSlot k fun s => { s with pmask := clearBit s.pmask p }
  let gone := b.meters.flatMap fun m => m.2.hold.filter (pktNames p)
  let b := b.each (gone.map fun x => x.use) dropUse
  let transit := b.egress.flatMap fun e => e.2.queues.flatMap fun x => x.2.filter fun y => y.q == 129 + p
  let b := (dropQueued (fun x => x.q == 129 + p) b).each transit endForward
  { b with
    meters := b.meters.map fun m => (m.1, { m.2 with hold := m.2.hold.filter fun x => !pktNames p x })
    egress := (List.range 32).foldl (fun t n => tmod {} t n fun e =>
      { e with parts := tmod {} e.parts p fun s => { s with ullage := s.burst16, frac := 0, last := b.time.loc } }) b.egress }

/-- A partition reset whose contexts are all reset goes on. -/
def partStep (p : Nat) (b : Block) : Block := if b.maint.parts.contains p ∧ !partBusy b p then partClear p b else b

/-- RST.PARTITION GO (R649, R645, R653): the contexts bound to p freeze, are dumped and enter reset. -/
def corePartitionReset (p : Nat) (b : Block) : Block :=
  if b.maint.block ∨ b.maint.parts.contains p then rstStatus .busyActive b
  else
    let b := rstStatus .ok { b with maint := { b.maint with parts := b.maint.parts ++ [p] } }
    let b := b.each (partCtxs b p) coreCtxFreeze
    let b := b.each (partCtxs b p) fun c b => (dumpCtx c b).modCtx c fun x => { x with st := .resetting }
    partStep p b

/-- CONTEXT_RESET_DONE (R388): no load of the context's sequencers runs (R744). -/
def coreContextResetDone (c : Nat) (b : Block) : Block :=
  if (b.ctx c).st ≠ .resetting ∨ (ownSeqs b c).any (fun q => (b.seq q).st == .loading) then b
  else
    let p := (b.ctx c).part.val
    let bound := (b.ctx c).valid
    let b := resetCtx c b
    if bound then partStep p b else b

/-- PARTITION_RESET_DONE (R649, R652): its contexts are reset and no packet naming p is held here. -/
def corePartitionResetDone (p : Nat) (b : Block) : Block :=
  if !b.maint.parts.contains p ∨ partBusy b p ∨ partHeld b p then b
  else
    raiseEvent 0x14 0 0xFF 1 (w64 p) 0
      (rstStatus .ok { b with maint := { b.maint with parts := b.maint.parts.filter fun x => x != p } })

/-! ### Groups blocked (R312, R648) -/

/-- A group is blocked until its claiming program is unloaded. -/
def blockGroup (g : Nat) (b : Block) : Block :=
  { b with press := { b.press with blocked := tmod 0 b.press.blocked (g / 64) fun w => setBit w (g % 64) } }

/-- PRESS.LAST_DIVERGED set. -/
def setLast (seq group cause chunk : Nat) (b : Block) : Block :=
  { b with press := { b.press with
    ldSequence := BitVec.ofNat 32 seq, ldGroup := BitVec.ofNat 10 group
    ldCause := BitVec.ofNat 4 cause, ldChunk := BitVec.ofNat 18 chunk } }

/-- A DIVERGED notice for (g, s) reaches a member (R312): it raises the event, ends every unfinished instance of
the group and holds the group as blocked. -/
def noticeDiverged (g s : Nat) (b : Block) : Block :=
  match groupOf b g with
  | none => b
  | some x =>
    let b := setLast s g 6 0 b
    let b := raiseEvent 0x04 Status.diverged.code.toNat x.ctx ((instFor b g s).getD 0xFF) (lastDiverged b) 0 b
    blockGroup g (b.each (instsWhere b fun y => y.group == g) endInst)

/-- The unfinished instances that match end as DIVERGED with cause 10, and their groups are blocked (R648). -/
def resetWhere (p : Inst → Bool) (b : Block) : Block :=
  b.each (instsWhere b p) fun i b =>
    let g := (b.inst i).group
    blockGroup g (endInst i (divergeInst i 10 (doneChunks (b.inst i)) b))

/-- What finished collectives still had to send is lost with the press (R648). -/
def dropFinished (b : Block) : Block :=
  b.each ((b.press.insts.filter fun x => decide (256 ≤ x.1)).map fun x => x.1) fun i b =>
    releaseInst i (dropAccesses i (dropQueued (ofInst i) (dropWaiting (ofInst i) b)))

end Sys2Proof.Machine
end

