-- ==== Sys2Proof/Machine/Secure.lean ====
section
/-!
DEFINITION. The commands of the RoT (09_contexts_keys_weights.md Table 9.5, R398 to R404) and the attestation
snapshot (R413 to R417). Each command ends within its step, so that no step leaves SEC.RESULT.ACTIVE at 1 (log 80).
-/

namespace Sys2Proof.Machine

/-! ### Measured values (R413 to R417) -/

/-- SEC.SLOT[k].INFO (Table 9.9). -/
def slotInfo (s : KeySlot) : Word :=
  word [(32, s.vintage.toNat), (16, s.setTag.toNat), (12, s.pmask.toNat), (0, s.st.code)]

/-- What the configuration hash covers, but for the straps, in the order in which R417 lists it. -/
def configWords (b : Block) : List Word :=
  ((List.range 16).map fun k => slotInfo (b.slot k)) ++
  ((List.range 4).map fun p => word [(0, (tget 0 b.keys.highest p).toNat)]) ++
  ((List.range 16).flatMap fun j =>
    let r := tget ({} : WRange) b.keys.ranges j
    [word [(63, r.valid.toNat), (50, r.wslot.toNat), (16, r.base.toNat)], word [(16, r.limit.toNat)]]) ++
  (List.range 16).map fun c => word [(5, (b.ctx c).valid.toNat), (0, (b.ctx c).part.val)]

/-- The image in the B slot; none while it is EMPTY or being staged. -/
def stagedImage (b : Block) : Option (List Byte) :=
  match b.maint.bState with
  | .staged | .bad | .booting =>
    some (((List.range (ceilDiv b.maint.imageLen 256)).flatMap fun i =>
      slice (tget [] b.maint.pages i) 0 256).take b.maint.imageLen)
  | _ => none

/-- GENERATION counts the changes of the measured values (R415); `old` is the block before the command. -/
def countMeasured (old b : Block) : Block :=
  if configWords old = configWords b ∧ old.maint.runImage = b.maint.runImage ∧ stagedImage old = stagedImage b then b
  else { b with keys := { b.keys with generation := b.keys.generation + 1 } }

/-- The hash of an image; 0 when there is none. -/
def imageHash (i : Option (List Byte)) : BitVec 384 :=
  match i with
  | some l => Config.sha384 l
  | none => 0

/-- SCOPES of SEC.ATT.RESETS (R414). -/
def resetScopes (b : Block) : BitVec 4 :=
  BitVec.ofNat 4 ((!b.maint.engines.isEmpty).toNat +
    2 * ((List.range 16).any fun c => (b.ctx c).st == .resetting).toNat +
    4 * (!b.maint.parts.isEmpty).toNat + 8 * b.maint.block.toNat)

/-- A cellarer restarts, or a block reset has not come to the running of the booted image (R416). -/
def snapshotNotReady (b : Block) : Bool :=
  b.maint.restarting || match b.maint.boot with
    | .powerUp | .waitImage | .verifying | .booting => true
    | .idle | .settings | .done => false

/-- SNAPSHOT (R413 to R417). -/
def takeSnapshot (b : Block) : Status × Block :=
  if snapshotNotReady b then (.notReady, b)
  else
    let scopes := resetScopes b
    let staged : Bool := b.maint.bState == .staged || b.maint.bState == .booting
    (.ok, { b with keys := { b.keys with
      attGen := b.keys.generation
      attStatus := Status.ok.code
      attTag := if scopes ≠ 0 then 2 else if staged then 1 else 0
      attTime := b.time.net
      attRun := imageHash (if b.maint.runImage.isEmpty then none else some b.maint.runImage)
      attStaged := imageHash (stagedImage b)
      attConfig := Config.configHash (configWords b ++ [b.maint.straps])
      attStraps := b.maint.straps
      attScopes := scopes } })

/-! ### The commands (Table 9.5) -/

/-- Fields of SEC.ARG0. -/
def argVintage (b : Block) : BitVec 32 := BitVec.ofNat 32 (bits b.keys.arg0 63 32)
def argSetTag (b : Block) : BitVec 16 := BitVec.ofNat 16 (bits b.keys.arg0 31 16)
def argPmask (b : Block) : BitVec 4 := BitVec.ofNat 4 (bits b.keys.arg0 15 12)
def argWslot (b : Block) : Nat := 12 + bits b.keys.arg0 5 4
def argPart (b : Block) : Nat := bits b.keys.arg0 1 0

/-- The slots of partition p (Table 9.4). -/
def partSlots (p : Nat) : List Nat := [3 * p, 3 * p + 1, 3 * p + 2]

/-- The slot of partition p in a state. -/
def slotIn (b : Block) (p : Nat) (st : KeySt) : Option Nat := (partSlots p).find? fun k => (b.slot k).st == st

/-- HIGHEST of partition p raised to a vintage (R400). -/
def raiseHighest (v : BitVec 32) (p : Nat) (b : Block) : Block :=
  let old := tget 0 b.keys.highest p
  if old.toNat < v.toNat then { b with keys := { b.keys with highest := tset b.keys.highest p v } } else b

/-- A key installed in a slot clears its bit of FERRY.NONCE_HIGH (Table 7.5). -/
def freshCells (k : Nat) (b : Block) : Block :=
  { b with ferry := { b.ferry with nonceHigh := clearBit b.ferry.nonceHigh k } }

/-- INSTALL. -/
def secInstall (b : Block) : Status × Block :=
  let p := argPart b
  let v := argVintage b
  let held : Bool := (partSlots p).any fun k =>
    (b.slot k).st != .empty && bits (b.slot k).vintage 7 0 == bits v 7 0
  if (slotIn b p .staged).isSome then (.busyActive, b)
  else if v.toNat ≤ (tget 0 b.keys.highest p).toNat ∨ held then (.access, b)
  else
    match slotIn b p .empty with
    | none => (.busyActive, b)
    | some k =>
      (.ok, freshCells k (raiseHighest v p (b.modSlot k fun _ =>
        { st := .staged, key := b.keys.key, vintage := v, pmask := BitVec.ofNat 4 (2 ^ p) })))

/-- ACTIVATE. -/
def secActivate (b : Block) : Status × Block :=
  let p := argPart b
  if (slotIn b p .previous).isSome then (.busyActive, b)
  else
    match slotIn b p .staged with
    | none => (.access, b)
    | some k =>
      if (b.slot k).vintage ≠ argVintage b then (.access, b)
      else
        let b := match slotIn b p .current with
          | some j => b.modSlot j fun s => { s with st := .previous }
          | none => b
        (.ok, b.modSlot k fun s => { s with st := .current })

/-- The slot that RETIRE and RETIRE_FORCE name. -/
def retireTarget (b : Block) : Option Nat :=
  if bitAt b.keys.arg0 2 then
    if (b.slot (argWslot b)).st = .empty then none else some (argWslot b)
  else (partSlots (argPart b)).find? fun k => (b.slot k).st != .empty && (b.slot k).vintage == argVintage b

/-- REFS of SEC.RESULT, for BUSY_IN_USE. -/
def resultRefs (k : Nat) (b : Block) : Block :=
  { b with keys := { b.keys with resRefs := BitVec.ofNat 32 (b.slot k).refs } }

/-- RETIRE. A CURRENT slot is no slot that RETIRE acts on, so it is refused with ACCESS whatever its REFS. -/
def secRetire (b : Block) : Status × Block :=
  match retireTarget b with
  | none => (.access, b)
  | some k =>
    if (b.slot k).st = .current then (.access, b)
    else if (b.slot k).refs ≠ 0 then (.busyInUse, resultRefs k b)
    else (.ok, zeroiseSlot k b)

/-- RETIRE_FORCE (R401). -/
def secRetireForce (b : Block) : Status × Block :=
  match retireTarget b with
  | none => (.access, b)
  | some k => (.ok, forceSlot k b)

/-- WEIGHT_INSTALL. -/
def secWeightInstall (b : Block) : Status × Block :=
  let k := argWslot b
  let clash : Bool := [12, 13, 14, 15].any fun j =>
    j != k && (b.slot j).st != .empty && bits (b.slot j).setTag 7 0 == bits (argSetTag b) 7 0
  if (b.slot k).st ≠ .empty then (.busyInUse, resultRefs k b)
  else if clash then (.access, b)
  else
    let pm := argPmask b
    let v := argVintage b
    (.ok, (freshCells k (b.modSlot k fun _ =>
        { st := .weight, key := b.keys.key, vintage := v, setTag := argSetTag b, pmask := pm }))
      |>.each (setBits 4 pm) (raiseHighest v))

/-- WEIGHT_GRANT. -/
def secWeightGrant (b : Block) : Status × Block :=
  let k := argWslot b
  if (b.slot k).st = .empty then (.access, b)
  else if (b.slot k).pmask &&& ~~~(argPmask b) ≠ 0 ∧ (b.slot k).refs ≠ 0 then (.busyInUse, resultRefs k b)
  else (.ok, b.modSlot k fun s => { s with pmask := argPmask b })

/-- RANGE_SET (R404). -/
def secRangeSet (b : Block) : Status × Block :=
  let k := argWslot b
  let j := bits b.keys.arg1 3 0
  let base := bits b.keys.arg1 49 16
  let limit := bits b.keys.arg2 49 16
  let valid := bitAt b.keys.arg1 63
  let ws : BitVec 2 := BitVec.ofNat 2 (k - 12)
  let clash : Bool := (List.range 16).any fun i =>
    let r := tget ({} : WRange) b.keys.ranges i
    i != j && r.valid && r.wslot != ws && decide (r.base.toNat < limit) && decide (base < r.limit.toNat)
  if (b.slot k).refs ≠ 0 then (.busyInUse, resultRefs k b)
  else if valid ∧ (limit ≤ base ∨ clash) then (.access, b)
  else
    let r : WRange := if valid then
      { valid := true, wslot := ws, base := BitVec.ofNat 34 base, limit := BitVec.ofNat 34 limit } else {}
    (.ok, { b with keys := { b.keys with ranges := tset b.keys.ranges j r } })

/-- The end of a command: its status, and SEC.KEY cleared (R398). -/
def secEnd (r : Status × Block) : Block :=
  { r.2 with keys := { r.2.keys with resStatus := r.1.code, key := 0 } }

/-- A command of Table 9.5 under the key-store token, which it takes for its duration (R399). -/
def secRun (f : Block → Status × Block) (b : Block) : Block :=
  let h := (b.token resKeystore).holder
  let b := { b with keys := { b.keys with resRefs := 0, resHolder := 0 } }
  if tokenBusy b resKeystore Path.rot.holder then
    secEnd (.busy, { b with keys := { b.keys with resHolder := BitVec.ofNat 8 h } })
  else secEnd (f b)

/-- An opcode written to SEC.CMD, ignored while a command is in progress (R398). -/
def coreSecCmd (op : Nat) (b : Block) : Block :=
  if b.keys.active then b
  else match op with
  | 0x01 => secRun secInstall b
  | 0x02 => secRun secActivate b
  | 0x03 => secRun secRetire b
  | 0x04 => secRun secRetireForce b
  | 0x05 => secRun secWeightInstall b
  | 0x06 => secRun secWeightGrant b
  | 0x07 => secRun secRangeSet b
  | 0x08 => secRun takeSnapshot b
  | _ => secEnd (.access, b)

end Sys2Proof.Machine
end

