-- ==== Sys2Proof/Machine/Tides.lean ====
section
/-!
DEFINITION. Tide tables as commands change them, steps of network time, and the queue samples
(13_traffic_scheduling.md R578 to R588; 18_register_map.md Table 18.3).
-/

namespace Sys2Proof.Machine

/-- A list operates, whether or not its gates act (R579, R581). -/
def tideRuns (t : Tide) : Bool := t.operValid && decide (tideCycleNs t ≠ 0)

/-- The entry that network time selects comes into force (R579): ENTRY, and CYCLES when a cycle begins. -/
def tideEnter (net : Word) (t : Tide) : Tide :=
  match tideEntryNow t net with
  | some s =>
    let phase := tidePhase t net
    let began := net - w64 (phase - s.1)
    if began = t.began then t
    else { t with
      began
      entry := BitVec.ofNat 6 s.2.2.2
      cycles := if s.2.2.2 = 0 then t.cycles + 1 else t.cycles }
  | none => t

/-- The operating entry wakes its strait (R585). -/
def tideWakes (b : Block) (n : Nat) : Bool :=
  let t := b.tide n
  tideActive t && (match tideEntryNow t b.time.net with
    | some s => bitAt s.2.2.1 31
    | none => false)

/-- WAKE acts for the straits of a list: the datapath clock starts and they wake (R585). -/
def tideWake (ns : List Nat) (b : Block) : Block :=
  let ns := ns.filter (tideWakes b)
  if ns.isEmpty then b else wakeStraits ns (startClock b)

/-- TIDE_ENTRY_START: an operating entry begins (R579, R585). While the operating entry is the one that has
begun already, nothing begins. -/
def coreTideEntryStart (n : Nat) (b : Block) : Block :=
  let t := b.tide n
  let t' := tideEnter b.time.net t
  if !tideRuns t ∨ t'.began = t.began then b
  else tideWake [n] (b.modTide n fun _ => t')

/-- An entry of the admin list that a CHANGE refuses (R586). -/
def tideBad (w : Word) : Bool := bits w 26 0 == 0 || bits w 63 40 != 0 || bits w 29 27 != 0

/-- TIDE[n].STATUS.STATUS. -/
def tideStatus (n : Nat) (st : Status) (b : Block) : Block := b.modTide n fun t => { t with status := st.code }

/-- The first instant after `now`, at or after T, at which a cycle of the admin list begins (R586). -/
def tideSwitchAt (now T base : Word) (cycleNs : Nat) : Word :=
  let t0 := max (now.toNat + 1) T.toNat
  w64 (t0 + (((base.toNat : Int) - (t0 : Int)) % (cycleNs : Int)).toNat)

/-- A network time written to TIDE[n].CHANGE (R586, R587). -/
def writeTideChange (n : Nat) (T : Word) (b : Block) : Status × Block :=
  let t := b.tide n
  let e := bits t.adminCycle 38 32
  let c := bits t.adminCycle 26 0
  let bad : Bool := (List.range e).any fun j => tideBad (tget 0 t.admin j)
  if t.pending then (.busyActive, tideStatus n .busyActive b)
  else if e < 1 ∨ 64 < e ∨ c < 125 ∨ 125000000 < c ∨ bad then (.access, tideStatus n .access b)
  else
    (.ok, b.modTide n fun t => { t with
      pending := true
      switchTime := tideSwitchAt b.time.net T t.adminBase (8 * c)
      status := Status.ok.code })

/-- A write to the admin list, ADMIN_BASE or ADMIN_CYCLE: ignored while PENDING is 1 (R587). -/
def writeTideAdmin (n : Nat) (f : Tide → Tide) (b : Block) : Status × Block :=
  if (b.tide n).pending then (.busyActive, tideStatus n .busyActive b) else (.ok, b.modTide n f)

/-- TIDE_LIST_SWITCH: at the switch instant the lists change places (R586). -/
def coreTideListSwitch (n : Nat) (b : Block) : Block :=
  let t := b.tide n
  if !t.pending ∨ b.time.net.toNat < t.switchTime.toNat then b
  else
    let t := { t with
      pending := false, operValid := true, switchTime := 0
      oper := t.admin, operBase := t.adminBase, operCycle := t.adminCycle
      admin := t.oper, adminBase := t.operBase, adminCycle := t.operCycle
      began := t.switchTime, entry := 0, cycles := t.cycles + 1 }
    tideWake [n] (b.modTide n fun _ => t)

/-- TIME_STEP: the network time counter is stepped (R583, R707); no time discipline takes place once the
cellarers are lost (R665). Each operating list goes on at the entry that the new time selects, and a WAKE entry
that the step lands in acts. -/
def coreTimeStep (time : Word) (b : Block) : Block :=
  if b.maint.lost then b
  else
    let b := { b.emit .timeStepped with time := { b.time with net := time, steps := b.time.steps + 1 } }
    let ns := (List.range 32).filter fun n => tideRuns (b.tide n)
    tideWake ns (b.each ns fun n b => b.modTide n (tideEnter time))

/-- The longest time that a head packet of queue q has waited at any strait by now. -/
def headWait (b : Block) (q : Nat) : Nat :=
  ((List.range 32).map fun n => match queueOf b n q with
    | p :: _ => b.time.loc - p.since
    | [] => 0).foldl max 0

/-- The number of the sample period that network time stands in, of at least 1,000 ns (R588). -/
def samplePeriodNs (b : Block) : Nat := max 1000 b.sched.samplePeriod.toNat

/-- SCHED_QUEUE_SAMPLE (R588, R622): at a network time that is a multiple of SAMPLE_PERIOD, which the 10 ns cycle at hand
holds, and once for it. -/
def coreSchedQueueSample (b : Block) : Block :=
  let period := samplePeriodNs b
  let k := b.time.net.toNat / period
  if b.time.net.toNat % period < 10 ∧ b.sched.sampled ≠ some k then
    let samples := (List.range 133).foldl (fun t q =>
      tset t q
        { depth := BitVec.ofNat 32 (depthOf b q)
          delay := BitVec.ofNat 32 (min (2 ^ 32 - 1) (max (tget 0 b.sched.delays q) (headWait b q))) }) b.sched.samples
    queuesRecord { b with sched := { b.sched with
      samples, delays := [], sampleSeq := b.sched.sampleSeq + 1, sampled := some k } }
  else b

end Sys2Proof.Machine
end

