-- ==== Sys2Proof/Machine/Banks.lean ====
section
/-!
DEFINITION. Route banks as commands change them (11_packets_routing_flow.md R514 to R521).
-/

namespace Sys2Proof.Machine

/-- ROUTE.STATUS. -/
def routeStatus (st : Status) (b : Block) : Block := { b with route := { b.route with status := st.code } }

/-- An entry write to bank k (R516). -/
def entryWrite (k : Nat) (f : Bank → Bank) (b : Block) : Status × Block :=
  match (b.bank k).st with
  | .opened => (.ok, b.modBank k f)
  | .current => (.busyActive, routeStatus .busyActive b)
  | .ready | .old =>
    if drainCount b k ≠ 0 then (.busyDraining, routeStatus .busyDraining b)
    else (.ok, b.modBank k fun x => f { x with st := .opened, arrivals := 0 })

/-- SEAL of bank k (R517). -/
def sealBank (k : Nat) (b : Block) : Status × Block :=
  match (b.bank k).st with
  | .opened => (.ok, b.modBank k fun x => { x with st := .ready })
  | .ready => (.ok, b)
  | .current | .old => (.access, b)

/-- FLIP to bank k (R518). -/
def flipBank (k : Nat) (b : Block) : Status × Block :=
  match (b.bank k).st with
  | .ready =>
    let b := b.modBank k fun x => { x with st := .current }
    (.ok, b.modBank (1 - k) fun x => if x.st = .current then { x with st := .old } else x)
  | .current => (.ok, b)
  | .opened | .old => (.notReady, b)

/-- A write to ROUTE.CTRL: SEAL acts before FLIP, and ROUTE.STATUS holds the outcome of the last of them
(R517, R518; log 81). -/
def writeRouteCtrl (v : Word) (b : Block) : Status × Block :=
  let k := bits v 0 0
  let r := if bitAt v 8 then sealBank k b else (.ok, b)
  let r := if bitAt v 9 then flipBank k r.2 else r
  if bitAt v 8 ∨ bitAt v 9 then (r.1, routeStatus r.1 r.2) else r

/-- The entry write that a register of bank k makes at an offset of Table 11.13. -/
def writeBank (k o : Nat) (v : Word) (b : Block) : Option (Status × Block) :=
  match o with
  | 0x00 => some (entryWrite k (fun x => { x with torus := bitAt v 8 }) b)
  | 0x08 => some (entryWrite k (fun x => { x with dateline := BitVec.ofNat 32 v.toNat }) b)
  | 0x10 => some (entryWrite k (fun x => { x with dims := v }) b)
  | _ => none

/-- An entry of bank k written. -/
def writeEntry (k node : Nat) (v : Word) (b : Block) : Status × Block :=
  entryWrite k (fun x => { x with entries := tset x.entries node v }) b

end Sys2Proof.Machine
end

