-- ==== Sys2Proof/Machine/Powering.lean ====
section
/-!
DEFINITION. The ledger toward the die power manager (14_clocks_sleep_permits.md R599 to R606,
17_ports_integration.md R705, R706), the stop of the datapath clock (R41, R591, R686, R730) and the host hint
(R594, R595).
-/

namespace Sys2Proof.Machine

/-- The place of a need among those of one cycle (R600). -/
def PermitWho.rank : PermitWho → Nat
  | .press => 0
  | .wake => 1
  | .bist => 2
  | .rack e => 3 + e
  | .seq q => 19 + q

/-- A need put in its place among needs of one cycle. -/
def insertNeed (r : PermitReq) : List PermitReq → List PermitReq
  | [] => [r]
  | x :: l => if r.who.rank < x.who.rank then r :: x :: l else x :: insertNeed r l

/-- The needs that a command raised, after the `n` that waited before it, stand in the order of R600. -/
def orderNeeds (n : Nat) (b : Block) : Block :=
  let w := b.pwr.waiting
  { b with pwr := { b.pwr with waiting := w.take n ++ (w.drop n).foldl (fun l r => insertNeed r l) [] } }

/-- PM_REQUEST_PRESENT: the first waiting need takes a free request ID (R600, R601). -/
def corePmRequestPresent (b : Block) : Block :=
  let ids := (List.range 8).filter fun i => !(b.pwr.outstanding.any fun r => r.id == i)
  match b.pwr.waiting, ids with
  | r :: rest, i :: _ =>
    if !b.pwr.alive then b
    else
      ({ b with pwr := { b.pwr with
        waiting := rest
        outstanding := b.pwr.outstanding ++ [{ r with id := i, since := b.time.loc }] } }).emit (.pmRequest i r.units)
  | _, _ => b

/-- What the operation that asked does with its grant (R289, R601, R606, R660, R239, R159). -/
def useGrant (who : PermitWho) (units : Nat) (b : Block) : Block :=
  match who with
  | .press => pressGranted b
  | .wake => grantWakes units b
  | .bist => { b with maint := { b.maint with bistWaiting := false } }
  | .rack e => rackRun e b
  | .seq q => acquireGranted q units b

/-- PM_GRANT: a whole grant of an outstanding request; one that names no such request, or comes while pm_alive is
0, is ignored (R705, R706). The units of a cancelled request go back at once (R602). -/
def corePmGrant (id : Nat) (b : Block) : Block :=
  match b.pwr.outstanding.find? fun r => r.id == id with
  | none => b
  | some r =>
    if !b.pwr.alive then b
    else
      let b := { b with pwr := { b.pwr with
        outstanding := b.pwr.outstanding.filter fun x => x.id != id
        held := b.pwr.held + r.units
        grants := b.pwr.grants + 1
        waitNs := b.pwr.waitNs + w64 (b.time.loc - r.since) } }
      if r.cancelled then
        returnUnits r.units { b with pwr := { b.pwr with returnedUnused := b.pwr.returnedUnused + w64 r.units } }
      else useGrant r.who r.units b

/-- A strait's state lets the datapath clock stop (R41). -/
def StraitSt.still : StraitSt → Bool
  | .qdoze | .ddoze | .off | .disabled | .failed | .miswired => true
  | _ => false

/-- A sequencer's state lets the datapath clock stop (R41). -/
def seqStill (s : Seq) : Bool :=
  match s.st with
  | .idle | .loaded | .frozen | .waiting => true
  | .halted => !s.draining
  | .loading | .running => false

/-- A press pass or a ferry operation is in progress (R41): a chunk of a COLL being read or reduced, or a ferry
instance that has not ended. -/
def passBusy (x : Inst) : Bool :=
  x.st != .free && (x.kind == 7 || x.chunks.any fun c => c.phase == .reading || c.phase == .reducing)

/-- The conditions of R41, R686 and R730. A strait that wakes will be UP, which needs the clock, so it holds the clock as
well (log 91). -/
def dpMayStop (b : Block) : Bool :=
  ((List.range 32).all fun n => (b.strait n).st.still && (b.strait n).wake == .none) &&
  b.portal.reqs.isEmpty && b.portal.heldReqs.isEmpty &&
  (b.seqs.all fun s => seqStill s.2) &&
  (b.racks.all fun r => r.2.st == .idle) &&
  !(b.press.insts.any fun i => passBusy i.2) &&
  !hintClock b &&
  b.mem.outstanding.isEmpty &&
  b.meters.all fun m => m.2.hold.isEmpty

/-- DP_CLOCK_STOP: the conditions have held for PWR.DP_IDLE ns (R591). -/
def coreDpClockStop (b : Block) : Block :=
  if b.dpRuns ∧ dpMayStop b then { b with pwr := { b.pwr with dp := .stopped } } else b

/-- A write to PWR.HOST_AWAKE: the host hint, which starts the clock and wakes the straits it names (R42, R595). -/
def writeHostAwake (v : Word) (b : Block) : Block :=
  let m : Word := keep v 63 63 ||| keep v 31 0
  let b := { b with pwr := { b.pwr with hostAwake := m } }
  if m = 0 then b else wakeStraits (setBits 32 m) (startClock b)

end Sys2Proof.Machine
end

