-- ==== Sys2Proof/Machine/Boot.lean ====
section
/-!
DEFINITION. The mailbox and the stored settings (17_ports_integration.md R700, Table 17.10;
16_faults_reset_recovery.md R671 to R673), cellarers (R663 to R666, R472), firmware (R667 to R670), the block
reset and power-on (R650 to R653, R679 to R681, Tables 16.7 and 17.3).
-/

namespace Sys2Proof.Machine

/-! ### Messages to the RoT (R700) -/

/-- SETTINGS_READ. -/
def readMsg (type strait : Nat) : List Word × Mbox := ([word [(16, strait), (8, type), (0, 0x01)]], .read type strait)

/-- The records that a cellarer asks for at a start (log 83). -/
def settingsReads : List (List Word × Mbox) :=
  [readMsg 3 0xFF, readMsg 4 0xFF] ++ (List.range' 2 30).flatMap fun n => [readMsg 1 n, readMsg 2 n]

/-- VERIFY of the image in the B slot. -/
def verifyMsg (b : Block) : List Word × Mbox :=
  let img := (stagedImage b).getD []
  let h := Config.sha384 img
  (word [(32, img.length), (0, 0x03)] :: ((List.range 6).map fun i => w64 (h.toNat >>> (64 * i))) ++
    (Config.imageSignature img).take 128, .verify)

/-! ### The boot of the block -/

/-- The cellarers run the running image: cellarer 0 is active, cellarer 1 comes up (R663, log 84). -/
def cellarersRun (b : Block) : Block :=
  let b := (b.modCellarer 0 fun c => { c with role := .active }).modCellarer 1 fun c => { c with role := .booting }
  { b with maint := { b.maint with
    boot := .settings
    runVersion := if b.maint.runImage.isEmpty then 0 else Config.imageVersion b.maint.runImage } }

/-- The cellarers boot: from the B slot when an image is staged, whose verification the RoT is asked for, and
from the running image otherwise (Table 16.7, R670). -/
def startBoot (b : Block) : Block :=
  if b.maint.bState = .staged then
    let b := { b with maint := { b.maint with boot := .verifying, bState := .booting, verified := none } }
    mboxPut [verifyMsg b] b
  else if b.maint.cold then { b with maint := { b.maint with boot := .waitImage } }
  else mboxPut settingsReads { b with maint := { b.maint with boot := .booting } }

/-- The settings are loaded (Table 16.7): straits take their classes (R421) and doze settings, and those that are
enabled and bonded wake under R606. -/
def bootStraits (b : Block) : Block :=
  let ns := List.range 32
  let b := b.each ns fun n b =>
    let f (s : Strait) : Strait :=
      let s := match settingFor b 3 n with
        | some body => if n < 2 then s else { s with cls := BitVec.ofNat 2 (1 + bits (Config.settingsField body 3 n) 2 1 % 3) }
        | none => s
      match settingFor b 4 n with
      | some body => { s with doze := keep (Config.settingsField body 4 n) 63 16 ||| keep (Config.settingsField body 4 n) 0 0 }
      | none => s
    b.modStrait n f
  let on := ns.filter fun n => bitAt b.maint.straps (32 + n) && (match settingFor b 3 n with
    | some body => bitAt (Config.settingsField body 3 n) 0
    | none => false)
  let b := b.each on fun n b => b.modStrait n fun s => { s with enable := true }
  wakeList on { b with maint := { b.maint with boot := .done } }

/-- The settings of a boot are loaded when no message of them is left. -/
def settingsStep (b : Block) : Block :=
  if b.maint.boot = .settings ∧ b.maint.mbox.isNone ∧ b.maint.mboxQueue.isEmpty then bootStraits b else b

/-- A reply to a settings message shows that the cellarers run. -/
def settingsReply (b : Block) : Block := if b.maint.boot = .booting then cellarersRun b else b

/-- A stored setting comes into use. -/
def useSetting (type strait : Nat) (body : List Byte) (b : Block) : Block :=
  { b with maint := { b.maint with settings := tset b.maint.settings (256 * type + strait) body } }

/-- A record is neither used nor rewritten (R673). -/
def discardSetting (b : Block) : Block :=
  { b with maint := { b.maint with settingsDiscarded := b.maint.settingsDiscarded + 1 } }

/-- The bytes of a record of Table 16.11. -/
def recordBytes (ws : List Word) : List Byte := ws.flatMap fun w => natBytes 8 w.toNat

/-- SETTINGS_RECORD (R671 to R673). A record that is not of the TYPE and STRAIT asked for is not used (log 83). -/
def coreSettingsRecord (ws : List Word) (b : Block) : Block :=
  match b.maint.mbox with
  | some (.read type strait) =>
    if b.maint.lost then b
    else
      let b := settingsReply b
      let bs := recordBytes ws
      let len := bytesNat (slice bs 2 2)
      let body := slice bs 16 len
      let own := (Config.imageReads b.maint.runImage (byteAt bs 0)).toNat
      let v := (byteAt bs 1).toNat
      let good : Bool := decide ((byteAt bs 0).toNat = type ∧ (byteAt bs 4).toNat = strait ∧ 16 + len ≤ bs.length) &&
        decide ((crc32c body).toNat = bytesNat (slice bs 8 4))
      if !good ∨ own < v then settingsStep (mboxDone (discardSetting b))
      else if v = own then settingsStep (mboxDone (useSetting type strait body b))
      else
        let body := Config.migrateBody b.maint.runImage (byteAt bs 0) body
        mboxNext { b with maint := { b.maint with
          mbox := none, mboxQueue := writeMsg type own strait body :: b.maint.mboxQueue } }
  | _ => b

/-- SETTINGS_NONE. -/
def coreSettingsNone (b : Block) : Block :=
  match b.maint.mbox with
  | some (.read ..) => if b.maint.lost then b else settingsStep (mboxDone (settingsReply b))
  | _ => b

/-- SETTINGS_ACK: the migrated record comes into use (R673). -/
def coreSettingsAck (b : Block) : Block :=
  match b.maint.mbox with
  | some (.write type strait body) => if b.maint.lost then b else settingsStep (mboxDone (useSetting type strait body b))
  | _ => b

/-- VERIFY_RESULT (R668, R670). -/
def coreVerifyResult (pass : Bool) (b : Block) : Block :=
  match b.maint.mbox with
  | some .verify =>
    if b.maint.lost then b else mboxDone { b with maint := { b.maint with verified := some pass } }
  | _ => b

/-! ### Cellarers -/

/-- The cellarer that is ACTIVE. -/
def activeCellarer (b : Block) : Option Nat := [0, 1].find? fun k => (b.cellarer k).role == .active

/-- A cellarer is a healthy standby (R663). -/
def standbyHealthy (b : Block) (k : Nat) : Bool :=
  let c := b.cellarer k
  c.role == .standby && decide (b.time.loc ≤ c.lastPass + 2000000)

/-- Tokens held by a cellarer are released (R659); reductions that waited for the press's token ask again
(R291). -/
def dropCellarerTokens (b : Block) : Block :=
  let held := (b.token resPress).holder = Path.cellarer.holder
  let b := { b with maint := { b.maint with tokens := b.maint.tokens.filter fun t => t.2.holder != Path.cellarer.holder } }
  if held then pressAgain b else b

/-- What a fail-over does to a strait (R472): an attempt in DETECT, TRAIN or RETRAIN starts again in its state. -/
def failoverStrait (n : Nat) (b : Block) : Block :=
  match (b.strait n).st with
  | .drain => straitStatus n .notReady 0 (refreshElig n (setState n .up (endStraitOp n b)))
  | .calibrate =>
    setState n .retrain (b.modStrait n fun s => { s with attempts := 0, retraining := true, req := .retrain })
  | _ => b

/-- State that is not mirrored is lost (R666). -/
def loseUnmirrored (b : Block) : Block :=
  { b with
    fm := { b.fm with queue := [], reports := [] }
    time := { b.time with locked := false }
    straits := b.straits.map fun s => (s.1, { s.2 with timeIn := [] }) }

/-- The standby `k` takes control from cellarer `a` (R664, R666, R472). -/
def takeOver (a k : Nat) (fault : Byte) (b : Block) : Block :=
  let b := (b.modCellarer k fun c => { c with role := .active }).modCellarer a fun c => { c with role := .booting }
  let b := loseUnmirrored (dropCellarerTokens b)
  let b := b.each (List.range 32) failoverStrait
  let b := { b with maint := { b.maint with failovers := b.maint.failovers + 1, restarting := true } }
  sendReport 0x06 [] (raiseEvent 0x12 0 0xFF k (BitVec.setWidth 64 fault) 0 b)

/-- CELLARER_HEARTBEAT_MISS: the active cellarer gives up control (R664), or stops with no healthy standby (R665,
R733). -/
def coreHeartbeatMiss (fault : Byte) (b : Block) : Block :=
  match activeCellarer b with
  | none => b
  | some a =>
    let b := b.modCellarer a fun c => { c with faultCode := fault }
    if standbyHealthy b (1 - a) then takeOver a (1 - a) fault b
    else
      let b := dropCellarerTokens (b.modCellarer a fun c => { c with role := .failed })
      raiseEvent 0x13 0 0xFF a (BitVec.setWidth 64 fault) 0 { b with
        maint := { b.maint with lost := true }
        time := { b.time with locked := false }
        straits := b.straits.map fun s =>
          (s.1, if s.2.st = StraitSt.off then { s.2 with wake := .none } else s.2) }

/-- STANDBY_SELFTEST_PASS (R663): a former active cellarer, or the second one after a boot, becomes the standby with
its pass; the one that boots a staged image does not. -/
def coreSelftestPass (k : Nat) (b : Block) : Block :=
  let up (b : Block) : Block := b.modCellarer k fun c =>
    { c with role := .standby, selftests := c.selftests + 1, lastPass := b.time.loc }
  match (b.cellarer k).role with
  | .standby => up b
  | .booting =>
    if (activeCellarer b).isSome ∧ !b.maint.activating then up { b with maint := { b.maint with restarting := false } }
    else b
  | .active | .failed => b

/-! ### Firmware (R667 to R670) -/

/-- A status that the manual does not name: one of Table 0.6 other than OK (log 85). -/
def freeStatus (b : Block) : Status × Block :=
  let (w, b) := b.fresh
  (statusOf (1 + w.toNat % 12), b)

/-- FIRMWARE (Table 16.2). -/
def firmwareEvent (unit : Nat) (version : BitVec 32) (st : Status) (b : Block) : Block :=
  raiseEvent 0x15 st.code.toNat 0xFF unit (BitVec.setWidth 64 version) (BitVec.setWidth 64 st.code) b

/-- FW.STATUS.STATUS. -/
def fwStatus (st : Status) (b : Block) : Block := { b with maint := { b.maint with fwStatus := st.code } }

/-- A strait is in CALIBRATE, or in DRAIN for a CALIBRATE (R658). -/
def calibrating (b : Block) : Bool :=
  (List.range 32).any fun n => (b.strait n).st == .calibrate || ((b.strait n).st == .drain && (b.strait n).req == .calibrate)

/-- ACTIVATE written to FW.CTRL (R670, R655, R658). -/
def fwActivateBy (holder : Nat) (b : Block) : Block :=
  let sb := match activeCellarer b with
    | some a => if standbyHealthy b (1 - a) then some (1 - a) else none
    | none => none
  if tokenBusy b resFwslot holder ∨ b.maint.bState = .staging then fwStatus .busy b
  else if calibrating b then fwStatus .busyActive b
  else
    match b.maint.bState, sb with
    | .staged, some k =>
      let b := takeToken resFwslot holder (fwStatus .ok b)
      let b := b.modCellarer k fun c => { c with role := .booting }
      let b := { b with maint := { b.maint with
        bState := .booting, activating := true, actHolder := holder, verified := none } }
      mboxPut [verifyMsg b] b
    | _, _ => fwStatus .notReady b

/-- The booted image becomes the running image, and the B slot EMPTY (R670). -/
def runStaged (b : Block) : Block :=
  let img := (stagedImage b).getD []
  { b with maint := { b.maint with
    runImage := img, runVersion := Config.imageVersion img, bState := .empty, stagedVersion := 0, pages := [], imageLen := 0
    verified := none } }

/-- FW_ACTIVATE_DONE: the staged image has passed, or failed, its verification and its first self-test; the
activation ends, or the boot goes on (R670, Table 16.7). Without the RoT's answer nothing ends (R637). -/
def coreFwActivateDone (selfTestOk : Bool) (b : Block) : Block :=
  match b.maint.verified with
  | none => b
  | some v =>
    let version := b.maint.stagedVersion
    if b.maint.boot = .verifying then
      if v ∧ selfTestOk then
        let b := runStaged b
        mboxPut settingsReads (cellarersRun (firmwareEvent 1 version .ok { b with maint := { b.maint with cold := false } }))
      else
        let (st, b) := freeStatus { b with maint := { b.maint with bState := .bad, verified := none } }
        startBoot (firmwareEvent 2 version st b)
    else if b.maint.activating then
      let b := endToken resFwslot { b with maint := { b.maint with activating := false } }
      if v ∧ selfTestOk then
        let b := runStaged b
        let b := match activeCellarer b with
          | some a => takeOver a (1 - a) 0 b
          | none => b
        mboxPut settingsReads (firmwareEvent 1 version .ok b)
      else
        let (st, b) := freeStatus { b with maint := { b.maint with bState := .bad, verified := none } }
        firmwareEvent 2 version st (fwStatus st b)
    else b

/-! ### The service port (R702 to R704) -/

/-- LAST of the service status word (Table 17.12). -/
def svcLast (st : Status) (b : Block) : Block := { b with maint := { b.maint with svcLast := st.code } }

/-- The service port takes commands: power-on has come to t_p + 400 µs (R679). -/
def portsReady (b : Block) : Bool := b.maint.boot != .powerUp

/-- The service status word (Table 17.12). -/
def serviceStatus (b : Block) : Word :=
  word [(32, b.evt.logHead.toNat), (14, (b.cellarer 1).role.code), (12, (b.cellarer 0).role.code),
    (9, b.maint.bState.code), (8, b.maint.svcBusy.toNat), (0, b.maint.svcLast.toNat)]

/-- READ_STATUS: the word leaves most significant byte first (R702, log 86). -/
def coreReadStatus (b : Block) : Block :=
  if portsReady b then b.emit (.service (natBytes 8 (serviceStatus b).toNat).reverse) else b

/-- READ: bytes of the lees; any other address reads 0. -/
def coreSvcRead (lees : List Host.Cell) (addr len : Nat) (b : Block) : Block :=
  if portsReady b then b.emit (.service ((List.range len).map fun i => if addr + i < leesBytes then lget lees (addr + i) else 0))
  else b

/-- What refuses STAGE_BEGIN, WRITE and STAGE_END: BUSY of the FWSLOT token or of a boot of the image, BUSY_ACTIVE
while a page is being written. -/
def svcRefused (b : Block) : Option Status :=
  if tokenBusy b resFwslot Path.cellarer.holder ∨ b.maint.bState = .booting then some .busy
  else if b.maint.svcBusy then some .busyActive
  else none

/-- No service command writes to the B slot before the ports are ready, or once no cellarer runs (R665, R667). -/
def stagingOff (b : Block) : Bool := !portsReady b || b.maint.lost

/-- STAGE_BEGIN. -/
def coreStageBegin (b : Block) : Block :=
  if stagingOff b then b
  else match svcRefused b with
    | some st => svcLast st b
    | none =>
      svcLast .ok (takeToken resFwslot Path.cellarer.holder { b with maint := { b.maint with
        bState := .staging, stagedVersion := 0, pages := [], imageLen := 0 } })

/-- WRITE of one page (log 86: an address or a length that the command does not allow is refused with ACCESS). -/
def coreSvcWrite (addr : Nat) (data : List Byte) (b : Block) : Block :=
  if stagingOff b then b
  else match svcRefused b with
    | some st => svcLast st b
    | none =>
      if b.maint.bState ≠ .staging ∨ addr < 0x01000000 ∨ 0x01400000 ≤ addr ∨ addr % 256 ≠ 0 ∨ data.isEmpty ∨
          256 < data.length then svcLast .access b
      else
        svcLast .ok { b with maint := { b.maint with
          svcBusy := true, pages := tset b.maint.pages ((addr - 0x01000000) / 256) data } }

/-- PAGE_HELD. -/
def corePageHeld (b : Block) : Block := { b with maint := { b.maint with svcBusy := false } }

/-- The pages written cover exactly the bytes from 0 to len − 1 (R704). -/
def pagesCover (pages : Tbl (List Byte)) (len : Nat) : Bool :=
  pages.length == ceilDiv len 256 &&
  pages.zipIdx.all fun x => x.1.1 == x.2 && x.1.2.length == min 256 (len - 256 * x.2)

/-- STAGE_END (R704, R669). A power-on that waits for an image goes on. -/
def coreStageEnd (len : Nat) (b : Block) : Block :=
  if stagingOff b then b
  else match svcRefused b with
    | some st => svcLast st b
    | none =>
      if b.maint.bState ≠ .staging then svcLast .access b
      else
        let b := endToken resFwslot b
        if 1 ≤ len ∧ len ≤ 4194304 ∧ pagesCover b.maint.pages len then
          let b := { b with maint := { b.maint with bState := .staged, imageLen := len } }
          let v := Config.imageVersion ((stagedImage b).getD [])
          let b := svcLast .ok { b with maint := { b.maint with stagedVersion := v } }
          let b := firmwareEvent 0 v .ok b
          if b.maint.boot = .waitImage then startBoot b else b
        else svcLast .access { b with maint := { b.maint with bState := .bad } }

/-- STAGE_ABORT. An image that is booting is no longer being staged (log 86). -/
def coreStageAbort (b : Block) : Block :=
  if stagingOff b ∨ b.maint.bState = .booting then b
  else
    let b := if (b.token resFwslot).holder = Path.cellarer.holder then endToken resFwslot b else b
    svcLast .ok { b with maint := { b.maint with bState := .empty, stagedVersion := 0, pages := [], imageLen := 0 } }

/-! ### Block reset and power-on -/

/-- What a block reset leaves of the state (R650, R723, R402, R604): the always-on domain, the staged and the running
image, and the pins keep; LINK_EPOCH changes (R452). -/
def resetBlock (b : Block) : Block :=
  let m := b.maint
  let keep : Bool := m.bState == .staged
  { Block.reset with
    out := b.out
    free := b.free
    time := { b.time with locked := false, srcValid := false, src := 0 }
    pwr := { alive := false }
    evt := { logHead := b.evt.logHead, slots := b.evt.slots, slotSeq := b.evt.slotSeq, dumpSeq := b.evt.dumpSeq
             leesOps := b.evt.leesOps }
    keys := { generation := b.keys.generation }
    straits := (List.range 32).map fun n =>
      let s := b.strait n
      (n, { cls := shotrumClass n, epoch := s.epoch + 1, oeReady := s.oeReady, oeFault := s.oeFault })
    maint := {
      block := true, cause := m.cause, blockResets := m.blockResets, straps := m.straps, runImage := m.runImage
      bState := if keep then .staged else .empty
      stagedVersion := if keep then m.stagedVersion else 0
      pages := if keep then m.pages else []
      imageLen := if keep then m.imageLen else 0 } }

/-- A block reset is requested (R650, R653, Table 16.7): its dump is written, everything outside the always-on
domain is cleared, pm_alive falls (R706) and the cellarers boot. -/
def blockResetBy (cause : Nat) (b : Block) : Block :=
  if b.maint.block then rstStatus .busyActive b
  else startBoot (resetBlock ((dumpBlock cause b).emit (.pmAlive false)))

/-- BLK_RST_REQ (R680). -/
def coreBlkRstReq (b : Block) : Block := if bitAt b.maint.straps 2 then blockResetBy 3 b else b

/-- A strait that is enabled is UP, FAILED or MISWIRED. -/
def straitSettled (s : Strait) : Bool := !s.enable || s.st == .up || s.st == .failed || s.st == .miswired

/-- BLOCK_RESET_DONE: the last step of Table 16.7 (R652, R706, R552); NODE_READY goes before the reports of the boot
(Table 12.5). -/
def coreBlockResetDone (b : Block) : Block :=
  if b.maint.boot ≠ .done ∨ !((List.range 32).all fun n => straitSettled (b.strait n)) then b
  else
    let b := rstStatus .ok { b with
      maint := { b.maint with block := false, boot := .idle, cold := false }
      pwr := { b.pwr with alive := true } }
    let held := b.fm.heldReports
    Block.each held (fun x => sendReport x.1 x.2)
      (sendReport 0x05 [] (raiseEvent 0x14 0 0xFF 2 0 0
        (({ b with fm := { b.fm with heldReports := [] } } : Block).emit (.pmAlive true))))

/-- POR_RELEASE (R679, R681, R706): the power-on begins, with the straps sampled; the lees is cleared later. -/
def corePorRelease (straps : Word) (b : Block) : Block :=
  ({ Block.reset with
     out := b.out
     free := b.free
     pwr := { alive := false }
     straits := (List.range 32).map fun n =>
       (n, { cls := shotrumClass n, oeReady := (b.strait n).oeReady, oeFault := (b.strait n).oeFault })
     maint := { block := true, cold := true, boot := .powerUp, straps := keep straps 63 32 ||| keep straps 2 1 } }).emit
    (.pmAlive false)

/-- POWER_ON_READY (R646, R679): the lees is cleared, and the cellarers wait for a staged image. -/
def corePowerOnReady (b : Block) : Block :=
  if b.maint.boot = .powerUp then leesOp (.clear 0 leesBytes) { b with maint := { b.maint with boot := .waitImage } } else b

/-- Straits that wait in a boot, while pm_alive is 0, take the places that come free (R606, R706, Table 16.7;
log 87). -/
def bootWakes (b : Block) : Block := if b.pwr.alive then b else grantWakes 0 b

end Sys2Proof.Machine
end

