-- ==== Sys2Proof/Machine/Upkeep.lean ====
section
/-!
DEFINITION. Engine resets (16_faults_reset_recovery.md R648, R652, R653), the maintenance arbiter (R655 to
R657), the cellar BIST (R660), the lifting of quarantine entries (R661), and the commands of the event front end
(17_ports_integration.md R711, R712; R412, R520).
-/

namespace Sys2Proof.Machine

/-! ### Engine resets -/

/-- UNIT of RST.ENGINE. -/
def unitCode : EngUnit → Nat
  | .press => 1
  | .ferry => 2
  | .xlat => 3

/-- The instances that a unit's reset acts on. -/
def unitInst (u : EngUnit) (x : Inst) : Bool :=
  match u with
  | .press => x.kind != 7
  | .ferry => x.kind == 7
  | .xlat => false

/-- The press gives its permit back, or stops waiting for it (R648, R602). -/
def pressDrop (b : Block) : Block :=
  let lent := match b.press.lentBy with
    | some (_, u) => u
    | none => 0
  let back (b : Block) : Block := match b.press.lentBy with
    | some (q, u) => returnLent q u { b with press := { b.press with permit := .none, lentBy := none } }
    | none => { b with press := { b.press with permit := .none, lentBy := none } }
  match b.press.permit with
  | .none => b
  | .waiting => back (cancelPermits (fun w => w == .press) b)
  | .held => returnUnits (24 - lent) (back b)

/-- The number under which the reset of XLAT keeps the uses that it waits for, beside those of the four agents. -/
def xlatReset : Nat := 4

/-- What a reset of a unit does at once (R648). -/
def resetUnit (u : EngUnit) (b : Block) : Block :=
  match u with
  | .press =>
    let b := dropFinished (resetWhere (unitInst .press) b)
    pressAgain (pressDrop { b with press := { b.press with insts := b.press.insts.map fun x => (x.1, { x.2 with accs := [] }) } })
  | .ferry =>
    let b := resetWhere (unitInst .ferry) b
    { b with ferry := { b.ferry with waiting := [] } }
  | .xlat =>
    let b := { b with maint := { b.maint with frozen := 0 } }
    let b := { b with xlat := { b.xlat with nextOrder := b.xlat.nextOrder + 1 } }
    let b := b.modInv xlatReset fun i => { i with old := [], order := b.xlat.nextOrder }
    let b := b.each (List.range 16) (raiseGen b.xlat.nextOrder)
    restartWalks (List.range 16) (dropEntries (fun _ => true) b)

/-- A unit written to RST.ENGINE (R648, R653). -/
def engineReset (u : EngUnit) (b : Block) : Block :=
  if b.maint.block ∨ b.maint.engines.contains u then rstStatus .busyActive b
  else rstStatus .ok (resetUnit u { b with maint := { b.maint with engines := b.maint.engines ++ [u] } })

/-- RST.ENGINE written; UNIT 0 names no unit. -/
def writeEngine (v : Word) (b : Block) : Block :=
  match bits v 1 0 with
  | 1 => engineReset .press b
  | 2 => engineReset .ferry b
  | 3 => engineReset .xlat b
  | _ => b

/-- An engine reset ends: RESET_DONE with its status (R652). -/
def endEngineReset (u : EngUnit) (st : Status) (b : Block) : Block :=
  let b := rstStatus st { b with maint := { b.maint with engines := b.maint.engines.filter fun x => x != u } }
  raiseEvent 0x14 st.code.toNat 0xFF 0 (w64 (unitCode u)) (BitVec.setWidth 64 st.code) b

/-- ENGINE_RESET_DONE. PRESS and FERRY end once the instances that the reset ended have left the table; XLAT once no
old use is left, or, with uses left, at the bound of R369, which freezes their contexts (R648, log 88). -/
def coreEngineResetDone (u : EngUnit) (b : Block) : Block :=
  if !b.maint.engines.contains u then b
  else
    match u with
    | .press | .ferry =>
      if b.press.insts.any fun x => x.2.st == .ending && unitInst u x.2 then b else endEngineReset u .ok b
    | .xlat =>
      let cs := ((invUses b xlatReset).map fun u => u.ctx).eraseDups.filter (ctxRuns b)
      if cs.isEmpty then endEngineReset .xlat .ok b
      else
        let b := b.each cs fun c b => freezeCtx c 7 .busyDraining 0xFF 0xFF 0 b
        let frozen := BitVec.ofNat 16 ((cs.map fun c => 2 ^ c).foldl (· + ·) 0)
        endEngineReset .xlat .busyDraining { b with maint := { b.maint with frozen } }

/-! ### Maintenance tokens -/

/-- A resource of Table 16.9. -/
def resourceListed (r : Nat) : Bool := decide (r < 0x24)

/-- MAINT.STATUS of a requester. -/
def maintStatus (h r : Nat) (st : Status) (holder : Nat) (b : Block) : Block :=
  let x : MaintStatus := { holder := BitVec.ofNat 8 holder, resource := BitVec.ofNat 8 r, status := st.code }
  { b with maint := { b.maint with mstatus := tset b.maint.mstatus h x } }

/-- An acquire written to MAINT.REQUEST (R655, R657, R291). -/
def maintAcquireBy (h r : Nat) (b : Block) : Block :=
  if !resourceListed r then maintStatus h r .access 0 b
  else if tokenBusy b r h then maintStatus h r .busy (b.token r).holder b
  else if r = resPress ∧ b.press.permit = .held then maintStatus h r .busyActive 0 b
  else maintStatus h r .ok 0 (b.setToken r { holder := h, explicit := true })

/-- A release written to MAINT.REQUEST (R657); the press may ask for its permit again (R291). -/
def maintReleaseBy (h r : Nat) (b : Block) : Block :=
  if !resourceListed r ∨ (b.token r).holder ≠ h then maintStatus h r .access 0 b
  else
    let b := maintStatus h r .ok 0 (b.setToken r {})
    if r = resPress then pressAgain b else b

/-! ### The cellar BIST -/

/-- Nothing that the BIST would overwrite is held (R660). -/
def bistClear (b : Block) : Bool :=
  ((List.range 16).all fun c => !ctxRuns b c) && (b.press.insts.all fun x => x.2.st == .free) &&
    slotsReserved b == 0 && b.press.permit != .held

/-- STATUS of MAINT.BIST_RESULT. -/
def bistStatus (st : Status) (b : Block) : Block := { b with maint := { b.maint with bistStatus := st.code } }

/-- START written to MAINT.BIST (R655, R660). -/
def bistStartBy (h : Nat) (b : Block) : Block :=
  if b.maint.bistState = 1 then bistStatus .busyActive b
  else if tokenBusy b resCellar h then bistStatus .busy b
  else if !bistClear b then bistStatus .busyActive b
  else
    let b := bistStatus .ok (takeToken resCellar h b)
    askPermit .bist 16 { b with maint := { b.maint with
      bistState := 1, bistWaiting := true, bistErrors := 0, bistFirst := 0, bistHolder := h } }

/-- BIST_DONE (R660): its units and its token go back. -/
def coreBistDone (errors first : BitVec 24) (b : Block) : Block :=
  if b.maint.bistState ≠ 1 ∨ b.maint.bistWaiting then b
  else
    let b := endToken resCellar (returnUnits 16 { b with maint := { b.maint with
      bistState := if errors = 0 then 2 else 3, bistErrors := errors, bistFirst := first } })
    raiseEvent 0x16 0 0xFF 0xFF (BitVec.setWidth 64 errors) (BitVec.setWidth 64 first) b

/-! ### Quarantine -/

/-- GO written to QUAR.LIFT (R661). -/
def quarLift (k : Nat) (b : Block) : Block :=
  let st (s : Status) (b : Block) : Block := { b with maint := { b.maint with quarStatus := s.code } }
  if (List.range 16).any fun e => (b.rack e).maintValid && (b.rack e).maintEntry.toNat == k then st .busyActive b
  else if (tget none b.home.quar k).isNone then st .access b
  else st .ok { b with home := { b.home with quar := tset b.home.quar k none } }

/-! ### The event front end -/

/-- MSIX_MODERATION_EXPIRY (R711). -/
def coreMsixExpiry (v : Nat) (b : Block) : Block :=
  let st := tget ({} : VecState) b.evt.vecs v
  let free : Bool := match st.sent with
    | none => true
    | some t => decide (t + b.evt.moderation.toNat ≤ b.time.loc)
  if st.further ∧ free then
    ({ b with evt := { b.evt with vecs := tset b.evt.vecs v { sent := some b.time.loc, further := false } } }).emit (.msix v)
  else b

/-- A ring size in force (R712). -/
def ringSizeOk (n : Nat) : Bool := decide (6 ≤ n ∧ n ≤ 20)

/-- EVT.CTRL written (R712): setting ENABLE to 1 sets HEAD to TAIL; it is ignored while LOG2 is outside 6 to 20. -/
def writeEvtCtrl (v : Word) (b : Block) : Block :=
  let on := bitAt v 0
  if on ∧ !ringSizeOk b.evt.log2.toNat then b
  else { b with evt := { b.evt with
    completeVec := BitVec.ofNat 4 (bits v 11 8)
    faultVec := BitVec.ofNat 4 (bits v 7 4)
    enable := on
    head := if on ∧ !b.evt.enable then b.evt.tail else b.evt.head } }

/-- The millisecond of network time. -/
def netMs (b : Block) : Nat := b.time.net.toNat / 1000000

/-- STRANGER_EVENT_WINDOW (R412): at most one event in each millisecond of network time. -/
def coreStrangerWindow (b : Block) : Block :=
  let n := tget 0 b.keys.strangers 0 + tget 0 b.keys.strangers 1 + tget 0 b.keys.strangers 2
  if n = b.keys.strangerMark ∨ b.keys.strangerMs = some (netMs b) then b
  else raiseEvent 0x0D 0 0xFF 0xFF (strangerLast b) 0
    { b with keys := { b.keys with strangerMark := n, strangerMs := some (netMs b) } }

/-- STALE_EPOCH_WINDOW (R520): at most one event in each millisecond of network time. -/
def coreStaleWindow (b : Block) : Block :=
  if b.route.staleEpoch = b.route.staleMark ∨ b.route.staleMs = some (netMs b) then b
  else raiseEvent 0x0E 0 0xFF 0xFF (staleLast b) 0
    { b with route := { b.route with staleMark := b.route.staleEpoch, staleMs := some (netMs b) } }

end Sys2Proof.Machine
end

