-- ==== Sys2Proof/Machine/RegWrite.lean ====
section
/-!
DEFINITION. Writes of registers (18_register_map.md R714 to R720): what a whole 64-bit write does to each register,
the paths (Table 18.4, R554) and the writes that wait for the datapath clock (R43, R716).
-/

namespace Sys2Proof.Machine

/-! ### Assigned offsets (R715) -/

/-- `o` is one of the 8 B offsets from `lo` up to `hi`. -/
def inSpan (o lo hi : Nat) : Bool := decide (lo ≤ o ∧ o ≤ hi ∧ o % 8 = 0)

/-- The table that Table 18.1 names assigns the offset to a register. -/
def Reg.known : Reg → Bool
  | .ident o => o == 0 || inSpan o 0x10 0x38
  | .glob o => inSpan o 0 0x58 || inSpan o 0x100 0x118 || inSpan o 0x200 0x260 || inSpan o 0x280 0x2C0 ||
      inSpan o 0x300 0x350 || o == 0x400
  | .members .. | .route .. | .harb .. | .tideEntry .. | .list _ | .tally .. | .lees _ => true
  | .strait _ o => inSpan o 0 0x60 || inSpan o 0x80 0xE0 || inSpan o 0x100 0x120
  | .ctx _ o => inSpan o 0 0x58 || inSpan o 0x80 0x98
  | .seq _ o => inSpan o 0 0x50 || inSpan o 0x80 0x100 || inSpan o 0x110 0x128
  | .rack _ o => inSpan o 0 0x40
  | .press o => inSpan o 0 0x38 || inSpan o 0x100 0x178
  | .inst _ o => inSpan o 0 8
  | .ferry o => inSpan o 0 0x40
  | .xlat o => inSpan o 0 0x20
  | .inv _ o => inSpan o 0 0x28
  | .xctx _ o => inSpan o 0 0x18 || (inSpan o 0x40 0xB8 && o % 0x20 != 0x18)
  | .sched o => inSpan o 0 0x10
  | .queue _ o => inSpan o 0 8
  | .meter _ o => inSpan o 0 0x38
  | .chart _ o => inSpan o 0 0x10 || inSpan o 0x20 0x98
  | .thief o => inSpan o 0 0x78
  | .watch _ o => inSpan o 0 8
  | .compat _ o => inSpan o 0 0xD8
  | .utilS _ o => inSpan o 0 0x20
  | .util o => inSpan o 0 0x28
  | .pwr o => inSpan o 0 0x60
  | .rst o => inSpan o 0 0x30 || inSpan o 0x100 0x120 || inSpan o 0x140 0x160 || inSpan o 0x180 0x188 ||
      inSpan o 0x200 0x218 || inSpan o 0x300 0x318 || inSpan o 0x400 0x510
  | .sec o => inSpan o 0 0x40 || (inSpan o 0x100 0x2F8 && o % 0x20 != 0x18) || inSpan o 0x300 0x318 ||
      inSpan o 0x400 0x4F8 || inSpan o 0x800 0x8B0
  | .none => false

/-! ### One register -/

/-- A write that Dimbe 3 ignores and counts (R683, R720). -/
def countIgnored (b : Block) : Block := { b with evt := { b.evt with ctlIgnored := b.evt.ctlIgnored + 1 } }

/-- A write of more than one action bit (R720). -/
def manyActions (b : Block) : Status × Block := (.access, countIgnored b)

/-- A write that answers OK whatever it does. -/
def okWrite (b : Block) : Status × Block := (.ok, b)

/-- SEQ[s].CTRL (Table 2.9). -/
def writeSeqCtrl (lees : List Host.Cell) (q : Nat) (v : Word) (b : Block) : Status × Block :=
  match finOf 64 q with
  | none => okWrite b
  | some q =>
    match bits v 3 0 with
    | 0 => okWrite b
    | 8 => okWrite (seqLoad q b)
    | 4 => okWrite (seqUnload q b)
    | 2 => okWrite (seqStop q b)
    | 1 => okWrite (seqStart lees q b)
    | _ => manyActions b

/-- A sequencer is in IDLE, LOADED or HALTED (R92). -/
def seqAtRest (s : Seq) : Bool := s.st == .idle || s.st == .loaded || s.st == .halted

/-- Sequencer registers (Table 2.9, R52, R92). -/
def writeSeq (lees : List Host.Cell) (q o : Nat) (v : Word) (b : Block) : Status × Block :=
  match o with
  | 0x000 => okWrite (b.modSeq q fun s =>
      if s.st = .idle then { s with ownerValid := bitAt v 4, owner := ⟨bits v 3 0 % 16, Nat.mod_lt _ (by decide)⟩ } else s)
  | 0x010 => writeSeqCtrl lees q v b
  | 0x020 => okWrite (b.modSeq q fun s => if seqAtRest s then { s with loadAddr := keep v 63 6 } else s)
  | 0x040 => okWrite (b.modSeq q fun s => if seqAtRest s then { s with crecAddr := keep v 63 6 } else s)
  | _ => okWrite b

/-- An engine of the context's mask is not IDLE or has a queued transfer (R257). -/
def csumLocked (b : Block) (c : Nat) : Bool :=
  (ownEngines b c).any fun e => (b.rack e).st != .idle || !(b.rack e).queue.isEmpty

/-- CTX[c].CTRL: FREEZE acts before RESET (Table 18.5). -/
def writeCtxCtrl (c : Nat) (v : Word) (b : Block) : Block :=
  let b := if bitAt v 0 then coreCtxFreeze c b else b
  if bitAt v 1 then coreCtxReset c b else b

/-- Context registers (Tables 2.1, 4.4, 5.6, 9.7). -/
def writeCtx (c o : Nat) (v : Word) (b : Block) : Block :=
  match o with
  | 0x000 => writeBind c v b
  | 0x008 => writeMask c v b
  | 0x028 => writeCtxCtrl c v b
  | 0x040 => b.modCtx c fun x => { x with tagLimit := BitVec.ofNat 14 v.toNat }
  | 0x080 => if csumLocked b c then b else b.modCtx c fun x => { x with csumLo := keep v 56 12 }
  | 0x088 => if csumLocked b c then b else b.modCtx c fun x => { x with csumHi := keep v 56 12 }
  | 0x090 => if csumLocked b c then b else b.modCtx c fun x => { x with csumSide := keep v 56 6 }
  | 0x098 => b.modCtx c fun x => { x with sealTags := keep v 56 4 }
  | _ => b

/-- RACK[e].MAINT (R252). -/
def writeRackMaint (e : Nat) (v : Word) (b : Block) : Block :=
  b.modRack e fun r =>
    if r.st = .idle ∧ r.queue.isEmpty then { r with maintValid := bitAt v 8, maintEntry := BitVec.ofNat 5 v.toNat } else r

/-- Registers from 0x1000 (Tables 17.17, 18.3, 11.13, 12.7). HOST_LOCK is cleared by a control message only (R554). -/
def writeGlob (p : Path) (o : Nat) (v : Word) (b : Block) : Status × Block :=
  match o with
  | 0x000 => okWrite (if b.evt.enable then b else { b with evt := { b.evt with ringBase := keep v 63 6 } })
  | 0x008 => okWrite (if b.evt.enable ∨ !ringSizeOk (bits v 4 0) then b else
      { b with evt := { b.evt with log2 := BitVec.ofNat 5 v.toNat } })
  | 0x018 => okWrite { b with evt := { b.evt with tail := BitVec.ofNat 32 v.toNat } }
  | 0x020 => okWrite (writeEvtCtrl v b)
  | 0x028 => okWrite { b with evt := { b.evt with moderation := BitVec.ofNat 32 v.toNat } }
  | 0x040 => okWrite { b with evt := { b.evt with alerts := w1c b.evt.alerts v } }
  | 0x200 => okWrite (if (List.range 32).all fun n => (b.strait n).st == .disabled then
      { b with route := { b.route with self := BitVec.ofNat 13 v.toNat } } else b)
  | 0x208 => writeRouteCtrl v b
  | 0x220 => (writeBank 0 0x00 v b).getD (okWrite b)
  | 0x228 => (writeBank 0 0x08 v b).getD (okWrite b)
  | 0x230 => (writeBank 0 0x10 v b).getD (okWrite b)
  | 0x240 => (writeBank 1 0x00 v b).getD (okWrite b)
  | 0x248 => (writeBank 1 0x08 v b).getD (okWrite b)
  | 0x250 => (writeBank 1 0x10 v b).getD (okWrite b)
  | 0x260 => okWrite { b with route := { b.route with spillAt := BitVec.ofNat 20 v.toNat } }
  | 0x300 => okWrite { b with fm := { b.fm with sources := tset b.fm.sources 0 (keep v 63 63 ||| keep v 12 0) } }
  | 0x308 => okWrite { b with fm := { b.fm with sources := tset b.fm.sources 1 (keep v 63 63 ||| keep v 12 0) } }
  | 0x310 => okWrite { b with fm := { b.fm with hostLock := bitAt v 0 || (b.fm.hostLock && p != .fm) } }
  | _ => okWrite b

/-- STRAIT[n].CTRL (R448, R467, R682, Table 18.5): ENABLE is set, then the request acts. -/
def writeStraitCtrl (p : Path) (n : Nat) (v : Word) (b : Block) : Status × Block :=
  if bitAt v 1 ∧ bitAt v 2 then manyActions b
  else if bitAt v 0 ∧ !bitAt b.maint.straps (32 + n) then okWrite b
  else
    let b := if bitAt v 0 = (b.strait n).enable then b else if bitAt v 0 then enableStrait n b else disableStrait n b
    if bitAt v 2 then straitRequest .calibrate p.holder n (bitAt v 3) b
    else if bitAt v 1 then straitRequest .retrain p.holder n (bitAt v 3) b
    else okWrite b

/-- Strait registers (Table 10.10). -/
def writeStrait (p : Path) (n o : Nat) (v : Word) (b : Block) : Status × Block :=
  match o with
  | 0x010 => writeStraitCtrl p n v b
  | 0x030 => okWrite (b.modStrait n fun s => { s with expect := keep v 63 63 ||| keep v 50 50 ||| keep v 20 16 ||| keep v 12 0 })
  | 0x050 => okWrite (b.modStrait n fun s => { s with doze := keep v 63 16 ||| keep v 0 0 })
  | 0x058 => okWrite (b.modStrait n fun s => { s with tsAsym := BitVec.ofNat 32 v.toNat })
  | 0x060 => okWrite (b.modStrait n fun s => { s with laneAlarm := BitVec.ofNat 32 v.toNat })
  | _ => okWrite b

/-- Invalidation registers (Table 8.7). -/
def writeInv (a o : Nat) (v : Word) (b : Block) : Block :=
  match o with
  | 0x00 => b.modInv a fun i => { i with addr := keep v 56 16 }
  | 0x08 => b.modInv a fun i => { i with units := BitVec.ofNat 32 v.toNat }
  | 0x10 => b.modInv a fun i => { i with ackAddr := keep v 63 3 }
  | 0x18 => invStart a (bits v 9 8) (bits v 3 0) (BitVec.ofNat 32 (bits v 63 32)) b
  | _ => b

/-- HARB[c][w] (Table 8.9, R375). -/
def writeHarb (c w : Nat) (limit : Bool) (v : Word) (b : Block) : Block :=
  b.modCtx c fun x =>
    let h := tget ({} : Window) x.windows w
    let h := if limit then (if h.valid then h else { h with limit := BitVec.ofNat 34 (bits v 49 16) })
      else if h.valid ∧ bitAt v 63 then h
      else { h with withdrawn := if h.valid then h.withdrawn + 1 else h.withdrawn
                    valid := bitAt v 63, rd := bitAt v 61, wr := bitAt v 60, atm := bitAt v 59
                    base := BitVec.ofNat 34 (bits v 49 16) }
    { x with windows := tset x.windows w h }

/-- XLAT.CTX[c].ROOT (R351). -/
def writeRoot (c : Nat) (v : Word) (b : Block) : Block :=
  b.modCtx c fun x => if x.valid then x else { x with root := keep v 49 12 ||| keep v 0 0 }

/-- Shaper and tide registers of a strait (Table 13.10, R571, R581, R586, R587). -/
def writeChart (n o : Nat) (v : Word) (b : Block) : Block :=
  match o with
  | 0x00 => b.modEg n fun e => { e with ovh := keep v 24 0 }
  | 0x08 => b.modEg n fun e => { e with strait := writeShape b.time.loc v e.strait }
  | 0x20 => b.modEg n fun e => { e with parts := tmod {} e.parts 0 (writeShape b.time.loc v) }
  | 0x30 => b.modEg n fun e => { e with parts := tmod {} e.parts 1 (writeShape b.time.loc v) }
  | 0x40 => b.modEg n fun e => { e with parts := tmod {} e.parts 2 (writeShape b.time.loc v) }
  | 0x50 => b.modEg n fun e => { e with parts := tmod {} e.parts 3 (writeShape b.time.loc v) }
  | 0x60 => b.modTide n fun t => { t with enable := bitAt v 0 }
  | 0x68 => (writeTideAdmin n (fun t => { t with adminBase := v }) b).2
  | 0x70 => (writeTideAdmin n (fun t => { t with adminCycle := keep v 38 32 ||| keep v 26 0 }) b).2
  | 0x78 => (writeTideChange n v b).2
  | _ => b

/-- WATCH_BASE and WATCH_SIZE are not written now (R629). -/
def watchLocked (b : Block) : Bool :=
  !b.thief.copies.isEmpty || (List.range 64).any fun w => bitAt (b.watch w).ctrl 63

/-- Thief control registers (Table 15.6, R611, R616, R629). -/
def writeThief (o : Nat) (v : Word) (b : Block) : Block :=
  let t := b.thief
  let on := bitAt t.ctrl 0
  match o with
  | 0x00 => writeThiefCtrl v b
  | 0x08 => if on then b else { b with thief := { t with ringBase := keep v 63 6 } }
  | 0x10 =>
    if on then b
    else
      let b := { b with thief := { t with ringSize := v } }
      { b with thief := { b.thief with above := decide (ringNotify b ≠ 0 ∧ ringNotify b ≤ ringFill b) } }
  | 0x20 => ringCheck { b with thief := { t with tail := indexWrite v (ringSize b) } }
  | 0x28 => { b with thief := { t with samplePeriod := BitVec.ofNat 32 v.toNat } }
  | 0x30 => { b with thief := { t with pcPeriod := BitVec.ofNat 32 v.toNat } }
  | 0x38 => { b with thief := { t with pcMask := v } }
  | 0x40 => { b with thief := { t with traceCtrl := keep v 31 16 ||| keep v 11 0 } }
  | 0x48 => { b with thief := { t with matchShift := BitVec.ofNat 6 v.toNat } }
  | 0x60 => if watchLocked b then b else { b with thief := { t with watchBase := keep v 63 6 } }
  | 0x68 => if watchLocked b then b else { b with thief := { t with watchSize := BitVec.ofNat 32 v.toNat } }
  | 0x78 => { b with thief := { t with watchTail := indexWrite v t.watchSize.toNat } }
  | _ => b

/-- Compatibility registers (Table 15.8). -/
def writeCompat (lees : List Host.Cell) (k o : Nat) (v : Word) (b : Block) : Block :=
  if 0x20 ≤ o ∧ o < 0x60 then b.modCompat k fun x => { x with sel := tset x.sel ((o - 0x20) / 8) (keep v 23 3) }
  else match o with
    | 0x00 => coreCompatBind lees k v b
    | 0x08 => if bitAt v 0 then coreCompatLatch lees k b else b
    | _ => b

/-- The cause of a block reset in the lees header, by the path that asks for it (Table 16.4). -/
def resetCause : Path → Nat
  | .control => 1
  | .rot => 2
  | .fm => 1
  | .cellarer => 3

/-- Reset and maintenance registers (Table 16.12). -/
def writeRst (p : Path) (o : Nat) (v : Word) (b : Block) : Block :=
  match o with
  | 0x000 => writeEngine v b
  | 0x008 => if bitAt v 2 then corePartitionReset (bits v 1 0) b else b
  | 0x010 => if bitAt v 0 ∧ bits v 63 48 = 0xD1B3 then blockResetBy (resetCause p) b else b
  | 0x100 => if bitAt v 8 then maintReleaseBy p.holder (bits v 7 0) b else maintAcquireBy p.holder (bits v 7 0) b
  | 0x180 => if bitAt v 0 then bistStartBy p.holder b else b
  | 0x200 => if bitAt v 0 then fwActivateBy p.holder b else b
  | 0x308 => writeSlots v b
  | 0x310 => if bitAt v 4 then coreLeesDump (bits v 3 0) b else b
  | 0x500 => if bitAt v 5 then quarLift (bits v 4 0) b else b
  | _ => b

/-- Security registers, as the RoT writes them (Table 9.9). -/
def writeSec (o : Nat) (v : Word) (b : Block) : Block :=
  let key (i : Nat) : Block :=
    let m : BitVec 256 := BitVec.ofNat 256 ((2 ^ 64 - 1) <<< (64 * i))
    { b with keys := { b.keys with key := (b.keys.key &&& ~~~m) ||| BitVec.ofNat 256 (v.toNat <<< (64 * i)) } }
  match o with
  | 0x000 => coreSecCmd (bits v 7 0) b
  | 0x008 => { b with keys := { b.keys with arg0 := keep v 63 12 ||| keep v 5 4 ||| keep v 2 0 } }
  | 0x010 => { b with keys := { b.keys with arg1 := keep v 63 63 ||| keep v 49 16 ||| keep v 3 0 } }
  | 0x018 => { b with keys := { b.keys with arg2 := keep v 49 16 } }
  | 0x020 => key 0
  | 0x028 => key 1
  | 0x030 => key 2
  | 0x038 => key 3
  | _ => b

/-- A whole 64-bit write of a register (R719): its outcome as a control-message item sees it (R543, R720), and what it
does. -/
def writeReg (p : Path) (lees : List Host.Cell) (r : Reg) (v : Word) (b : Block) : Status × Block :=
  match r with
  | .glob o => writeGlob p o v b
  | .members q w => okWrite { b with fm := { b.fm with members := tset b.fm.members (128 * q + w) v } }
  | .strait n o => writeStrait p n o v b
  | .route k node => writeEntry k node v b
  | .ctx c o => okWrite (writeCtx c o v b)
  | .seq q o => writeSeq lees q o v b
  | .rack e o => okWrite (if o = 0x040 then writeRackMaint e v b else b)
  | .press o => okWrite (if o = 0 then { b with press := { b.press with groupBase := keep v 63 12 } } else b)
  | .ferry o => okWrite (match o with
    | 0 => { b with ferry := { b.ferry with planeA := BitVec.ofNat 32 v.toNat } }
    | 8 => { b with ferry := { b.ferry with planeB := BitVec.ofNat 32 v.toNat } }
    | _ => b)
  | .inv a o => okWrite (writeInv a o v b)
  | .xctx c o => okWrite (if o = 0 then writeRoot c v b else b)
  | .harb c w limit => okWrite (writeHarb c w limit v b)
  | .sched o => okWrite (if o = 0 then { b with sched := { b.sched with samplePeriod := BitVec.ofNat 32 v.toNat } } else b)
  | .queue q o => okWrite (if o = 0 then
      { b with sched := { b.sched with cfg := tset b.sched.cfg q (some (keep v 31 16 ||| keep v 11 0)) } } else b)
  | .meter m o => okWrite (match o with
    | 0x00 => writeMeterCtrl m v b
    | 0x08 => writeMeterSetting m false v b
    | 0x10 => writeMeterSetting m true v b
    | _ => b)
  | .chart n o => okWrite (writeChart n o v b)
  | .tideEntry n oper e =>
    okWrite (if oper then b else (writeTideAdmin n (fun t => { t with admin := tset t.admin e v }) b).2)
  | .thief o => okWrite (writeThief o v b)
  | .watch w o =>
    let x : Watch := { b.watch w with ctrl := keep v 63 63 ||| keep v 59 56 ||| keep v 47 0 }
    okWrite (if o = 0 then { b with thief := { b.thief with watches := tset b.thief.watches w x } } else b)
  | .compat k o => okWrite (writeCompat lees k o v b)
  | .list i => okWrite { b with thief := { b.thief with list := tset b.thief.list i (keep v 63 63 ||| keep v 23 3) } }
  | .pwr o => okWrite (match o with
    | 0x08 => { b with pwr := { b.pwr with dpIdle := BitVec.ofNat 32 v.toNat } }
    | 0x10 => writeHostAwake v b
    | _ => b)
  | .rst o => okWrite (writeRst p o v b)
  | .sec o => okWrite (writeSec o v b)
  | .ident _ | .inst .. | .xlat _ | .utilS .. | .util _ | .tally .. | .lees _ | .none => okWrite b

/-! ### Paths (Table 18.4) -/

/-- A target of control-message writes (Table 12.8). -/
def fmTarget (off : Nat) : Bool :=
  decide (0x1200 ≤ off ∧ off < 0x1318) || decide (0x4000 ≤ off ∧ off < 0x5000) ||
  (decide (0x10000 ≤ off ∧ off < 0x20000) && (off % 0x800 == 0x010 || off % 0x800 == 0x030)) ||
  decide (0x20000 ≤ off ∧ off < 0x40000) || decide (0x68000 ≤ off ∧ off < 0x68010) ||
  decide (0x80000 ≤ off ∧ off < 0x90000)

/-- The path may write the register at an offset (R554, R718). -/
def mayWrite (b : Block) (p : Path) (off : Nat) : Bool :=
  match Reg.ofOffset off with
  | .sec _ => p == .rot
  | .lees _ => false
  | _ =>
    if fmTarget off then !(p == .control && b.fm.hostLock)
    else p != .fm

/-- A register write that waits for the datapath clock (R43, R42). -/
def holdWrite (p : Path) (off : Nat) (v : Word) (b : Block) : Block :=
  startClock { b with pwr := { b.pwr with heldWrites := b.pwr.heldWrites ++ [{ path := p, off, val := v }] } }

/-- The write at an aligned offset that its path may make has to wait. -/
def mustWait (b : Block) (off : Nat) : Bool := (Reg.ofOffset off).dp && (Reg.ofOffset off).known && !b.dpRuns

/-- A write to a datapath register is a start cause in its cycle (R42, R592). -/
def kickAt (off : Nat) (b : Block) : Block := if (Reg.ofOffset off).dp && (Reg.ofOffset off).known then kick b else b

/-- A write on a path (R683, R699, R718). The ports are not ready before t_p + 400 µs (R679). -/
def busWrite (p : Path) (off : Nat) (size8 : Bool) (v : Word) (lees : List Host.Cell) (b : Block) : Block :=
  if !portsReady b then b
  else if off % 8 ≠ 0 ∨ !size8 then countIgnored b
  else if !mayWrite b p off then b
  else if mustWait b off then holdWrite p off v b
  else (writeReg p lees (Reg.ofOffset off) v (kickAt off b)).2

/-- A read of 8 or 4 bytes on a path: its data, and the block after it (R683, R43, R716, R718). A misaligned one is
counted; any other changes nothing. The table has no row for a read, so no command calls it (log 12). -/
def busRead (p : Path) (off : Nat) (size8 : Bool) (lees : List Host.Cell) (b : Block) : Word × Block :=
  if !portsReady b then (0, b)
  else if off % (if size8 then 8 else 4) ≠ 0 then (0, countIgnored b)
  else
    let v := readPath p lees b (Reg.ofOffset (off / 8 * 8))
    (if size8 then v else w64 (bits v (8 * (off % 8) + 31) (8 * (off % 8))), b)

/-- DP_CLOCK_RUNNING: the start ends, held register writes complete in order, latched requests are taken (R43, R590,
R678). -/
def coreDpClockRunning (lees : List Host.Cell) (b : Block) : Block :=
  if b.pwr.dp ≠ .starting then b
  else
    let held := b.pwr.heldWrites
    let b := { b with pwr := { b.pwr with dp := .running, heldWrites := [] } }
    takeLatched (b.each held fun h b => (writeReg h.path lees (Reg.ofOffset h.off) h.val b).2)

end Sys2Proof.Machine
end

