-- ==== Sys2Proof/Machine/Fabric.lean ====
section
/-!
DEFINITION. Messages of the fabric manager as the active cellarer applies them (12_topology_partitions.md R541 to R553):
the head of the control queue, its outcome, its record and its answer; reports and their acknowledgement.
-/

namespace Sys2Proof.Machine

/-! ### Items -/

/-- Offset and value of item i of a WRITE or WRITE_BLOCK (Table 12.4). -/
def itemOf (m : CtlMsg) (i : Nat) : Nat × Word :=
  if mKind m = 1 then (bits (mItem m i) 87 64, BitVec.ofNat 64 (mItem m i).toNat) else (mOffset m + 8 * i, mValue m i)

/-- One item as a 64-bit write of the fabric manager (R542, R543). An item whose offset is not 8 B aligned is a write
that is ignored and counted (R683). -/
def applyItem (lees : List Host.Cell) (off : Nat) (v : Word) (b : Block) : Status × Block :=
  if !fmTarget off then (.access, b)
  else if off % 8 ≠ 0 then okWrite (countIgnored b)
  else writeReg .fm lees (Reg.ofOffset off) v b

/-- The items in order, up to the first that is refused: its status and its index, or OK and their number (R543). -/
def applyItems (lees : List Host.Cell) (i : Nat) : List (Nat × Word) → Block → Status × Nat × Block
  | [], b => (.ok, i, b)
  | x :: xs, b =>
    match applyItem lees x.1 x.2 b with
    | (.ok, b) => applyItems lees (i + 1) xs b
    | (st, b) => (st, i, b)

/-- The items of a message. -/
def itemsOf (m : CtlMsg) : List (Nat × Word) := (List.range (mCount m)).map (itemOf m)

/-- An item needs the datapath clock and it does not run (R42, R43). -/
def itemsWait (m : CtlMsg) (b : Block) : Bool :=
  (itemsOf m).any fun x => fmTarget x.1 && mustWait b x.1

/-! ### Answers and the record (R544, R548) -/

/-- The RESPONSE to a message, to the source of the copy that it answers. -/
def respond (m : CtlMsg) (dup : Bool) (status : Byte) (index : Nat) (body : List Byte) (b : Block) : Block :=
  sendControl m.src.toNat
    (ctlHeader 0x81 (bits m.w0 119 119) dup.toNat (mCount m) status.toNat index (mSeq m) 0 0 0 ++ body) b

/-- What R544 does with a sequenced message. -/
inductive Copy where
  | fresh
  | duplicate (status : Byte) (index : Nat)
  | tooOld
  deriving DecidableEq, Repr

/-- The case of R544 for a sequence. -/
def copyOf (b : Block) (s : Nat) : Copy :=
  match b.fm.record.find? fun x => x.1 == s with
  | some (_, st, i) => .duplicate st i
  | none => if s + 1024 ≤ b.fm.high.toNat then .tooOld else .fresh

/-- The outcome of a message is recorded, FM.HIGH becomes max(H, s), and sequences up to H − 1,024 leave the record. -/
def recordOutcome (s : Nat) (st : Byte) (i : Nat) (b : Block) : Block :=
  let h := max b.fm.high.toNat s
  { b with fm := { b.fm with
    high := w64 h, applied := b.fm.applied + 1
    record := (b.fm.record ++ [(s, st, i)]).filter fun x => decide (h < x.1 + 1024) } }

/-- A sequenced message: applied and recorded, or answered from the record, or discarded (R544). -/
def sequenced (m : CtlMsg) (f : Block → Status × Nat × Block) (b : Block) : Block :=
  match copyOf b (mSeq m) with
  | .tooOld => { b with fm := { b.fm with tooOld := b.fm.tooOld + 1 } }
  | .duplicate st i =>
    respond m true st i [] { b with fm := { b.fm with duplicates := b.fm.duplicates + 1 } }
  | .fresh =>
    let (st, i, b) := f b
    respond m false st.code i [] (recordOutcome (mSeq m) st.code i b)

/-- The head of the control queue, when the active cellarer can take it and it is what the command names (R549, R665). -/
def withHead (sel : CtlMsg → Bool) (f : CtlMsg → Block → Block) (b : Block) : Block :=
  if b.maint.lost then b
  else
    match b.fm.queue with
    | [] => b
    | m :: ms => if sel m then f m { b with fm := { b.fm with queue := ms } } else b

/-- A WRITE or WRITE_BLOCK: it stays at the head while an item needs the datapath clock, which it starts (R42, R43). -/
def writeMessage (lees : List Host.Cell) (kind : Nat) (b : Block) : Block :=
  withHead (fun m => mKind m == kind)
    (fun m b' => if itemsWait m b then startClock b else sequenced m (applyItems lees 0 (itemsOf m)) b') b

/-- FM_WRITE (R542 to R544). -/
def coreFmWrite (lees : List Host.Cell) (b : Block) : Block := writeMessage lees 1 b

/-- WRITE_BLOCK (R542 to R544). -/
def coreWriteBlock (lees : List Host.Cell) (b : Block) : Block := writeMessage lees 2 b

/-- An offset lies in the security block. -/
def inSecurity (off : Nat) : Bool :=
  match Reg.ofOffset off with
  | .sec _ => true
  | _ => false

/-- READ_BLOCK: the values, or ACCESS from the first offset in the security block on (R542, R548). -/
def coreReadBlock (lees : List Host.Cell) (b : Block) : Block :=
  withHead (fun m => mKind m == 3)
    (fun m b =>
      let offs := (List.range (mCount m)).map fun i => mOffset m + 8 * i
      let good := offs.takeWhile fun o => !inSecurity o
      let vals := good.map fun o => readPath .fm lees b (Reg.ofOffset o)
      let rest := List.replicate (mCount m - good.length) (0 : Word)
      let st : Status := if good.length = mCount m then .ok else .access
      respond m false st.code good.length ((vals ++ rest).flatMap fun v => natBytes 8 v.toNat) b) b

/-- A NOTICE whose code is chosen by `sel`. -/
def notice (sel : Nat → Bool) (f : CtlMsg → Block → Status × Block) (b : Block) : Block :=
  withHead (fun m => mKind m == 4 && sel (mCode m))
    (fun m b => sequenced m (fun b => let (st, b) := f m b; (st, 0, b)) b) b

/-- NOTICE_DIVERGED (Table 12.6, R312). -/
def coreNoticeDiverged (b : Block) : Block :=
  notice (· == 1) (fun m b => okWrite (noticeDiverged (bits m.w1 119 110) (bits m.w1 109 78) b)) b

/-- NOTICE_PEER_FAULT (Table 12.6). -/
def coreNoticePeerFault (b : Block) : Block :=
  notice (· == 2) (fun m b => okWrite (raiseEvent 0x11 0 0xFF 0xFF (BitVec.ofNat 64 (bits m.w1 119 107)) 0 b)) b

/-- NOTICE_UNDEFINED: answered with ACCESS (R553). -/
def coreNoticeUndefined (b : Block) : Block :=
  notice (fun c => c != 1 && c != 2) (fun _ b => (.access, b)) b

/-! ### Reports (R552) -/

/-- REPORT_ACK: its report is not sent again. -/
def coreReportAck (b : Block) : Block :=
  withHead (fun m => mKind m == 5)
    (fun m b => { b with fm := { b.fm with reports := b.fm.reports.filter fun r => r.seq != mSeq m } }) b

/-- REPORT_RESEND: 100 µs have passed; what is unacknowledged is sent again. -/
def coreReportResend (b : Block) : Block :=
  if b.maint.lost then b else b.each b.fm.reports transmitReport

end Sys2Proof.Machine
end

