-- ==== Sys2Proof/Machine/Run.lean ====
section
/-!
DEFINITION. The meaning of every command: what is common to all of them (`State.act`, `settle`), and one definition for
each row of the table. A row that is a register write goes through the register front end (`busWrite`) at the register's
offset, so that its path, the alignment and the datapath clock count as for any other write (R43, R683, R718).
-/

namespace Sys2Proof.Machine

/-! ### What follows every command -/

/-- The use whose slot ran out of packet numbers fails as under a retired key (R740). -/
def failExhausted (k : Nat) (u : PktUse) (b : Block) : Block :=
  match u with
  | .none => b
  | .tag t => portalFail t .keyRetired 6 k b
  | .chunk e _ => xferFail e .keyRetired 6 k b
  | .home k => unrefSlot k b
  | .inst i =>
    let x := b.inst i
    freezeCtx x.ctx 6 .keyRetired k (if x.issued then x.seq else 0xFF) (if x.issued then x.pc.toNat else 0) b

/-- Uses that found their slot exhausted in this command fail (R740). -/
def failAllExhausted (b : Block) : Block :=
  Block.each b.route.exhausted (fun x b => failExhausted x.1 x.2 b)
    { b with route := { b.route with exhausted := [] } }

/-- The straits with queued packets, or with a queue that was eligible, look at their queues again: one that has become
eligible takes its tags, and one that no longer is has lost them (R563, R565). -/
def refreshAll (b : Block) : Block :=
  b.each ((b.egress.filter fun e => !e.2.elig.isEmpty || e.2.queues.any fun q => !q.2.isEmpty).map fun e => e.1) refreshElig

/-- What happens at once when a command's own effect is done: packets of straits that left the eligible set are chosen again
(R508), requests that a protected range barred are answered
(R405), exhausted uses fail (R740), instances that have nothing
left leave the table (R303), waiting collective arrivals are tried again (R273), boot straits take freed wake places
(R606, log 87), the permit needs that the command raised take the order of R600, and a change of a measured register
bumps the configuration generation (R416). `old` is the block before the command. -/
def settle (old b : Block) : Block :=
  let b := rechooseLeft 64 b
  let b := instSweep (failAllExhausted (answerRefused b))
  let b := pressUnask (if b.press.arrivals.isEmpty then b else retryArrivals b)
  let b := orderNeeds old.pwr.waiting.length (bootWakes (failAllExhausted (answerRefused (rechooseLeft 64 b))))
  countMeasured old (refreshAll b)

/-- The block as a command finds it: a new cycle, with nothing put on a port yet. -/
def State.start (s : State) : Block := newCycle { s.blk with out := [] }

/-- The state after a command whose own effect on the block is `f`. -/
def State.after (s : State) (f : Block → Block) : State := s.run fun b => settle b (f (newCycle b))

/-- A command as a whole. -/
def State.act (f : Block → Block) (s : State) : Host.Outcome State Fault Refusal := .next (s.after f)

/-- A command that may fall in the cycle of a boundary (R633; log 90). -/
def State.actInCycle (f : Block → Block) (s : State) : Host.Outcome State Fault Refusal :=
  .next (s.run fun b => settle b (f b))

/-- A START, which may fall in the cycle of a STOP (R61; log 90). -/
def State.actAfterStop (f : Block → Block) (s : State) : Host.Outcome State Fault Refusal :=
  .next (s.run fun b => { settle b (f (newBoundary b)) with stopped := none })

/-- The write is a START: bit 0 of SEQ[s].CTRL (R60). -/
def startsSeq (off : Nat) (v : Word) : Bool := decide (0x50000 ≤ off ∧ off < 0x60000 ∧ off % 0x400 = 0x10) && bitAt v 0

/-! ### Register writes that rows name -/

/-- The offset of a register of a route bank (Tables 11.13 and 18.1). -/
def bankOffset (k : BankId) : BankTarget → Nat
  | .entry node => 0x20000 + 0x10000 * k.val + 8 * node.toNat
  | .mode => 0x1220 + 0x20 * k.val
  | .dateline => 0x1228 + 0x20 * k.val
  | .torusDim => 0x1230 + 0x20 * k.val

/-- A CALIBRATE or RETRAIN written to STRAIT[n].CTRL, with ENABLE as it stands (R467, Table 18.5). -/
def straitAction (p : Path) (n bit : Nat) (force : Bool) (lees : List Host.Cell) (b : Block) : Block :=
  busWrite p (0x10010 + 0x800 * n) true
    (BitVec.ofNat 64 (bit + 8 * force.toNat + (b.strait n).enable.toNat)) lees b

/-! ### The meanings -/

/-- A LOAD written to SEQ[s].CTRL is accepted or refused, and an accepted load starts the loader reading the image. (R67) -/
def execSeqLoad (p : Path) (q : SeqId) (s : State) : Host.Outcome State Fault Refusal :=
  s.act (busWrite p (0x50010 + 0x400 * q.val) true (8) s.lees)

/-- The loader finishes the checks of Table 2.5 and leaves the sequencer LOADED, FROZEN or IDLE with its reservations taken or not. (R70) -/
def execLoadChecksEnd (q : SeqId) (s : State) : Host.Outcome State Fault Refusal :=
  s.act (coreLoadChecksEnd q)

/-- A START written to SEQ[s].CTRL runs a LOADED or HALTED sequencer from PC, or is refused. (R60) -/
def execSeqStart (p : Path) (q : SeqId) (s : State) : Host.Outcome State Fault Refusal :=
  s.actAfterStop (busWrite p (0x50010 + 0x400 * q.val) true (1) s.lees)

/-- A STOP written to SEQ[s].CTRL halts a running or waiting sequencer at its next instruction boundary. (R57) -/
def execSeqStop (p : Path) (q : SeqId) (s : State) : Host.Outcome State Fault Refusal :=
  s.act (busWrite p (0x50010 + 0x400 * q.val) true (2) s.lees)

/-- An UNLOAD written to SEQ[s].CTRL begins releasing the program, or is refused with BUSY_ACTIVE. (R58) -/
def execSeqUnload (p : Path) (q : SeqId) (s : State) : Host.Outcome State Fault Refusal :=
  s.act (busWrite p (0x50010 + 0x400 * q.val) true (4) s.lees)

/-- The last operation started by an unloading program completes, and the sequencer returns to IDLE with its reservations released. (R59) -/
def execUnloadDrainDone (q : SeqId) (s : State) : Host.Outcome State Fault Refusal :=
  s.act (coreUnloadDrainDone q)

/-- NOP advances PC by one. (R99) -/
def execNop (q : SeqId) (s : State) : Host.Outcome State Fault Refusal :=
  s.act (coreNop q)

/-- SET loads a 64-bit immediate into a G register. (R97) -/
def execSet (q : SeqId) (s : State) : Host.Outcome State Fault Refusal :=
  s.act (coreSet q)

/-- ALU computes a 64-bit result into a G register. (R117) -/
def execAlu (q : SeqId) (s : State) : Host.Outcome State Fault Refusal :=
  s.act (coreAlu q)

/-- CMP writes a predicate from a comparison. (R118) -/
def execCmp (q : SeqId) (s : State) : Host.Outcome State Fault Refusal :=
  s.act (coreCmp q)

/-- BR sets PC to its target when its predicate test holds. (R119) -/
def execBr (q : SeqId) (s : State) : Host.Outcome State Fault Refusal :=
  s.act (coreBr q)

/-- LOOP sets its loop counter to COUNT, or skips the body. (R122) -/
def execLoop (q : SeqId) (s : State) : Host.Outcome State Fault Refusal :=
  s.act (coreLoop q)

/-- MOVE queues a bulk transfer on a racking engine. (R142) -/
def execMove (q : SeqId) (s : State) : Host.Outcome State Fault Refusal :=
  s.act (coreMove q)

/-- GET reads 8N bytes through the portal into G registers. (R127) -/
def execGet (q : SeqId) (s : State) : Host.Outcome State Fault Refusal :=
  s.act (coreGet q)

/-- PUT writes 8N bytes from G registers through the portal. (R127) -/
def execPut (q : SeqId) (s : State) : Host.Outcome State Fault Refusal :=
  s.act (corePut q)

/-- ATOMIC sends an atomic operation to the home node's atomic unit. (R130) -/
def execAtomic (q : SeqId) (s : State) : Host.Outcome State Fault Refusal :=
  s.act (coreAtomic q)

/-- SIGNAL adds an amount to a local or remote tally. (R135) -/
def execSignal (q : SeqId) (s : State) : Host.Outcome State Fault Refusal :=
  s.act (coreSignal q)

/-- WAIT holds the sequencer until a tally reaches its target, then copies ERROR into a predicate. (R138) -/
def execWait (q : SeqId) (s : State) : Host.Outcome State Fault Refusal :=
  s.act (coreWait q)

/-- FENCE LOCAL, REMOTE or MOVE holds until the fenced operations have landed. (R139) -/
def execFence (q : SeqId) (s : State) : Host.Outcome State Fault Refusal :=
  s.act (coreFence q)

/-- The last operation covered by a waiting FENCE lands and the sequencer proceeds. (R139) -/
def execFenceRelease (q : SeqId) (s : State) : Host.Outcome State Fault Refusal :=
  s.act (coreFenceRelease q.val)

/-- COLL starts a collective instance on a group. (R152) -/
def execColl (q : SeqId) (s : State) : Host.Outcome State Fault Refusal :=
  s.act (coreColl q)

/-- FERRY starts a small collective on the ferry. (R155) -/
def execFerry (q : SeqId) (s : State) : Host.Outcome State Fault Refusal :=
  s.act (coreFerry q)

/-- WATCH copies a tensor to the watch buffer when the watch is armed, or takes one cycle. (R163) -/
def execWatch (q : SeqId) (s : State) : Host.Outcome State Fault Refusal :=
  s.act (coreWatch q)

/-- MARK records a trace event. (R165) -/
def execMark (q : SeqId) (s : State) : Host.Outcome State Fault Refusal :=
  s.act (coreMark q)

/-- PERMIT ACQUIRE sets the sequencer's held permit, asking for any increase. (R159) -/
def execPermitAcquire (q : SeqId) (s : State) : Host.Outcome State Fault Refusal :=
  s.act (corePermitAcquire q)

/-- PERMIT RELEASE sets the sequencer's held permit to 0. (R159) -/
def execPermitRelease (q : SeqId) (s : State) : Host.Outcome State Fault Refusal :=
  s.act (corePermitRelease q)

/-- PERMIT AWAKE_SET keeps the datapath clock running and holds the named straits awake. (R161) -/
def execAwakeSet (q : SeqId) (s : State) : Host.Outcome State Fault Refusal :=
  s.act (coreAwakeSet q)

/-- PERMIT AWAKE_CLEAR removes the sequencer's keep-awake hint. (R161) -/
def execAwakeClear (q : SeqId) (s : State) : Host.Outcome State Fault Refusal :=
  s.act (coreAwakeClear q)

/-- KEYSEL selects the key for the following MOVE, PUT or GET as one unit. (R147) -/
def execKeysel (q : SeqId) (s : State) : Host.Outcome State Fault Refusal :=
  s.act (coreKeysel q)

/-- COMPLETE writes a completion record and may halt and raise an event. (R87) -/
def execComplete (q : SeqId) (s : State) : Host.Outcome State Fault Refusal :=
  s.act (coreComplete s.lees q)

/-- A word held before issue for room, a tag, an instance or a previous record finds it and issues. (R112) -/
def execSeqHoldRelease (q : SeqId) (s : State) : Host.Outcome State Fault Refusal :=
  s.act (coreSeqHoldRelease s.lees q)

/-- A sequencer waiting after issue enters FROZEN or HALTED once its result is written. (R114) -/
def execSeqEnterFrozen (q : SeqId) (s : State) : Host.Outcome State Fault Refusal :=
  s.act (coreSeqEnterFrozen q)

/-- The tally unit applies up to four merged tally updates in a datapath cycle. (R735) -/
def execTallyUpdate (s : State) : Host.Outcome State Fault Refusal :=
  s.act coreTallyUpdate

/-- The portal accepts a tile LOAD. (R175) -/
def execTileLoad (ch : Chan) (h : TileHdr) (size : BitVec 3) (s : State) : Host.Outcome State Fault Refusal :=
  s.act (coreTile { ch, hdr := h, kind := .load size })

/-- The portal accepts a tile STORE. (R175) -/
def execTileStore (ch : Chan) (h : TileHdr) (mask : Word) (data : Granule) (t : TileTally)
    (s : State) : Host.Outcome State Fault Refusal :=
  s.act (coreTile { ch, hdr := h, kind := .store mask data t })

/-- The portal accepts a tile ATOMIC. (R175) -/
def execTileAtomic (ch : Chan) (h : TileHdr) (aop : BitVec 3) (atype : BitVec 2) (res : Bool) (operand compare : Word) (t : TileTally)
    (s : State) : Host.Outcome State Fault Refusal :=
  s.act (coreTile { ch, hdr := h, kind := .atomic aop atype res operand compare t })

/-- The portal accepts a tile SIGNAL. (R175) -/
def execTileSignal (ch : Chan) (h : TileHdr) (amount : BitVec 16) (t : TileTally)
    (s : State) : Host.Outcome State Fault Refusal :=
  s.act (coreTile { ch, hdr := h, kind := .signal amount t })

/-- The portal accepts a tile FENCE_LOCAL. (R201) -/
def execFenceLocal (ch : Chan) (h : TileHdr) (s : State) : Host.Outcome State Fault Refusal :=
  s.act (coreTile { ch, hdr := h, kind := .fenceLocal })

/-- The portal accepts a tile FENCE_REMOTE. (R200) -/
def execFenceRemote (ch : Chan) (h : TileHdr) (s : State) : Host.Outcome State Fault Refusal :=
  s.act (coreTile { ch, hdr := h, kind := .fenceRemote })

/-- A held tile fence's condition holds, it returns OK and later requests of the requester proceed. (R202) -/
def execPortalFenceComplete (tag : Fin 16384) (s : State) : Host.Outcome State Fault Refusal :=
  s.act (corePortalFenceComplete tag.val)

/-- A request held on the portal port for want of a tag is accepted when a tag is freed. (R178) -/
def execPortalHeldAccept (s : State) : Host.Outcome State Fault Refusal :=
  s.act corePortalHeldAccept

/-- A READ packet arrives and is checked and performed at its home node. (R495) -/
def execPacketRead (x : PacketNext) (s : State) : Host.Outcome State Fault Refusal :=
  s.act (corePacket (· == tyRead) x.n x.vc x.hits x.acc)

/-- A WRITE packet arrives and is checked and written at its home node. (R495) -/
def execPacketWrite (x : PacketNext) (s : State) : Host.Outcome State Fault Refusal :=
  s.act (corePacket (· == tyWrite) x.n x.vc x.hits x.acc)

/-- An ATOMIC packet arrives and is performed by the atomic unit. (R186) -/
def execPacketAtomic (x : PacketNext) (s : State) : Host.Outcome State Fault Refusal :=
  s.act (corePacket (· == tyAtomic) x.n x.vc x.hits x.acc)

/-- A SIGNAL packet arrives and its increment is applied or discarded. (R491) -/
def execPacketSignal (x : PacketNext) (s : State) : Host.Outcome State Fault Refusal :=
  s.act (corePacket (· == tySignal) x.n x.vc x.hits x.acc)

/-- A FORWARD packet arrives at a source home, which reads the chunk and sends a DATA packet. (R488) -/
def execPacketForward (x : PacketNext) (s : State) : Host.Outcome State Fault Refusal :=
  s.act (corePacket (· == tyForward) x.n x.vc x.hits x.acc)

/-- A DATA packet arrives at its destination home, which writes it and answers ACK_NODE. (R489) -/
def execPacketData (x : PacketNext) (s : State) : Host.Outcome State Fault Refusal :=
  s.act (corePacket (· == tyData) x.n x.vc x.hits x.acc)

/-- A RESP arrives and completes the request or chunk it answers. (R180) -/
def execPacketResp (x : PacketNext) (s : State) : Host.Outcome State Fault Refusal :=
  s.act (corePacket (· == tyResp) x.n x.vc x.hits x.acc)

/-- A COLL packet arrives and is accumulated, written, or taken as a credit or grant. (R273) -/
def execPacketColl (x : PacketNext) (s : State) : Host.Outcome State Fault Refusal :=
  s.act (corePacket (· == tyColl) x.n x.vc x.hits x.acc)

/-- A CONTROL packet arrives and is taken into the control queue or rejected. (R538) -/
def execPacketControl (x : PacketNext) (s : State) : Host.Outcome State Fault Refusal :=
  s.act (corePacket (· == tyControl) x.n x.vc x.hits x.acc)

/-- An UP ferry cell arrives and is added into the accumulator, possibly completing it for sending up. (R327) -/
def execFerryCellUp (x : CellNext) (s : State) : Host.Outcome State Fault Refusal :=
  s.act (coreFerryCellUp x.n x.hit x.store)

/-- A DOWN ferry cell arrives, and the node writes the result and forwards it to its children. (R328) -/
def execFerryCellDown (x : CellNext) (s : State) : Host.Outcome State Fault Refusal :=
  s.act (coreFerryCellDown x.n x.hit x.store)

/-- A running racking engine translates and issues its next chunk. (R228) -/
def execChunkIssue (e : EngId) (s : State) : Host.Outcome State Fault Refusal :=
  s.act (coreChunkIssue e.val)

/-- A chunk of a collective instance enters a free window position. (R283) -/
def execCollChunkStart (i : InstId) (s : State) : Host.Outcome State Fault Refusal :=
  s.act (coreCollChunkStart i.val)

/-- A node sends a reduce-scatter piece once it holds the counterpart's credit. (R272) -/
def execCollPieceSend (x : PieceOf) (chunk : Nat) (level : Fin 16) (member : Nat)
    (s : State) : Host.Outcome State Fault Refusal :=
  s.act (coreCollPieceSend x.group.val x.sequence.toNat chunk level.val member x.struck)

/-- A DATA response for a memory-port READ arrives with its poison state. (R687) -/
def execMemReadData (slice : Fin 32) (tag : Fin 512) (poison : Bool) (data : Granule)
    (s : State) : Host.Outcome State Fault Refusal :=
  s.act (coreMemReadData slice.val tag.val poison data)

/-- A VISIBLE response for a memory-port WRITE arrives. (R688) -/
def execMemWriteVisible (slice : Fin 32) (tag : Fin 512) (s : State) : Host.Outcome State Fault Refusal :=
  s.act (coreMemWriteVisible slice.val tag.val)

/-- A sequenced flit arrives and is accepted or discarded, its ACK freeing replay entries. (R436) -/
def execFlitReceive (n : StraitId) (rx : RxBits) (tail : FlitEnd) (s : State) : Host.Outcome State Fault Refusal :=
  s.act (coreFlitReceive n.val ⟨rx, tail.parity⟩ tail.stamp)

/-- An IDLE control flit arrives, carrying the peer's XOFF mask and ACK. (R432) -/
def execIdleFlit (n : StraitId) (rx : RxBits) (parity : BitVec 64)
    (s : State) : Host.Outcome State Fault Refusal :=
  s.act (coreIdleFlit n.val ⟨rx, parity⟩)

/-- A STATE control flit arrives with the peer's new XOFF mask. (R444) -/
def execStateFlit (n : StraitId) (rx : RxBits) (parity : BitVec 64)
    (s : State) : Host.Outcome State Fault Refusal :=
  s.act (coreStateFlit n.val ⟨rx, parity⟩)

/-- A NAK arrives and the sender replays its held flits from the named FSEQ. (R438) -/
def execNak (n : StraitId) (rx : RxBits) (parity : BitVec 64) (s : State) : Host.Outcome State Fault Refusal :=
  s.act (coreNak n.val ⟨rx, parity⟩)

/-- A QUERY arrives and is answered with STATE. (R444) -/
def execQuery (n : StraitId) (rx : RxBits) (parity : BitVec 64) (s : State) : Host.Outcome State Fault Refusal :=
  s.act (coreQuery n.val ⟨rx, parity⟩)

/-- A DOZE_REQ arrives and is answered or taken as the answer to a crossing request. (R461) -/
def execDozeReq (n : StraitId) (rx : RxBits) (parity : BitVec 64)
    (s : State) : Host.Outcome State Fault Refusal :=
  s.act (coreDozeReq n.val ⟨rx, parity⟩)

/-- A DOZE_ACK arrives and the side enters QDOZE. (R461) -/
def execDozeAck (n : StraitId) (rx : RxBits) (parity : BitVec 64)
    (s : State) : Host.Outcome State Fault Refusal :=
  s.act (coreDozeAck n.val ⟨rx, parity⟩)

/-- A CAL_REQ arrives and the peer drains its own direction. (R470) -/
def execCalReq (n : StraitId) (rx : RxBits) (parity : BitVec 64) (s : State) : Host.Outcome State Fault Refusal :=
  s.act (coreCalReq n.val ⟨rx, parity⟩)

/-- A RETRAIN_REQ arrives and counts as a link loss. (R453) -/
def execRetrainReq (n : StraitId) (rx : RxBits) (parity : BitVec 64)
    (s : State) : Host.Outcome State Fault Refusal :=
  s.act (coreRetrainReq n.val ⟨rx, parity⟩)

/-- A TIME control flit arrives carrying an IEEE 1588 message for the cellarers. (R473) -/
def execTimeFlit (n : StraitId) (rx : RxBits) (parity : BitVec 64) (stamp : Word)
    (s : State) : Host.Outcome State Fault Refusal :=
  s.act (coreTimeFlit n.val ⟨rx, parity⟩ stamp)

/-- The replay timeout passes without the expected flit and the receiver sends the NAK again. (R437) -/
def execNakTimeout (n : StraitId) (s : State) : Host.Outcome State Fault Refusal :=
  s.act (coreNakTimeout n.val)

/-- The oldest held flit goes uncovered for the replay timeout and the sender replays from it. (R439) -/
def execReplayTimeout (n : StraitId) (s : State) : Host.Outcome State Fault Refusal :=
  s.act (coreReplayTimeout n.val)

/-- A VC seen off for 1,285 flit times without a new mask makes the sender send QUERY. (R444) -/
def execXoffQueryTimeout (n : StraitId) (s : State) : Host.Outcome State Fault Refusal :=
  s.act (coreXoffQueryTimeout n.val)

/-- Signal is lost for 1 µs on an active lane, or oe_fault stays high for 1 µs. (R453) -/
def execSignalLoss (n : StraitId) (s : State) : Host.Outcome State Fault Refusal :=
  s.act (coreSignalLoss n.val)

/-- Signal is detected on at least 4 lanes and training starts. (R449) -/
def execSignalDetect (n : StraitId) (lanes : BitVec 5) (s : State) : Host.Outcome State Fault Refusal :=
  s.act (coreSignalDetect n.val lanes)

/-- A training attempt completes its steps and the strait becomes UP, FAILED or MISWIRED. (R449) -/
def execTrainingComplete (n : StraitId) (r : TrainResult) (s : State) : Host.Outcome State Fault Refusal :=
  s.act (coreTrainingComplete n.val r)

/-- A training or retraining attempt fails, leading to another attempt or FAILED. (R454) -/
def execTrainingAttemptFailed (x : Attempt) (s : State) : Host.Outcome State Fault Refusal :=
  s.act (coreTrainingAttemptFailed x.n.val x.initFailed)

/-- ENABLE written 1 takes a DISABLED strait to DETECT. (R448) -/
def execStraitEnable (p : Path) (n : StraitId) (s : State) : Host.Outcome State Fault Refusal :=
  s.act (busWrite p (0x10010 + 0x800 * n.val) true (1) s.lees)

/-- ENABLE written 0 takes a strait to DISABLED. (R448) -/
def execStraitDisable (p : Path) (n : StraitId) (s : State) : Host.Outcome State Fault Refusal :=
  s.act (busWrite p (0x10010 + 0x800 * n.val) true (0) s.lees)

/-- A CALIBRATE request on STRAIT[n].CTRL is checked and enters DRAIN or is refused. (R467) -/
def execStraitCalibrate (p : Path) (n : StraitId) (force : Bool) (s : State) : Host.Outcome State Fault Refusal :=
  s.act (straitAction p n.val 4 force s.lees)

/-- A RETRAIN request on STRAIT[n].CTRL is checked and enters DRAIN or DETECT, or is refused. (R467) -/
def execStraitRetrain (p : Path) (n : StraitId) (force : Bool) (s : State) : Host.Outcome State Fault Refusal :=
  s.act (straitAction p n.val 2 force s.lees)

/-- A strait's drain completes and it enters CALIBRATE or RETRAIN. (R468) -/
def execDrainComplete (n : StraitId) (s : State) : Host.Outcome State Fault Refusal :=
  s.act (coreDrainComplete n.val)

/-- A drain not complete within 100 µs returns the strait to UP with BUSY_ACTIVE. (R468) -/
def execDrainAbandoned (n : StraitId) (s : State) : Host.Outcome State Fault Refusal :=
  s.act (coreDrainAbandoned n.val)

/-- Calibration passes its checks and resumes UP, or fails into RETRAIN. (R469) -/
def execCalibrationEnd (n : StraitId) (good : BitVec 5) (r : TrainResult)
    (s : State) : Host.Outcome State Fault Refusal :=
  s.act (coreCalibrationEnd n.val good r)

/-- A strait idle for QUICK_IDLE offers doze with DOZE_REQ. (R460) -/
def execQuickIdleExpiry (n : StraitId) (s : State) : Host.Outcome State Fault Refusal :=
  s.act (coreQuickIdleExpiry n.val)

/-- A DOZE_REQ with no answer within the replay timeout lapses. (R461) -/
def execDozeReqLapse (n : StraitId) (s : State) : Host.Outcome State Fault Refusal :=
  s.act (coreDozeReqLapse n.val)

/-- A strait in QDOZE for DEEP_IDLE enters DDOZE. (R462) -/
def execDeepIdleExpiry (n : StraitId) (s : State) : Host.Outcome State Fault Refusal :=
  s.act (coreDeepIdleExpiry n.val)

/-- A strait in DDOZE for OFF_IDLE enters OFF. (R462) -/
def execOffIdleExpiry (n : StraitId) (s : State) : Host.Outcome State Fault Refusal :=
  s.act (coreOffIdleExpiry n.val)

/-- A wake cause or a peer's wake signal starts a dozing strait waking. (R463) -/
def execStraitWake (n : StraitId) (s : State) : Host.Outcome State Fault Refusal :=
  s.act (coreStraitWake n.val)

/-- A waking strait returns to UP and resumes its flit stream. (R463) -/
def execStraitWakeDone (n : StraitId) (s : State) : Host.Outcome State Fault Refusal :=
  s.act (coreStraitWakeDone n.val)

/-- A strait not UP within 600 ns or 20 µs of a wake counts a link loss and enters RETRAIN. (R464) -/
def execWakeTimeout (n : StraitId) (s : State) : Host.Outcome State Fault Refusal :=
  s.act (coreWakeTimeout n.val)

/-- At each second of network time a lane whose corrected symbols rose beyond LANE_ALARM raises an alarm. (R466) -/
def execLaneAlarmSecond (n : StraitId) (lane : Fin 5) (s : State) : Host.Outcome State Fault Refusal :=
  s.act (coreLaneAlarmSecond n.val lane.val)

/-- At a packet boundary the strait starts the head packet of the eligible queue with the earliest tag. (R564) -/
def execEgressPacketStart (n : StraitId) (s : State) : Host.Outcome State Fault Refusal :=
  s.act (coreEgressPacketStart n.val)

/-- A packet waiting without a route is chosen again when a strait becomes eligible or a FLIP occurs. (R509) -/
def execNoRouteRechoose (s : State) : Host.Outcome State Fault Refusal :=
  s.act (fun b => retryCells (coreNoRouteRechoose b))

/-- SEAL takes an OPEN bank to READY. (R517) -/
def execRouteSeal (p : Path) (b : BankId) (s : State) : Host.Outcome State Fault Refusal :=
  s.act (busWrite p (0x1208) true (BitVec.ofNat 64 (0x100 + b.val)) s.lees)

/-- FLIP makes a READY bank CURRENT and the other bank OLD. (R518) -/
def execRouteFlip (p : Path) (b : BankId) (s : State) : Host.Outcome State Fault Refusal :=
  s.act (busWrite p (0x1208) true (BitVec.ofNat 64 (0x200 + b.val)) s.lees)

/-- A write to a bank's entries, MODE, DATELINE or TORUS_DIM is applied or refused by bank state. (R516) -/
def execBankEntryWrite (p : Path) (b : BankId) (t : BankTarget) (v : Word)
    (s : State) : Host.Outcome State Fault Refusal :=
  s.act (busWrite p (bankOffset b t) true (v) s.lees)

/-- An invalidation start of kind RANGE bumps the generation and drops covered TLB entries. (R362) -/
def execInvalidateRange (p : Path) (a : Agent) (ctx : Ctx) (seq : BitVec 32)
    (s : State) : Host.Outcome State Fault Refusal :=
  s.act (busWrite p (0x70418 + 0x40 * a.val) true (word [(32, seq.toNat), (8, 0), (0, ctx.val)]) s.lees)

/-- An invalidation start of kind CONTEXT covers every page of one context. (R362) -/
def execInvalidateContext (p : Path) (a : Agent) (ctx : Ctx) (seq : BitVec 32)
    (s : State) : Host.Outcome State Fault Refusal :=
  s.act (busWrite p (0x70418 + 0x40 * a.val) true (word [(32, seq.toNat), (8, 1), (0, ctx.val)]) s.lees)

/-- An invalidation start of kind ALL covers every page of every context. (R362) -/
def execInvalidateAll (p : Path) (a : Agent) (ctx : Ctx) (seq : BitVec 32)
    (s : State) : Host.Outcome State Fault Refusal :=
  s.act (busWrite p (0x70418 + 0x40 * a.val) true (word [(32, seq.toNat), (8, 2), (0, ctx.val)]) s.lees)

/-- The last old-generation use ends and the acknowledgement word is written. (R368) -/
def execInvalidationComplete (a : Agent) (s : State) : Host.Outcome State Fault Refusal :=
  s.act (coreInvalidationComplete a.val)

/-- Ten microseconds after a start with old uses remaining, their contexts are frozen and BUSY_DRAINING is acknowledged. (R369) -/
def execInvalidationBound (a : Agent) (s : State) : Host.Outcome State Fault Refusal :=
  s.act (coreInvalidationBound a.val)

/-- A write of CTX[c].BIND.VALID binds or unbinds a context. (R382) -/
def execCtxBindWrite (p : Path) (c : Ctx) (valid : Bool) (part : Part)
    (s : State) : Host.Outcome State Fault Refusal :=
  s.act (busWrite p (0x40000 + 0x1000 * c.val) true (word [(5, valid.toNat), (0, part.val)]) s.lees)

/-- A FREEZE written to CTX[c].CTRL freezes a RUNNING context with cause 9. (R386) -/
def execCtxFreeze (p : Path) (c : Ctx) (s : State) : Host.Outcome State Fault Refusal :=
  s.act (busWrite p (0x40028 + 0x1000 * c.val) true (1) s.lees)

/-- A RESET written to CTX[c].CTRL of a FROZEN context dumps it and starts the reset. (R387) -/
def execCtxReset (p : Path) (c : Ctx) (s : State) : Host.Outcome State Fault Refusal :=
  s.act (busWrite p (0x40028 + 0x1000 * c.val) true (2) s.lees)

/-- A context reset ends with the results of Table 9.3. (R388) -/
def execContextResetDone (c : Ctx) (s : State) : Host.Outcome State Fault Refusal :=
  s.act (coreContextResetDone c.val)

/-- The RoT command INSTALL stages a new vintage in an EMPTY slot. (R398) -/
def execInstall (s : State) : Host.Outcome State Fault Refusal :=
  s.act (busWrite .rot (0xC0000) true (1) s.lees)

/-- The RoT command ACTIVATE makes a STAGED vintage CURRENT. (R398) -/
def execActivate (s : State) : Host.Outcome State Fault Refusal :=
  s.act (busWrite .rot (0xC0000) true (2) s.lees)

/-- The RoT command RETIRE empties a PREVIOUS, STAGED or weight slot when it has no references. (R398) -/
def execRetire (s : State) : Host.Outcome State Fault Refusal :=
  s.act (busWrite .rot (0xC0000) true (3) s.lees)

/-- The RoT command RETIRE_FORCE empties a slot at once and fails its uses. (R401) -/
def execRetireForce (s : State) : Host.Outcome State Fault Refusal :=
  s.act (busWrite .rot (0xC0000) true (4) s.lees)

/-- The RoT command WEIGHT_INSTALL installs a weight key for a device set. (R398) -/
def execWeightInstall (s : State) : Host.Outcome State Fault Refusal :=
  s.act (busWrite .rot (0xC0000) true (5) s.lees)

/-- The RoT command WEIGHT_GRANT sets a weight slot's grant mask. (R398) -/
def execWeightGrant (s : State) : Host.Outcome State Fault Refusal :=
  s.act (busWrite .rot (0xC0000) true (6) s.lees)

/-- The RoT command RANGE_SET sets or clears a protected range. (R404) -/
def execRangeSet (s : State) : Host.Outcome State Fault Refusal :=
  s.act (busWrite .rot (0xC0000) true (7) s.lees)

/-- The RoT command SNAPSHOT copies the measured values into SEC.ATT in one cycle. (R413) -/
def execSnapshot (s : State) : Host.Outcome State Fault Refusal :=
  s.act (busWrite .rot (0xC0000) true (8) s.lees)

/-- An unlisted opcode written to SEC.CMD ends at once with ACCESS. (R398) -/
def execSecCmdUndefined (opcode : Byte) (s : State) : Host.Outcome State Fault Refusal :=
  s.act (busWrite .rot (0xC0000) true (opcode.setWidth 64) s.lees)

/-- A grant from the die power manager arrives for an outstanding request. (R705) -/
def execPmGrant (id : Fin 8) (s : State) : Host.Outcome State Fault Refusal :=
  s.act (corePmGrant id.val)

/-- A waiting permit need takes a free request slot and is presented to the power manager. (R600) -/
def execPmRequestPresent (s : State) : Host.Outcome State Fault Refusal :=
  s.act corePmRequestPresent

/-- The stop conditions have held for PWR.DP_IDLE and the datapath clock stops. (R591) A start cause in the cycle at hand
keeps it running (R592; log 90). -/
def execDpClockStop (s : State) : Host.Outcome State Fault Refusal :=
  s.act (if s.blk.kicked then id else coreDpClockStop)

/-- The 120 ns start ends and the datapath clock runs, completing held register writes. (R590) -/
def execDpClockRunning (s : State) : Host.Outcome State Fault Refusal :=
  s.act (coreDpClockRunning s.lees)

/-- A write to PWR.HOST_AWAKE sets the host hint, which may wake straits. (R595) -/
def execHostAwakeWrite (p : Path) (v : Word) (s : State) : Host.Outcome State Fault Refusal :=
  s.act (busWrite p (0xA0010) true (v) s.lees)

/-- A held packet at the head of a meter's hold line is metered again and released. (R576) -/
def execMeterHoldRelease (m : MeterId) (s : State) : Host.Outcome State Fault Refusal :=
  s.act (coreMeterHoldRelease m.val)

/-- A write to METER[m].RATE or SIZE fills every bucket of the meter. (R577) -/
def execMeterSettingWrite (p : Path) (m : MeterId) (size : Bool) (v : Word)
    (s : State) : Host.Outcome State Fault Refusal :=
  s.act (busWrite p ((if size then 0x81010 else 0x81008) + 0x40 * m.val) true (v) s.lees)

/-- A write to METER[m].CTRL takes effect and may release the hold line. (R577) -/
def execMeterCtrlWrite (p : Path) (m : MeterId) (v : Word) (s : State) : Host.Outcome State Fault Refusal :=
  s.act (busWrite p (0x81000 + 0x40 * m.val) true (v) s.lees)

/-- A write to TIDE[n].CHANGE validates the admin list and sets PENDING. (R586) -/
def execTideChange (p : Path) (n : StraitId) (time : Word) (s : State) : Host.Outcome State Fault Refusal :=
  s.act (busWrite p (0x82078 + 0x100 * n.val) true (time) s.lees)

/-- At the switch instant the admin list becomes the operating list. (R586) -/
def execTideListSwitch (n : StraitId) (s : State) : Host.Outcome State Fault Refusal :=
  s.act (coreTideListSwitch n.val)

/-- An operating tide entry begins, changing gates and acting on WAKE. (R579) -/
def execTideEntryStart (n : StraitId) (s : State) : Host.Outcome State Fault Refusal :=
  s.act (coreTideEntryStart n.val)

/-- A step of the network time counter moves tide lists and sample instants. (R583) -/
def execTimeStep (time : Word) (s : State) : Host.Outcome State Fault Refusal :=
  s.act (coreTimeStep time)

/-- At each SAMPLE_PERIOD the queue depths and delays are written and SAMPLE_SEQ advances. (R588) -/
def execSchedQueueSample (s : State) : Host.Outcome State Fault Refusal :=
  s.act coreSchedQueueSample

/-- At each SAMPLE_PERIOD the thief captures the sample list into a SAMPLE record. (R619) -/
def execSampleCapture (s : State) : Host.Outcome State Fault Refusal :=
  s.actInCycle (coreSampleCapture s.lees)

/-- At each PC_PERIOD the thief captures the state of the masked sequencers. (R623) -/
def execPcSample (s : State) : Host.Outcome State Fault Refusal :=
  s.act corePcSample

/-- The thief writes a staged record into the ring in a free memory-port cycle. (R612) -/
def execThiefRecordWrite (s : State) : Host.Outcome State Fault Refusal :=
  s.act coreThiefRecordWrite

/-- Setting THIEF.CTRL.ENABLE sets RING_HEAD to RING_TAIL and starts record generation. (R611) -/
def execThiefEnable (p : Path) (v : Word) (s : State) : Host.Outcome State Fault Refusal :=
  s.act (busWrite p (0x90000) true (v ||| 1) s.lees)

/-- Clearing THIEF.CTRL.ENABLE stops record generation from the next cycle. (R617) -/
def execThiefDisable (p : Path) (v : Word) (s : State) : Host.Outcome State Fault Refusal :=
  s.act (busWrite p (0x90000) true (v &&& ~~~1) s.lees)

/-- A write to THIEF.COMPAT[k].BIND sets every BASE of the set. (R630) -/
def execCompatBindWrite (p : Path) (k : Fin 8) (v : Word) (s : State) : Host.Outcome State Fault Refusal :=
  s.act (busWrite p (0x90800 + 0x100 * k.val) true (v) s.lees)

/-- A LATCH copies a compatibility set's values into SNAP with time and boundary flag. (R632) -/
def execCompatLatch (p : Path) (k : Fin 8) (s : State) : Host.Outcome State Fault Refusal :=
  s.actInCycle (busWrite p (0x90808 + 0x100 * k.val) true (1) s.lees)

/-- After EVT.MODERATION ns with a further entry written, the vector's message is sent again. (R711) -/
def execMsixModerationExpiry (v : Fin 16) (s : State) : Host.Outcome State Fault Refusal :=
  s.act (coreMsixExpiry v.val)

/-- Setting EVT.CTRL.ENABLE sets HEAD to TAIL and puts the ring in use. (R712) -/
def execEvtRingEnable (p : Path) (v : Word) (s : State) : Host.Outcome State Fault Refusal :=
  s.act (busWrite p (0x1020) true (v ||| 1) s.lees)

/-- At each millisecond a stranger event is raised when a stranger counter advanced. (R412) -/
def execStrangerEventWindow (s : State) : Host.Outcome State Fault Refusal :=
  s.act coreStrangerWindow

/-- At each millisecond a STALE_EPOCH event is raised when the counter advanced. (R520) -/
def execStaleEpochWindow (s : State) : Host.Outcome State Fault Refusal :=
  s.act coreStaleWindow

/-- A WRITE control message applies its items in order and is answered. (R543) -/
def execFmWrite (s : State) : Host.Outcome State Fault Refusal :=
  s.act (coreFmWrite s.lees)

/-- A WRITE_BLOCK control message writes consecutive values and is answered. (R543) -/
def execWriteBlock (s : State) : Host.Outcome State Fault Refusal :=
  s.act (coreWriteBlock s.lees)

/-- A READ_BLOCK control message is answered with the values read. (R542) -/
def execReadBlock (s : State) : Host.Outcome State Fault Refusal :=
  s.act (coreReadBlock s.lees)

/-- A DIVERGED notice ends a group's unfinished instances and blocks the group. (R312) -/
def execNoticeDiverged (s : State) : Host.Outcome State Fault Refusal :=
  s.act coreNoticeDiverged

/-- A PEER_FAULT notice raises a peer-fault event to the driver. (R553) -/
def execNoticePeerFault (s : State) : Host.Outcome State Fault Refusal :=
  s.act coreNoticePeerFault

/-- A NOTICE with an undefined CODE is answered with ACCESS. (R553) -/
def execNoticeUndefined (s : State) : Host.Outcome State Fault Refusal :=
  s.act coreNoticeUndefined

/-- A REPORT_ACK stops the resending of the acknowledged report. (R552) -/
def execReportAck (s : State) : Host.Outcome State Fault Refusal :=
  s.act coreReportAck

/-- Every 100 µs an unacknowledged report is sent again. (R552) -/
def execReportResend (s : State) : Host.Outcome State Fault Refusal :=
  s.act coreReportResend

/-- RST.ENGINE with UNIT PRESS ends unfinished instances as DIVERGED and clears the press. (R648) -/
def execEngineResetPress (p : Path) (s : State) : Host.Outcome State Fault Refusal :=
  s.act (busWrite p (0xB0000) true (1) s.lees)

/-- RST.ENGINE with UNIT FERRY ends ferry instances and clears the ferry store. (R648) -/
def execEngineResetFerry (p : Path) (s : State) : Host.Outcome State Fault Refusal :=
  s.act (busWrite p (0xB0000) true (2) s.lees)

/-- RST.ENGINE with UNIT XLAT drops all TLB entries and waits for uses as an ALL invalidation. (R648) -/
def execEngineResetXlat (p : Path) (s : State) : Host.Outcome State Fault Refusal :=
  s.act (busWrite p (0xB0000) true (3) s.lees)

/-- An engine reset ends and raises RESET_DONE. (R652) -/
def execEngineResetDone (u : EngUnit) (s : State) : Host.Outcome State Fault Refusal :=
  s.act (coreEngineResetDone u)

/-- RST.PARTITION GO freezes, dumps and resets the partition's contexts and keys. (R649) -/
def execPartitionReset (p : Path) (part : Part) (s : State) : Host.Outcome State Fault Refusal :=
  s.act (busWrite p (0xB0008) true (BitVec.ofNat 64 (4 + part.val)) s.lees)

/-- No packet naming the partition remains and the partition reset ends. (R649) -/
def execPartitionResetDone (part : Part) (s : State) : Host.Outcome State Fault Refusal :=
  s.act (corePartitionResetDone part.val)

/-- RST.BLOCK with CONFIRM 0xD1B3 starts a block reset. (R650) -/
def execBlockReset (p : Path) (confirm : BitVec 16) (s : State) : Host.Outcome State Fault Refusal :=
  s.act (busWrite p (0xB0010) true (word [(48, confirm.toNat), (0, 1)]) s.lees)

/-- A pulse on blk_rst_req requests a block reset when TRAY_RESET_EN is 1. (R680) -/
def execBlkRstReq (s : State) : Host.Outcome State Fault Refusal :=
  s.act coreBlkRstReq

/-- The last step of Table 16.7 is done and the block reset ends. (R650) -/
def execBlockResetDone (s : State) : Host.Outcome State Fault Refusal :=
  s.act coreBlockResetDone

/-- Release of por_n samples the straps and starts power-on. (R679) -/
def execPorRelease (straps : Word) (s : State) : Host.Outcome State Fault Refusal :=
  s.act (corePorRelease straps)

/-- At t_p + 400 µs the lees is cleared and the control, RoT and service ports become ready. (R679) -/
def execPowerOnReady (s : State) : Host.Outcome State Fault Refusal :=
  s.act corePowerOnReady

/-- A DUMP naming a FROZEN context copies its state into a dump slot. (R639) -/
def execLeesDump (p : Path) (c : Ctx) (s : State) : Host.Outcome State Fault Refusal :=
  s.act (busWrite p (0xB0310) true (BitVec.ofNat 64 (16 + c.val)) s.lees)

/-- Writing 1 to bits of LEES.SLOTS frees dump slots. (R644) -/
def execLeesSlotsClear (p : Path) (mask : BitVec 11) (s : State) : Host.Outcome State Fault Refusal :=
  s.act (busWrite p (0xB0308) true (mask.setWidth 64) s.lees)

/-- An acquire written to MAINT.REQUEST takes a maintenance token or is refused. (R657) -/
def execMaintAcquire (p : Path) (res : Byte) (s : State) : Host.Outcome State Fault Refusal :=
  s.act (busWrite p (0xB0100) true (res.setWidth 64) s.lees)

/-- A release written to MAINT.REQUEST releases a held token or is refused. (R657) -/
def execMaintRelease (p : Path) (res : Byte) (s : State) : Host.Outcome State Fault Refusal :=
  s.act (busWrite p (0xB0100) true (BitVec.ofNat 64 (0x100 + res.toNat)) s.lees)

/-- MAINT.BIST START takes the CELLAR token and starts the cellar BIST, or is refused. (R660) -/
def execBistStart (p : Path) (s : State) : Host.Outcome State Fault Refusal :=
  s.act (busWrite p (0xB0180) true (1) s.lees)

/-- The cellar BIST ends and raises BIST_DONE. (R660) -/
def execBistDone (errors firstFail : BitVec 24) (s : State) : Host.Outcome State Fault Refusal :=
  s.act (coreBistDone errors firstFail)

/-- A write to QUAR.LIFT removes a quarantine entry or is refused. (R661) -/
def execQuarLift (p : Path) (k : Fin 32) (s : State) : Host.Outcome State Fault Refusal :=
  s.act (busWrite p (0xB0500) true (BitVec.ofNat 64 (0x20 + k.val)) s.lees)

/-- ACTIVATE in FW.CTRL boots the staged image on the standby, or is refused. (R670) -/
def execFwActivate (p : Path) (s : State) : Host.Outcome State Fault Refusal :=
  s.act (busWrite p (0xB0200) true (1) s.lees)

/-- The staged image passes or fails verification and self-test and the activation ends. (R670) -/
def execFwActivateDone (selfTestOk : Bool) (s : State) : Host.Outcome State Fault Refusal :=
  s.act (coreFwActivateDone selfTestOk)

/-- A standby self-test pass ends and SELFTESTS advances. (R663) -/
def execStandbySelftestPass (k : Fin 2) (s : State) : Host.Outcome State Fault Refusal :=
  s.act (coreSelftestPass k.val)

/-- The active cellarer misses its heartbeat for 100 µs or fails its self-check and gives up control. (R664) -/
def execCellarerHeartbeatMiss (faultCode : Byte) (s : State) : Host.Outcome State Fault Refusal :=
  s.act (coreHeartbeatMiss faultCode)

/-- The service command READ_STATUS outputs the status word. (R703) -/
def execReadStatus (s : State) : Host.Outcome State Fault Refusal :=
  s.act coreReadStatus

/-- The service command READ outputs lees bytes. (R703) -/
def execSvcRead (addr : BitVec 32) (len : Nat) (s : State) : Host.Outcome State Fault Refusal :=
  s.act (coreSvcRead s.lees addr.toNat len)

/-- The service command STAGE_BEGIN takes FWSLOT and starts staging. (R703) -/
def execStageBegin (s : State) : Host.Outcome State Fault Refusal :=
  s.act coreStageBegin

/-- The service command WRITE writes one page into the B slot. (R703) -/
def execSvcWrite (addr : BitVec 32) (data : List Byte) (s : State) : Host.Outcome State Fault Refusal :=
  s.act (coreSvcWrite addr.toNat data)

/-- The service command STAGE_END stages the image or marks it BAD. (R704) -/
def execStageEnd (len : BitVec 32) (s : State) : Host.Outcome State Fault Refusal :=
  s.act (coreStageEnd len.toNat)

/-- The service command STAGE_ABORT empties the B slot and releases FWSLOT. (R703) -/
def execStageAbort (s : State) : Host.Outcome State Fault Refusal :=
  s.act coreStageAbort

/-- The RoT replies to SETTINGS_READ with a stored-settings record. (R700) -/
def execSettingsRecord (words : List Word) (s : State) : Host.Outcome State Fault Refusal :=
  s.act (coreSettingsRecord words)

/-- The RoT replies to SETTINGS_READ that no record exists. (R700) -/
def execSettingsNone (s : State) : Host.Outcome State Fault Refusal :=
  s.act coreSettingsNone

/-- The RoT acknowledges a SETTINGS_WRITE and the migrated record comes into use. (R673) -/
def execSettingsAck (s : State) : Host.Outcome State Fault Refusal :=
  s.act coreSettingsAck

/-- The RoT replies to VERIFY with pass or fail. (R700) -/
def execVerifyResult (pass : Bool) (s : State) : Host.Outcome State Fault Refusal :=
  s.act (coreVerifyResult pass)

/-- The LATCH of a compatibility set. -/
def inLatch (off : Nat) : Bool :=
  match Reg.ofOffset off with
  | .compat _ o => o == 8
  | _ => false

/-- A write to a register with no row of its own sets its RW fields or is ignored. (R719) -/
def execRegisterWrite (p : Path) (off : BitVec 24) (size8 : Bool) (v : Word)
    (s : State) : Host.Outcome State Fault Refusal :=
  if inLatch off.toNat then s.actInCycle (busWrite p off.toNat size8 v s.lees)
  else if startsSeq off.toNat v then s.actAfterStop (busWrite p off.toNat size8 v s.lees)
  else s.act (busWrite p off.toNat size8 v s.lees)

/-- At each flit boundary on a strait's egress the next flit is chosen and sent: a control flit, a ready VC0 flit, a replayed flit, or the next flit of the packet in progress. (R336) -/
def execFlitBoundary (x : Boundary) (s : State) : Host.Outcome State Fault Refusal :=
  s.act (coreFlitBoundary x.n.val x.hit x.stamp)

/-- A compute tile takes a portal response on the prt_rsp handshake, and the request's tag is freed. (R694) -/
def execPortalResponseTaken (ch : Chan) (txn : BitVec 16) (s : State) : Host.Outcome State Fault Refusal :=
  s.act (corePortalResponseTaken ch txn)

/-- oe_ready[n] rises on a class O strait held in DETECT, letting detection and training proceed. (R698) -/
def execOeReadyRise (n : StraitId) (s : State) : Host.Outcome State Fault Refusal :=
  s.act (coreOeReadyRise n.val)

/-- A page written over the service port is held in the B slot, and the service status BUSY falls to 0. (R703) -/
def execPageHeld (s : State) : Host.Outcome State Fault Refusal :=
  s.act corePageHeld

/-- A control flit with an undefined TYPE arrives, and only its XOFF mask and trailer ACK are used. (R433) -/
def execUndefinedControlFlit (n : StraitId) (rx : RxBits) (parity : BitVec 64)
    (s : State) : Host.Outcome State Fault Refusal :=
  s.act (coreUndefinedControlFlit n.val ⟨rx, parity⟩)

/-- A packet whose TYPE is absent from Table 11.2 arrives, and it is discarded and counted in ROUTE.MALFORMED. (R480) -/
def execMalformedPacket (x : PacketNext) (s : State) : Host.Outcome State Fault Refusal :=
  s.act (coreMalformedPacket x.n x.vc x.hits x.acc)

end Sys2Proof.Machine
end

