-- ==== Sys2Proof/Machine/Dispatch.lean ====
section
/-!
DEFINITION. The meaning of each command: one arm per constructor of Instr, each a direct call.
-/

namespace Sys2Proof.Machine

def exec (i : Instr) (s : State) : Host.Outcome State Fault Refusal :=
  match i with
  | .seqLoad p q => Sys2Proof.Machine.execSeqLoad p q s
  | .loadChecksEnd q => Sys2Proof.Machine.execLoadChecksEnd q s
  | .seqStart p q => Sys2Proof.Machine.execSeqStart p q s
  | .seqStop p q => Sys2Proof.Machine.execSeqStop p q s
  | .seqUnload p q => Sys2Proof.Machine.execSeqUnload p q s
  | .unloadDrainDone q => Sys2Proof.Machine.execUnloadDrainDone q s
  | .nop q => Sys2Proof.Machine.execNop q s
  | .set q => Sys2Proof.Machine.execSet q s
  | .alu q => Sys2Proof.Machine.execAlu q s
  | .cmp q => Sys2Proof.Machine.execCmp q s
  | .br q => Sys2Proof.Machine.execBr q s
  | .loop q => Sys2Proof.Machine.execLoop q s
  | .move q => Sys2Proof.Machine.execMove q s
  | .get q => Sys2Proof.Machine.execGet q s
  | .put q => Sys2Proof.Machine.execPut q s
  | .atomic q => Sys2Proof.Machine.execAtomic q s
  | .signal q => Sys2Proof.Machine.execSignal q s
  | .wait q => Sys2Proof.Machine.execWait q s
  | .fence q => Sys2Proof.Machine.execFence q s
  | .fenceRelease q => Sys2Proof.Machine.execFenceRelease q s
  | .coll q => Sys2Proof.Machine.execColl q s
  | .ferry q => Sys2Proof.Machine.execFerry q s
  | .watch q => Sys2Proof.Machine.execWatch q s
  | .mark q => Sys2Proof.Machine.execMark q s
  | .permitAcquire q => Sys2Proof.Machine.execPermitAcquire q s
  | .permitRelease q => Sys2Proof.Machine.execPermitRelease q s
  | .awakeSet q => Sys2Proof.Machine.execAwakeSet q s
  | .awakeClear q => Sys2Proof.Machine.execAwakeClear q s
  | .keysel q => Sys2Proof.Machine.execKeysel q s
  | .complete q => Sys2Proof.Machine.execComplete q s
  | .seqHoldRelease q => Sys2Proof.Machine.execSeqHoldRelease q s
  | .seqEnterFrozen q => Sys2Proof.Machine.execSeqEnterFrozen q s
  | .tallyUpdate => Sys2Proof.Machine.execTallyUpdate s
  | .tileLoad ch h size => Sys2Proof.Machine.execTileLoad ch h size s
  | .tileStore ch h mask data t => Sys2Proof.Machine.execTileStore ch h mask data t s
  | .tileAtomic ch h aop atype res operand compare t => Sys2Proof.Machine.execTileAtomic ch h aop atype res operand compare t s
  | .tileSignal ch h amount t => Sys2Proof.Machine.execTileSignal ch h amount t s
  | .fenceLocal ch h => Sys2Proof.Machine.execFenceLocal ch h s
  | .fenceRemote ch h => Sys2Proof.Machine.execFenceRemote ch h s
  | .portalFenceComplete tag => Sys2Proof.Machine.execPortalFenceComplete tag s
  | .portalHeldAccept => Sys2Proof.Machine.execPortalHeldAccept s
  | .packetRead x => Sys2Proof.Machine.execPacketRead x s
  | .packetWrite x => Sys2Proof.Machine.execPacketWrite x s
  | .packetAtomic x => Sys2Proof.Machine.execPacketAtomic x s
  | .packetSignal x => Sys2Proof.Machine.execPacketSignal x s
  | .packetForward x => Sys2Proof.Machine.execPacketForward x s
  | .packetData x => Sys2Proof.Machine.execPacketData x s
  | .packetResp x => Sys2Proof.Machine.execPacketResp x s
  | .packetColl x => Sys2Proof.Machine.execPacketColl x s
  | .packetControl x => Sys2Proof.Machine.execPacketControl x s
  | .ferryCellUp x => Sys2Proof.Machine.execFerryCellUp x s
  | .ferryCellDown x => Sys2Proof.Machine.execFerryCellDown x s
  | .chunkIssue e => Sys2Proof.Machine.execChunkIssue e s
  | .collChunkStart inst => Sys2Proof.Machine.execCollChunkStart inst s
  | .collPieceSend x chunk level member => Sys2Proof.Machine.execCollPieceSend x chunk level member s
  | .memReadData slice tag poison data => Sys2Proof.Machine.execMemReadData slice tag poison data s
  | .memWriteVisible slice tag => Sys2Proof.Machine.execMemWriteVisible slice tag s
  | .flitReceive n rx tail => Sys2Proof.Machine.execFlitReceive n rx tail s
  | .idleFlit n rx parity => Sys2Proof.Machine.execIdleFlit n rx parity s
  | .stateFlit n rx parity => Sys2Proof.Machine.execStateFlit n rx parity s
  | .nak n rx parity => Sys2Proof.Machine.execNak n rx parity s
  | .query n rx parity => Sys2Proof.Machine.execQuery n rx parity s
  | .dozeReq n rx parity => Sys2Proof.Machine.execDozeReq n rx parity s
  | .dozeAck n rx parity => Sys2Proof.Machine.execDozeAck n rx parity s
  | .calReq n rx parity => Sys2Proof.Machine.execCalReq n rx parity s
  | .retrainReq n rx parity => Sys2Proof.Machine.execRetrainReq n rx parity s
  | .timeFlit n rx parity stamp => Sys2Proof.Machine.execTimeFlit n rx parity stamp s
  | .nakTimeout n => Sys2Proof.Machine.execNakTimeout n s
  | .replayTimeout n => Sys2Proof.Machine.execReplayTimeout n s
  | .xoffQueryTimeout n => Sys2Proof.Machine.execXoffQueryTimeout n s
  | .signalLoss n => Sys2Proof.Machine.execSignalLoss n s
  | .signalDetect n lanes => Sys2Proof.Machine.execSignalDetect n lanes s
  | .trainingComplete n r => Sys2Proof.Machine.execTrainingComplete n r s
  | .trainingAttemptFailed x => Sys2Proof.Machine.execTrainingAttemptFailed x s
  | .straitEnable p n => Sys2Proof.Machine.execStraitEnable p n s
  | .straitDisable p n => Sys2Proof.Machine.execStraitDisable p n s
  | .straitCalibrate p n force => Sys2Proof.Machine.execStraitCalibrate p n force s
  | .straitRetrain p n force => Sys2Proof.Machine.execStraitRetrain p n force s
  | .drainComplete n => Sys2Proof.Machine.execDrainComplete n s
  | .drainAbandoned n => Sys2Proof.Machine.execDrainAbandoned n s
  | .calibrationEnd n good r => Sys2Proof.Machine.execCalibrationEnd n good r s
  | .quickIdleExpiry n => Sys2Proof.Machine.execQuickIdleExpiry n s
  | .dozeReqLapse n => Sys2Proof.Machine.execDozeReqLapse n s
  | .deepIdleExpiry n => Sys2Proof.Machine.execDeepIdleExpiry n s
  | .offIdleExpiry n => Sys2Proof.Machine.execOffIdleExpiry n s
  | .straitWake n => Sys2Proof.Machine.execStraitWake n s
  | .straitWakeDone n => Sys2Proof.Machine.execStraitWakeDone n s
  | .wakeTimeout n => Sys2Proof.Machine.execWakeTimeout n s
  | .laneAlarmSecond n lane => Sys2Proof.Machine.execLaneAlarmSecond n lane s
  | .egressPacketStart n => Sys2Proof.Machine.execEgressPacketStart n s
  | .noRouteRechoose => Sys2Proof.Machine.execNoRouteRechoose s
  | .routeSeal p b => Sys2Proof.Machine.execRouteSeal p b s
  | .routeFlip p b => Sys2Proof.Machine.execRouteFlip p b s
  | .bankEntryWrite p b t v => Sys2Proof.Machine.execBankEntryWrite p b t v s
  | .invalidateRange p a ctx seq => Sys2Proof.Machine.execInvalidateRange p a ctx seq s
  | .invalidateContext p a ctx seq => Sys2Proof.Machine.execInvalidateContext p a ctx seq s
  | .invalidateAll p a ctx seq => Sys2Proof.Machine.execInvalidateAll p a ctx seq s
  | .invalidationComplete a => Sys2Proof.Machine.execInvalidationComplete a s
  | .invalidationBound a => Sys2Proof.Machine.execInvalidationBound a s
  | .ctxBindWrite p c valid part => Sys2Proof.Machine.execCtxBindWrite p c valid part s
  | .ctxFreeze p c => Sys2Proof.Machine.execCtxFreeze p c s
  | .ctxReset p c => Sys2Proof.Machine.execCtxReset p c s
  | .contextResetDone c => Sys2Proof.Machine.execContextResetDone c s
  | .install => Sys2Proof.Machine.execInstall s
  | .activate => Sys2Proof.Machine.execActivate s
  | .retire => Sys2Proof.Machine.execRetire s
  | .retireForce => Sys2Proof.Machine.execRetireForce s
  | .weightInstall => Sys2Proof.Machine.execWeightInstall s
  | .weightGrant => Sys2Proof.Machine.execWeightGrant s
  | .rangeSet => Sys2Proof.Machine.execRangeSet s
  | .snapshot => Sys2Proof.Machine.execSnapshot s
  | .secCmdUndefined opcode => Sys2Proof.Machine.execSecCmdUndefined opcode s
  | .pmGrant id => Sys2Proof.Machine.execPmGrant id s
  | .pmRequestPresent => Sys2Proof.Machine.execPmRequestPresent s
  | .dpClockStop => Sys2Proof.Machine.execDpClockStop s
  | .dpClockRunning => Sys2Proof.Machine.execDpClockRunning s
  | .hostAwakeWrite p v => Sys2Proof.Machine.execHostAwakeWrite p v s
  | .meterHoldRelease m => Sys2Proof.Machine.execMeterHoldRelease m s
  | .meterSettingWrite p m size v => Sys2Proof.Machine.execMeterSettingWrite p m size v s
  | .meterCtrlWrite p m v => Sys2Proof.Machine.execMeterCtrlWrite p m v s
  | .tideChange p n time => Sys2Proof.Machine.execTideChange p n time s
  | .tideListSwitch n => Sys2Proof.Machine.execTideListSwitch n s
  | .tideEntryStart n => Sys2Proof.Machine.execTideEntryStart n s
  | .timeStep time => Sys2Proof.Machine.execTimeStep time s
  | .schedQueueSample => Sys2Proof.Machine.execSchedQueueSample s
  | .sampleCapture => Sys2Proof.Machine.execSampleCapture s
  | .pcSample => Sys2Proof.Machine.execPcSample s
  | .thiefRecordWrite => Sys2Proof.Machine.execThiefRecordWrite s
  | .thiefEnable p v => Sys2Proof.Machine.execThiefEnable p v s
  | .thiefDisable p v => Sys2Proof.Machine.execThiefDisable p v s
  | .compatBindWrite p k v => Sys2Proof.Machine.execCompatBindWrite p k v s
  | .compatLatch p k => Sys2Proof.Machine.execCompatLatch p k s
  | .msixModerationExpiry v => Sys2Proof.Machine.execMsixModerationExpiry v s
  | .evtRingEnable p v => Sys2Proof.Machine.execEvtRingEnable p v s
  | .strangerEventWindow => Sys2Proof.Machine.execStrangerEventWindow s
  | .staleEpochWindow => Sys2Proof.Machine.execStaleEpochWindow s
  | .fmWrite => Sys2Proof.Machine.execFmWrite s
  | .writeBlock => Sys2Proof.Machine.execWriteBlock s
  | .readBlock => Sys2Proof.Machine.execReadBlock s
  | .noticeDiverged => Sys2Proof.Machine.execNoticeDiverged s
  | .noticePeerFault => Sys2Proof.Machine.execNoticePeerFault s
  | .noticeUndefined => Sys2Proof.Machine.execNoticeUndefined s
  | .reportAck => Sys2Proof.Machine.execReportAck s
  | .reportResend => Sys2Proof.Machine.execReportResend s
  | .engineResetPress p => Sys2Proof.Machine.execEngineResetPress p s
  | .engineResetFerry p => Sys2Proof.Machine.execEngineResetFerry p s
  | .engineResetXlat p => Sys2Proof.Machine.execEngineResetXlat p s
  | .engineResetDone u => Sys2Proof.Machine.execEngineResetDone u s
  | .partitionReset p part => Sys2Proof.Machine.execPartitionReset p part s
  | .partitionResetDone part => Sys2Proof.Machine.execPartitionResetDone part s
  | .blockReset p confirm => Sys2Proof.Machine.execBlockReset p confirm s
  | .blkRstReq => Sys2Proof.Machine.execBlkRstReq s
  | .blockResetDone => Sys2Proof.Machine.execBlockResetDone s
  | .porRelease straps => Sys2Proof.Machine.execPorRelease straps s
  | .powerOnReady => Sys2Proof.Machine.execPowerOnReady s
  | .leesDump p c => Sys2Proof.Machine.execLeesDump p c s
  | .leesSlotsClear p mask => Sys2Proof.Machine.execLeesSlotsClear p mask s
  | .maintAcquire p res => Sys2Proof.Machine.execMaintAcquire p res s
  | .maintRelease p res => Sys2Proof.Machine.execMaintRelease p res s
  | .bistStart p => Sys2Proof.Machine.execBistStart p s
  | .bistDone errors firstFail => Sys2Proof.Machine.execBistDone errors firstFail s
  | .quarLift p k => Sys2Proof.Machine.execQuarLift p k s
  | .fwActivate p => Sys2Proof.Machine.execFwActivate p s
  | .fwActivateDone selfTestOk => Sys2Proof.Machine.execFwActivateDone selfTestOk s
  | .standbySelftestPass k => Sys2Proof.Machine.execStandbySelftestPass k s
  | .cellarerHeartbeatMiss faultCode => Sys2Proof.Machine.execCellarerHeartbeatMiss faultCode s
  | .readStatus => Sys2Proof.Machine.execReadStatus s
  | .svcRead addr len => Sys2Proof.Machine.execSvcRead addr len s
  | .stageBegin => Sys2Proof.Machine.execStageBegin s
  | .svcWrite addr data => Sys2Proof.Machine.execSvcWrite addr data s
  | .stageEnd len => Sys2Proof.Machine.execStageEnd len s
  | .stageAbort => Sys2Proof.Machine.execStageAbort s
  | .settingsRecord words => Sys2Proof.Machine.execSettingsRecord words s
  | .settingsNone => Sys2Proof.Machine.execSettingsNone s
  | .settingsAck => Sys2Proof.Machine.execSettingsAck s
  | .verifyResult pass => Sys2Proof.Machine.execVerifyResult pass s
  | .registerWrite p off size8 v => Sys2Proof.Machine.execRegisterWrite p off size8 v s
  | .flitBoundary x => Sys2Proof.Machine.execFlitBoundary x s
  | .portalResponseTaken ch txn => Sys2Proof.Machine.execPortalResponseTaken ch txn s
  | .oeReadyRise n => Sys2Proof.Machine.execOeReadyRise n s
  | .pageHeld => Sys2Proof.Machine.execPageHeld s
  | .undefinedControlFlit n rx parity => Sys2Proof.Machine.execUndefinedControlFlit n rx parity s
  | .malformedPacket x => Sys2Proof.Machine.execMalformedPacket x s

end Sys2Proof.Machine
end

