-- ==== Sys2Proof/Safety.lean ====
section
/-!
DEFINITION. What a state must meet for a run to be a safe one: the lees memory is in its canonical form, and no write
to it is left pending between commands. And the conditions on a state under which the statements say what a command
does.
-/

namespace Sys2Proof.Machine

/-- The invariant of the model's own data: the lees are canonical and no lees write is pending. -/
def State.Inv (s : State) : Prop := Memory.wf s.lees = true ∧ s.blk.evt.leesOps = []

/-- Nothing waits that a command could set going beside its own effect: no packet is queued at a strait, to be chosen
again or barred, no packet use found its key slot exhausted, no collective instance or arrival is in the press, which
asks for no permit, no access was barred, no need waits for the power manager, which is alive. -/
def Block.Quiet (b : Block) : Prop :=
  b.route.left = [] ∧ b.route.exhausted = [] ∧ b.mem.refused = [] ∧ b.press.insts = [] ∧ b.press.arrivals = [] ∧
  b.press.permit ≠ .waiting ∧ (∀ e ∈ b.egress, e.2.elig = [] ∧ ∀ q ∈ e.2.queues, q.2 = []) ∧
  b.pwr.waiting = [] ∧ b.pwr.alive = true

/-- Sequencer q stands at the word w, and can issue it (R111). -/
def Block.AtWord (b : Block) (q : SeqId) (w : Quad) : Prop :=
  canIssue (b.seq q) = true ∧ (b.seq q).words[(b.seq q).pc.toNat]? = some w

/-- Sequencer q can issue the word w at its PC, the word's opcode is `op`, and its predicate test holds (R99). -/
def Block.Issues (b : Block) (q : SeqId) (op : Nat) (w : Quad) : Prop :=
  b.AtWord q w ∧ wOpcode w = op ∧ testHolds (b.seq q) w = true

/-- A write of the register at an offset is taken at once on a path: the ports are ready (R679), the path may write it
(Table 18.4), and it does not wait for the datapath clock (R43). -/
def Block.Writable (b : Block) (p : Path) (off : Nat) : Prop :=
  portsReady b = true ∧ mayWrite b p off = true ∧ mustWait b off = false

/-- The state after a register write at an offset whose effect on the block is `f`: in its cycle a write to a datapath
register is a start cause of the datapath clock (R42, R592). -/
def State.afterWrite (s : State) (off : Nat) (f : Block → Block) : State := s.after fun b => f (kickAt off b)

/-- The state after a START of sequencer q whose own effect on the block is `f`: unlike other commands it may lie in the
cycle of a STOP (R61; log 90). -/
def State.afterStart (s : State) (q : SeqId) (f : Block → Block) : State :=
  s.run fun b => { settle b (f (kickAt (0x50010 + 0x400 * q.val) (newBoundary b))) with stopped := none }

/-- The state after a command that may lie in the cycle of a boundary (R633; log 90), whose own effect is `f`. -/
def State.afterInCycle (s : State) (f : Block → Block) : State := s.run fun b => settle b (f b)

end Sys2Proof.Machine
end

