-- ==== Sys2Proof/Certificates/Slice0/Obligations.lean ====
section
/-!
DEFINITION. The statements about the block, from the numbered rules of spec/. Each docstring says what a statement
claims; OBLIGATIONS.json names the rules.
-/

open Sys2Proof Sys2Proof.Machine

/-! ### The block as a whole -/

/-- A step takes the command at the front of the queue and runs it on the state with the queue's rest. -/
def Obligations.StepRunsTheFrontCommand : Prop :=
  ∀ (c : Instr) (r : List Instr) (s : State),
    Machine.step { s with pending := c :: r } = Machine.exec c { s with pending := r }

/-- On an empty queue a step is one 10 ns cycle of the always-on clock (log 9, the model's choice): both times go on
by 10 ns, the stopped time of the datapath clock counts while it is STOPPED, the queue and the lees stay as they are.
-/
def Obligations.EmptyQueueIsOneClockCycle : Prop :=
  ∀ s : State, s.pending = [] → s.Inv →
    ∃ t, Machine.step s = .next t ∧ t.pending = [] ∧ t.lees = s.lees ∧
      t.blk.time.net = s.blk.time.net + 10 ∧ t.blk.time.loc = s.blk.time.loc + 10 ∧
      t.blk.pwr.dpStoppedNs = (if s.blk.pwr.dp = .stopped then s.blk.pwr.dpStoppedNs + 10 else s.blk.pwr.dpStoppedNs) ∧
      t.blk.seqs = s.blk.seqs ∧ t.blk.ctxs = s.blk.ctxs ∧ t.blk.straits = s.blk.straits ∧ t.blk.tally = s.blk.tally

/-- No command ends in a fault or a refusal, whatever the state: the spec gives every row of the table an effect. No
command touches the queue of those that wait, and each leaves the lees in canonical form with no write pending. -/
def Obligations.EveryCommandAnswersANextState : Prop :=
  ∀ (i : Instr) (s : State), Memory.wf s.lees = true →
    ∃ t, Machine.exec i s = .next t ∧ t.pending = s.pending ∧ t.Inv

/-- Every step keeps the invariant of the model's own data: the lees memory in canonical form (addresses rising and
inside the 2 MiB, no byte 0 listed) and no lees write left pending. -/
def Obligations.EveryStepKeepsTheInvariant : Prop :=
  ∀ s t : State, s.Inv → Machine.step s = .next t → t.Inv

/-- The state after reset meets that invariant. -/
def Obligations.ResetMeetsTheInvariant : Prop := State.reset.Inv

/-- What follows a command's own effect, when that effect leaves nothing waiting: the block is exactly what the effect
made it, but for the count of changes of measured configuration (R416), which goes up by 1 or not at all. -/
def Obligations.NothingElseFollowsAQuietCommand : Prop :=
  ∀ (s : State) (f : Block → Block), s.Inv → s.blk.pwr.waiting = [] → (f s.start).Quiet → (f s.start).evt.leesOps = [] →
    ∃ g, (s.after f) = { s with blk := { f s.start with keys := { (f s.start).keys with generation := g } } } ∧
      (g = (f s.start).keys.generation ∨ g = (f s.start).keys.generation + 1)

/-- The lees as a byte memory: a byte written reads back, every other byte reads as before, and a range cleared reads
0 and leaves the rest. -/
def Obligations.LeesBytesReadAsWritten : Prop :=
  ∀ (m : List Host.Cell) (a n : Nat) (v : Byte) (off len : Nat), Memory.wf m = true →
    (a < leesBytes → lget (lset m a v) n = if n = a then v else lget m n) ∧
    (leesBytes ≤ a → lset m a v = m) ∧
    lget (lclear m off len) n = (if off ≤ n ∧ n < off + len then 0 else lget m n) ∧
    Memory.wf (lset m a v) = true ∧ Memory.wf (lclear m off len) = true

/-! ### Words of the sequencers (03) -/

/-- NOP, SET, ALU and CMP at the PC of a sequencer that can issue, with their predicate test holding, complete in one
command: SET loads its immediate into G[GD], ALU and CMP their results, and the word is done. The operations of ALU
and CMP (Table 3.7) on numbers: arithmetic modulo 2^64, the low 64 bits of a product, shifts by bits [5:0] of the
second operand, unsigned MIN and MAX, and the signed and unsigned comparisons. A result computed from a register that
holds bytes of a protected range is marked as one (log 102, the model's choice); any other written register is not. -/
def Obligations.RegisterWordsComplete : Prop :=
  (
  ∀ (s : State) (q : SeqId) (w : Quad),
    (s.blk.Issues q 0x00 w → Machine.exec (.nop q) s = .next (s.after (wordDone q (s.blk.seq q).pc.toNat 1))) ∧
    (s.blk.Issues q 0x01 w → Machine.exec (.set q) s = .next (s.after fun b => wordDone q (b.seq q).pc.toNat 1
      (b.modSeq q fun x => { x with
        g := tset x.g (bits w 111 108) (w64 (bits w 63 0)), sealed := sealRegs false [bits w 111 108] x.sealed }))) ∧
    (s.blk.Issues q 0x02 w → Machine.exec (.alu q) s = .next (s.after fun b => wordDone q (b.seq q).pc.toNat 1
      (b.modSeq q fun x => { x with
        g := tset x.g (bits w 111 108) (aluOp (bits w 115 112) (tget 0 x.g (bits w 107 104)) (secondArg x w))
        sealed := sealRegs (x.sealed.contains (bits w 107 104) || secondSealed x w) [bits w 111 108] x.sealed }))) ∧
    (s.blk.Issues q 0x03 w → Machine.exec (.cmp q) s = .next (s.after fun b => wordDone q (b.seq q).pc.toNat 1
      (b.modSeq q fun x => { x with
        p := putPred x.p (bits w 111 110) (cmpOp (bits w 115 112) (tget 0 x.g (bits w 107 104)) (secondArg x w)) })))) ∧
  (
  ∀ a c : Word,
    (aluOp 0 a c).toNat = (a.toNat + c.toNat) % 2 ^ 64 ∧
    (aluOp 1 a c).toNat = (2 ^ 64 + a.toNat - c.toNat) % 2 ^ 64 ∧
    (aluOp 2 a c).toNat = a.toNat * c.toNat % 2 ^ 64 ∧
    (∀ i, (aluOp 3 a c).getLsbD i = (a.getLsbD i && c.getLsbD i) ∧ (aluOp 4 a c).getLsbD i = (a.getLsbD i || c.getLsbD i) ∧
      (aluOp 5 a c).getLsbD i = (a.getLsbD i ^^ c.getLsbD i)) ∧
    (aluOp 6 a c).toNat = a.toNat * 2 ^ (c.toNat % 64) % 2 ^ 64 ∧
    (aluOp 7 a c).toNat = a.toNat / 2 ^ (c.toNat % 64) ∧
    (aluOp 8 a c).toInt = a.toInt / 2 ^ (c.toNat % 64) ∧
    (aluOp 9 a c).toNat = min a.toNat c.toNat ∧ (aluOp 10 a c).toNat = max a.toNat c.toNat ∧
    (cmpOp 0 a c = true ↔ a = c) ∧ (cmpOp 1 a c = true ↔ a ≠ c) ∧
    (cmpOp 2 a c = true ↔ a.toNat < c.toNat) ∧ (cmpOp 3 a c = true ↔ c.toNat ≤ a.toNat) ∧
    (cmpOp 4 a c = true ↔ a.toInt < c.toInt) ∧ (cmpOp 5 a c = true ↔ c.toInt ≤ a.toInt) ∧
    (∀ (p : BitVec 4) (i j : Nat) (v : Bool), i < 4 → j < 4 → (putPred p i v).getLsbD j = if j = i then v else p.getLsbD j))

/-- A BR taken sets PC to TARGET. A LOOP whose test holds sets L[d] to COUNT, from the word or from G[GC], and goes to
the word after it, or past the end word when COUNT is 0; one whose test fails goes past the end word and leaves L[d].
Where PC goes when word e completes without a taken branch: to e + 1 where no loop ends at e; back to the first word
of the body of the innermost loop that ends there while its counter is above 1, which counts down; and out of that
loop, its counter 0, otherwise. Where the next word would be WORDS the sequencer halts at PC 0 instead. A counter taken
from a register with bytes of a protected range is marked as such (log 102, the model's choice). -/
def Obligations.BranchesLoopsAndProgramCounter : Prop :=
  (
  ∀ (s : State) (q : SeqId) (w : Quad),
    (s.blk.Issues q 0x04 w → Machine.exec (.br q) s = .next (s.after fun b => setPc q (bits w 10 0) (countWords 1 b))) ∧
    (s.blk.AtWord q w → wOpcode w = 0x05 → testHolds (s.blk.seq q) w = true →
      Machine.exec (.loop q) s = .next (s.after fun b =>
        let count : BitVec 32 :=
          if bits w 115 112 = 0 then BitVec.ofNat 32 (bits w 31 0) else (tget 0 (b.seq q).g (bits w 111 108)).setWidth 32
        setPc q (if count = 0 then bits w 42 32 + 1 else (b.seq q).pc.toNat + 1)
          ((countWords 1 b).modSeq q fun x =>
            let d := loopDepth (loopsOf (b.seq q).words) (b.seq q).pc.toNat
            { x with
              l := tset x.l d count
              sealed := sealRegs (bits w 115 112 != 0 && (b.seq q).sealed.contains (bits w 111 108)) [16 + d] x.sealed }))) ∧
    (s.blk.AtWord q w → wOpcode w = 0x05 → testHolds (s.blk.seq q) w = false →
      Machine.exec (.loop q) s = .next (s.after fun b => setPc q (bits w 42 32 + 1) (countWords 1 b)))) ∧
  (
  ∀ (b : Block) (q e : Nat),
    (loopsEnding (b.seq q).words e = [] → e + 1 ≠ (b.seq q).words.length →
      (advanceFrom q e b).seq q = { b.seq q with pc := BitVec.ofNat 11 (e + 1) }) ∧
    (∀ p d r, loopsEnding (b.seq q).words e = (p, d) :: r → 1 < (tget 0 (b.seq q).l d).toNat →
      p + 1 ≠ (b.seq q).words.length →
      (advanceFrom q e b).seq q = { b.seq q with
        pc := BitVec.ofNat 11 (p + 1), l := tset (b.seq q).l d (tget 0 (b.seq q).l d - 1) }) ∧
    (∀ p d, loopsEnding (b.seq q).words e = [(p, d)] → (tget 0 (b.seq q).l d).toNat ≤ 1 →
      e + 1 ≠ (b.seq q).words.length →
      (advanceFrom q e b).seq q = { b.seq q with pc := BitVec.ofNat 11 (e + 1), l := tset (b.seq q).l d 0 }) ∧
    (loopsEnding (b.seq q).words e = [] → e + 1 = (b.seq q).words.length →
      ((advanceFrom q e b).seq q).st = .halted ∧ ((advanceFrom q e b).seq q).pc = 0 ∧
      ((advanceFrom q e b).seq q).permitHeld = 0 ∧ ((advanceFrom q e b).seq q).awake = none))

/-- GET, PUT and ATOMIC whose address lies within bounds, with a tag of the sequencer's 64 free and the partition's
current key slot k, complete: the word takes tag t and becomes a portal request under slot k. A GET, and an ATOMIC
with RES = 1, hold the sequencer for their result; a PUT, and an ATOMIC with RES = 0, are done. The rows take their
words from the program store (log 7). -/
def Obligations.RemoteAccessWordsComplete : Prop :=
  ∀ (s : State) (q : SeqId) (w : Quad) (t k : Nat), seqTag s.blk q = some t → currentSlot s.blk (partOf s.blk q) = some k →
    let x := s.blk.seq q
    let va := tget 0 x.g (bits w 107 104) + BitVec.signExtend 64 (BitVec.ofNat 32 (bits w 31 0))
    let n := bits w 114 112 + 1
    let put := (List.range n).flatMap fun i => natBytes 8 (tget 0 x.g (bits w 111 108 + i)).toNat
    let ty : BitVec 2 := BitVec.ofNat 2 (bits w 95 94)
    let at' := va.toNat % 64
    va.toNat < 2 ^ 57 →
    (s.blk.Issues q 0x11 w → va.toNat % 8 = 0 → at' + 8 * n ≤ 64 →
      Machine.exec (.get q) s = .next (s.after fun b =>
        seqRequest q t x.pc.toNat (.read (8 * n)) va (BitVec.ofNat 2 (bits w 103 102)) none (bits w 111 108) k
          (holdAt q .result (countWords 1 b)))) ∧
    (s.blk.Issues q 0x12 w → va.toNat % 8 = 0 → at' + 8 * n ≤ 64 →
      Machine.exec (.put q) s = .next (s.after fun b =>
        seqRequest q t x.pc.toNat (.write (maskOf at' (8 * n)) (granOf at' put)) va (BitVec.ofNat 2 (bits w 89 88))
          (if bitAt w 103 then some (tallyArg x w 90, bitAt w 115) else none) 0 k (wordDone q x.pc.toNat 1 b))) ∧
    (s.blk.Issues q 0x13 w → va.toNat % atomBytes ty = 0 →
      Machine.exec (.atomic q) s = .next (s.after fun b =>
        seqRequest q t x.pc.toNat
          (.atomic (BitVec.ofNat 3 (bits w 115 112)) ty (bitAt w 93) (tget 0 x.g (bits w 103 100)) (tget 0 x.g (bits w 99 96)))
          va 0 (if bitAt w 92 then some (tallyArg x w 79, true) else none) (bits w 111 108) k
          (if bitAt w 93 then holdAt q .result (countWords 1 b) else wordDone q x.pc.toNat 1 b)))

/-- SIGNAL: a local one queues its amount for the tally of the sequencer's own context; a remote one becomes a portal
request to the node and context of its peer descriptor; a register amount of 0 sends nothing. WAIT is done at once,
with the tally's ERROR bit in P[PD], when (COUNT − target) modulo 2^63 is below 2^62; otherwise the sequencer goes to
WAITING for that tally and target. FENCE is done when what it covers has landed, and otherwise holds the sequencer;
FENCE_RELEASE lets it go on when it has. What LOCAL and REMOTE cover is the sequencer's own PUT, ATOMIC and SIGNAL
requests, and what MOVE covers is its transfers. The model's choices: WAIT_INFO changes only when WAITING is entered,
and a remote SIGNAL's descriptor is checked whatever the amount (log 44). -/
def Obligations.SignalWaitAndFenceComplete : Prop :=
  (
  ∀ (s : State) (q : SeqId) (w : Quad), s.blk.Issues q 0x14 w →
    let x := s.blk.seq q
    let amount := if bitAt w 113 then bits (tget 0 x.g (bits w 107 104)) 31 0 else bits w 31 0
    let d := tget 0 x.g (bits w 111 108)
    (bitAt w 112 = false → amount ≠ 0 →
      Machine.exec (.signal q) s = .next (s.after fun b => enqueueIncr
        { ctx := x.owner.val, idx := tallyArg x w 91, amount, err := false, part := some (b.ctx x.owner.val).part.val,
          seq := none, sig := some q.val } (wordDone q x.pc.toNat 1 b))) ∧
    ((bitAt w 112 = true → bits d 63 20 = 0 ∧ bits d 15 13 = 0) → amount = 0 →
      Machine.exec (.signal q) s = .next (s.after (wordDone q x.pc.toNat 1))) ∧
    (∀ t k, seqTag s.blk q = some t → currentSlot s.blk (partOf s.blk q) = some k →
      bitAt w 112 = true → bits d 63 20 = 0 → bits d 15 13 = 0 → amount ≠ 0 →
      Machine.exec (.signal q) s = .next (s.after fun b =>
        seqRequest q t x.pc.toNat
          (.signal (BitVec.ofNat 32 amount) (some (BitVec.ofNat 13 (bits d 12 0), bits d 19 16))) 0 0
          (some (tallyArg x w 91, true)) 0 k (wordDone q x.pc.toNat 1 b)))) ∧
  (
  ∀ (s : State) (q : SeqId) (w : Quad), s.blk.Issues q 0x15 w →
    let x := s.blk.seq q
    let t := tallyArg x w 91
    let target := tget 0 x.g (bits w 107 104)
    let v := s.blk.tallyOf x.owner.val t
    let d := ((v.toNat % 2 ^ 63 : Int) - target.toNat) % 2 ^ 63
    (d < 2 ^ 62 → Machine.exec (.wait q) s = .next (s.after fun b => wordDone q x.pc.toNat 1
      (b.modSeq q fun y => { y with p := putPred y.p (bits w 111 110) (bitAt v 63) }))) ∧
    (2 ^ 62 ≤ d → Machine.exec (.wait q) s = .next (s.after fun b => countWords 1 (b.modSeq q fun y => { y with
      st := .waiting, waitTally := BitVec.ofNat 12 t, waitTarget := target, waitPd := BitVec.ofNat 2 (bits w 111 110)
      sealed := sealRegs (y.sealed.contains (bits w 107 104)) [20] y.sealed })))) ∧
  (
  ∀ (s : State) (q : SeqId) (w : Quad),
    (s.blk.Issues q 0x16 w → fenceClear s.blk q (bits w 115 112) = true →
      Machine.exec (.fence q) s = .next (s.after (wordDone q (s.blk.seq q).pc.toNat 1))) ∧
    (s.blk.Issues q 0x16 w → fenceClear s.blk q (bits w 115 112) = false →
      Machine.exec (.fence q) s = .next (s.after fun b => countWords 1 (b.modSeq q fun x =>
        { x with hold := .fence, fenceKind := BitVec.ofNat 4 (bits w 115 112) }))) ∧
    ((s.blk.seq q).hold = .fence → (s.blk.seq q).st = .running → fenceClear s.blk q (s.blk.seq q).fenceKind.toNat = true →
      Machine.exec (.fenceRelease q) s = .next (s.after fun b =>
        advanceFrom q (b.seq q).pc.toNat (b.modSeq q fun x => { x with hold := .none }))) ∧
    (fenceClear s.blk q 1 = true ↔ (∀ i ∈ s.blk.tally.incs, i.sig ≠ some q.val) ∧ ∀ r ∈ s.blk.portal.reqs, fenced q r = false) ∧
    (fenceClear s.blk q 2 = true ↔ ∀ e ∈ s.blk.racks, (∀ x, e.2.run = some x → x.seq ≠ q) ∧ ∀ x ∈ e.2.queue, x.seq ≠ q))

/-- Where GET, PUT and ATOMIC stop: an address out of bounds faults the word with ACCESS; with all 64 tags taken the
sequencer holds at the word; with no current slot the word fails as under a retired key. A fault freezes the owning
context with cause 2, after the first fault is recorded with the word's index and status. The order of these checks is
the model's (log 44). -/
def Obligations.RemoteAccessWordsFaultOrHold : Prop :=
  ∀ (s : State) (q : SeqId) (w : Quad), s.blk.Issues q 0x11 w →
    let x := s.blk.seq q
    let va := tget 0 x.g (bits w 107 104) + BitVec.signExtend 64 (BitVec.ofNat 32 (bits w 31 0))
    let n := bits w 114 112 + 1
    let ok := va.toNat < 2 ^ 57 ∧ va.toNat % 8 = 0 ∧ va.toNat % 64 + 8 * n ≤ 64
    (¬ ok → Machine.exec (.get q) s = .next (s.after fun b =>
      freezeCtx x.owner.val 2 .access q q x.pc.toNat (recordFault q x.pc.toNat .access b))) ∧
    (ok → seqTag s.blk q = none → Machine.exec (.get q) s = .next (s.after (holdAt q .tag))) ∧
    (ok → (seqTag s.blk q).isSome → currentSlot s.blk (partOf s.blk q) = none →
      Machine.exec (.get q) s = .next (s.after fun b =>
        freezeCtx x.owner.val 6 .keyRetired 0xFF q x.pc.toNat (recordFault q x.pc.toNat .keyRetired b))) ∧
    (∀ (b : Block) (e : Nat) (st : Status),
      (recordFault q e st b).seq q = if (b.seq q).faultValid then b.seq q else
        { b.seq q with faultValid := true, faultPc := BitVec.ofNat 16 e, faultStatus := st.code })

/-- MOVE with addresses and length in bounds: one of non-zero length takes a place in its engine's queue, as a
transfer with the word's fields and the engine's next serial number, is traced and is done; with four transfers queued
the sequencer holds before issue; one of length 0 transfers nothing and counts CT. Out of bounds it faults with
ACCESS. KEYSEL and the word after it are one unit of two words, which the second word predicates: a test that fails
skips both; a MOVE, GET or PUT whose test holds takes effect with the key KEYSEL names. Under WEIGHT that is slot 12 +
W while the partition holds it, and otherwise the word faults with ACCESS; a MOVE keeps the choice until its engine
binds. The serial in the trace of a zero-length MOVE is a free value (log 4); the bounds of the addresses are log 44.
-/
def Obligations.MoveAndKeyselComplete : Prop :=
  (
  ∀ (s : State) (q : SeqId) (w : Quad), s.blk.Issues q 0x10 w →
    let x := s.blk.seq q
    let src := tget 0 x.g (bits w 111 108)
    let dst := tget 0 x.g (bits w 107 104)
    let len := (tget 0 x.g (bits w 103 100)).toNat
    let e := engineArg x w
    let c := x.owner.val
    let ok := src.toNat < 2 ^ 57 ∧ dst.toNat < 2 ^ 57 ∧ src.toNat % 64 = 0 ∧ dst.toNat % 64 = 0 ∧ len % 64 = 0 ∧ len < 2 ^ 40
    let serial := (s.blk.rack e).serial + 1
    let xfer : Xfer :=
      { seq := q, ctx := c, pc := x.pc, src, dst, len, dt := if bitAt w 113 then some (tallyArg x w 82, bitAt w 114) else none,
        ct := if bitAt w 112 then some (tallyArg x w 69) else none, hint := BitVec.ofNat 2 (bits w 68 67), rate := bits w 66 64,
        weight := none, key := none, lent := 0, asked := 0, issued := 0, chunks := 0, errored := false, firstErr := 0,
        stopped := false, last := none, maint := none, serial }
    (ok → len ≠ 0 → (s.blk.rack e).queue.length < 4 →
      Machine.exec (.move q) s = .next (s.after fun b => rackNext e (wordDone q x.pc.toNat 1
        (traceEvent 5 e (w64 len) (w64 serial) q c 0 x.pc.toNat
          (b.modRack e fun r => { r with queue := r.queue ++ [xfer], serial }))))) ∧
    (ok → len ≠ 0 → 4 ≤ (s.blk.rack e).queue.length → Machine.exec (.move q) s = .next (s.after (holdAt q .engine))) ∧
    (ok → len = 0 → bitAt w 112 = true →
      Machine.exec (.move q) s = .next (s.after fun b => enqueueIncr
        { ctx := c, idx := tallyArg x w 69, amount := 1, err := false, part := some (b.ctx c).part.val, seq := some q.val }
        (traceEvent 5 e 0 (Config.freeWord b.free) q c 0 x.pc.toNat
          (wordDone q x.pc.toNat 1 { b with free := b.free + 1 })))) ∧
    (¬ ok → Machine.exec (.move q) s = .next (s.after fun b =>
      freezeCtx c 2 .access q q x.pc.toNat (recordFault q x.pc.toNat .access b)))) ∧
  (
  ∀ (s : State) (q : SeqId) (w v : Quad), s.blk.AtWord q w → wOpcode w = 0x33 →
    (s.blk.seq q).words[(s.blk.seq q).pc.toNat + 1]? = some v →
    let x := s.blk.seq q
    let next := x.pc.toNat + 1
    let va := tget 0 x.g (bits v 107 104) + BitVec.signExtend 64 (BitVec.ofNat 32 (bits v 31 0))
    let n := bits v 114 112 + 1
    let inSpan := va.toNat < 2 ^ 57 ∧ va.toNat % 8 = 0 ∧ va.toNat % 64 + 8 * n ≤ 64
    (testHolds x v = false → Machine.exec (.keysel q) s = .next (s.after (wordDone q next 2))) ∧
    (testHolds x v = true → wOpcode v = 0x11 → bits w 115 112 = 1 → inSpan → ∀ t, seqTag s.blk q = some t →
      weightHeld s.blk (partOf s.blk q) (bits w 1 0) = true →
      Machine.exec (.keysel q) s = .next (s.after fun b =>
        seqRequest q t next (.read (8 * n)) va (BitVec.ofNat 2 (bits v 103 102)) none (bits v 111 108) (12 + bits w 1 0)
          (holdAt q .result (countWords 2 b)))) ∧
    (testHolds x v = true → wOpcode v = 0x11 → bits w 115 112 = 1 → inSpan → (seqTag s.blk q).isSome →
      weightHeld s.blk (partOf s.blk q) (bits w 1 0) = false →
      Machine.exec (.keysel q) s = .next (s.after fun b =>
        freezeCtx x.owner.val 2 .access q q next (recordFault q next .access b))) ∧
    (testHolds x v = true → wOpcode v = 0x10 →
      Machine.exec (.keysel q) s = .next (s.after
        (wMove q next 2 (if bits w 115 112 = 1 then some (bits w 1 0) else none) v))) ∧
    (testHolds x v = true → wOpcode v = 0x12 →
      Machine.exec (.keysel q) s = .next (s.after
        (wPut q next 2 (if bits w 115 112 = 1 then some (bits w 1 0) else none) v))))

/-- COLL with buffers, count and root in bounds, room for an instance and the group claimed takes the group's next
instance number, as an instance with the word's fields; the word is done unless the issue itself froze the sequencer.
Without room the sequencer holds before issue; out of bounds the word faults with ACCESS, and so does one whose
checksummed ranges are not whole aligned tiles, of a group that is not blocked, with cause 8. FERRY with its result
address in bounds and room for an instance issues a ferry instance with its N registers as one little-endian value; a
BARRIER carries no operand and no address. Which bounds are checked first, and that both buffers always are, is the
model's choice (log 44), and so is the index that the fault of a range names (log 36). -/
def Obligations.CollAndFerryComplete : Prop :=
  (
  ∀ (s : State) (q : SeqId) (w : Quad) (g : Machine.Group), s.blk.Issues q 0x20 w → groupOf s.blk (bits w 95 86) = some g →
    let x := s.blk.seq q
    let gid := bits w 95 86
    let kind := bits w 115 112
    let ty := bits w 83 79
    let count := (tget 0 x.g (bits w 103 100)).toNat
    let root := (tget 0 x.g (bits w 99 96)).toNat
    let rooted := kind == kBroadcast || kind == kReduce
    let inst : Inst :=
      { kind, gs := tget 0 x.g (bits w 111 108), gd := tget 0 x.g (bits w 107 104), count, root := if rooted then root else 0,
        op := bits w 85 84, ty, carry := bitAt w 78, rt := tallyArg x w 65, hint := BitVec.ofNat 2 (bits w 64 63) }
    let fits (va : Word) (dst : Bool) := va.toNat % 64 = 0 ∧ va.toNat + bufBytes ty (bufTotal g inst dst) ≤ 2 ^ 57
    let ok := fits inst.gs false ∧ fits inst.gd true ∧ 1 ≤ count ∧ count < 2 ^ 32 ∧
      count % (if byRank kind then g.n * tyBlock ty else tyBlock ty) = 0 ∧ (rooted = true → root < g.n)
    let untiled := groupBlocked s.blk gid = false ∧ collTiled s.blk g (collShape g inst) = false
    (ok → instRoom s.blk q gid g = true → untiled → Machine.exec (.coll q) s = .next (s.after fun b =>
      freezeCtx g.ctx 8 .access (((instFor b gid g.nextSeq).or (freeInst b q)).getD 0 % 64) q x.pc.toNat
        (recordFault q x.pc.toNat .access b))) ∧
    (ok → instRoom s.blk q gid g = true → ¬ untiled →
      Machine.exec (.coll q) s = .next (s.after fun b =>
        let b' := collIssue q x.pc.toNat gid inst b
        if (b'.seq q).st = .running then wordDone q x.pc.toNat 1 b' else countWords 1 b')) ∧
    (ok → instRoom s.blk q gid g = false → Machine.exec (.coll q) s = .next (s.after (holdAt q .inst))) ∧
    (¬ ok → Machine.exec (.coll q) s = .next (s.after fun b =>
      freezeCtx x.owner.val 2 .access q q x.pc.toNat (recordFault q x.pc.toNat .access b)))) ∧
  (
  ∀ (s : State) (q : SeqId) (w : Quad) (g : Machine.Group), s.blk.Issues q 0x21 w → groupOf s.blk (bits w 105 96) = some g →
    let x := s.blk.seq q
    let gid := bits w 105 96
    let op := bits w 115 112
    let n := bits w 107 106 + 1
    let va := tget 0 x.g (bits w 92 89)
    let v : BitVec 256 := BitVec.ofNat 256 (packNat ((List.range n).map fun i => (64 * i, (tget 0 x.g (bits w 111 108 + i)).toNat)))
    let ok := va.toNat < 2 ^ 57 ∧ va.toNat % 8 = 0 ∧ va.toNat % 64 + 8 * n ≤ 64
    let go (v : BitVec 256) (va : Word) (b : Block) : Block :=
      let b' := ferryIssue q x.pc.toNat gid op (bits w 95 93) n v va (tallyArg x w 76) b
      if (b'.seq q).st = .running then wordDone q x.pc.toNat 1 b' else countWords 1 b'
    (op ≠ opBarrier → ok → instRoom s.blk q gid g = true → Machine.exec (.ferry q) s = .next (s.after (go v va))) ∧
    (op = opBarrier → instRoom s.blk q gid g = true → Machine.exec (.ferry q) s = .next (s.after (go 0 0))) ∧
    (op ≠ opBarrier → ok → instRoom s.blk q gid g = false → Machine.exec (.ferry q) s = .next (s.after (holdAt q .inst))) ∧
    (op ≠ opBarrier → ¬ ok → Machine.exec (.ferry q) s = .next (s.after fun b =>
      freezeCtx x.owner.val 2 .access q q x.pc.toNat (recordFault q x.pc.toNat .access b))))

/-- WATCH with an address and length in bounds is accepted by an armed watch of the sequencer's context whose step
filter takes STEP, and then holds the sequencer for its source; not accepted, it takes one cycle and has no other
effect. Out of bounds it faults with ACCESS, armed or not. MARK records a trace event with its CODE and G[GV], 0 in place of
bytes of a protected range, and is done in one cycle; with tracing off it does nothing else. COMPLETE holds while the previous record is not visible.
Otherwise it writes one 64 B record whose SEQUENCE is one more than the last, keeps the event that EVENT asks for
until the record is visible, and goes on, or with HALT halts at the next word. The model's choices: the owner in the
event's CONTEXT (log 14), when a WATCH holds (log 31), and what counts as bytes of a protected range (log 102). -/
def Obligations.WatchMarkAndCompleteComplete : Prop :=
  (
  ∀ (s : State) (q : SeqId) (w : Quad), s.blk.Issues q 0x30 w →
    let x := s.blk.seq q
    let ga := tget 0 x.g (bits w 111 108)
    let len := (tget 0 x.g (bits w 107 104)).toNat
    let c := (s.blk.watch (bits w 21 16)).ctrl
    let step := bits w 15 0
    let ok := ga.toNat < 2 ^ 57 ∧ ga.toNat % 64 = 0 ∧ len % 64 = 0 ∧ 64 ≤ len ∧ len ≤ 2 ^ 20 ∧ ga.toNat + len ≤ 2 ^ 57
    let armed := bitAt c 63 = true ∧ bits c 59 56 = x.owner.val ∧ bits c 15 0 ≤ step ∧ step ≤ bits c 31 16 ∧
      bits c 47 32 ≠ 0 ∧ bitAt s.blk.thief.ctrl 0 = true
    (ok → armed → Machine.exec (.watch q) s = .next (s.after fun b =>
      watchIssue q x.pc.toNat (bits w 21 16) step ga len (countWords 1 b))) ∧
    (ok → ¬ armed → Machine.exec (.watch q) s = .next (s.after (wordDone q x.pc.toNat 1))) ∧
    (¬ ok → Machine.exec (.watch q) s = .next (s.after fun b =>
      freezeCtx x.owner.val 2 .access q q x.pc.toNat (recordFault q x.pc.toNat .access b)))) ∧
  (
  ∀ (s : State) (q : SeqId) (w : Quad), s.blk.Issues q 0x31 w →
    let x := s.blk.seq q
    (Machine.exec (.mark q) s = .next (s.after fun b => wordDone q x.pc.toNat 1
      (traceEvent (bits w 115 112) (bits w 15 0)
        (if x.sealed.contains (bits w 111 108) = true then 0 else tget 0 x.g (bits w 111 108)) 0 q x.owner.val 0 x.pc.toNat b))) ∧
    (bitAt s.blk.thief.ctrl 0 = false ∨ bitAt s.blk.thief.ctrl 4 = false →
      Machine.exec (.mark q) s = .next (s.after (wordDone q x.pc.toNat 1)))) ∧
  (
  ∀ (s : State) (q : SeqId) (w : Quad), s.blk.Issues q 0x3F w →
    let x := s.blk.seq q
    let seqno := x.cseq + 1
    let ev : EventEntry :=
      { time := 0, seq := 0, code := 0x20, status := BitVec.ofNat 8 (bits w 7 0), ctx := BitVec.ofNat 8 x.owner.val,
        unit := BitVec.ofNat 8 q.val, arg0 := seqno, arg1 := x.tag }
    let record := granOf 0 (natBytes 8 seqno.toNat ++ natBytes 1 (bits w 7 0) ++ natBytes 1 q.val ++ natBytes 1 x.owner.val ++
      natBytes 1 (bits w 113 112) ++ natBytes 4 x.pc.toNat ++ natBytes 8 x.tag.toNat ++
      natBytes 8 (tget 0 x.g (bits w 111 108)).toNat ++ natBytes 8 s.blk.time.net.toNat)
    let written (b : Block) : Block :=
      traceEvent 4 0 seqno x.tag q x.owner.val (bits w 7 0) x.pc.toNat
        ((memWrite (bits x.crecAddr 49 0) 0 (~~~0) record (.crec q)
          (countWords 1 (b.modSeq q fun y => { y with cseq := y.cseq + 1 }))).modSeq q fun y =>
          { y with recBusy := true, recEvent := if bitAt w 113 then some ev else none })
    (x.recBusy = true → Machine.exec (.complete q) s = .next (s.after (holdAt q .record))) ∧
    (x.recBusy = false → bitAt w 112 = false → Machine.exec (.complete q) s = .next (s.after fun b =>
      compatBoundary s.lees q (advanceFrom q x.pc.toNat (written b)))) ∧
    (x.recBusy = false → bitAt w 112 = true → Machine.exec (.complete q) s = .next (s.after fun b =>
      let next := loopBack x.pc.toNat (loopsEnding x.words x.pc.toNat) x.l
      compatBoundary s.lees q (dropHolding q ((written b).modSeq q fun y =>
        { y with l := next.2, st := .halted, pc := if next.1 = y.words.length then 0 else BitVec.ofNat 11 next.1 })))))

/-- The PERMIT words: ACQUIRE asks the power manager for the increase over the sequencer's holding and holds before
issue; one that needs no more is done, and lowers the holding. RELEASE sets the holding to 0. A decrease returns the
units that are not lent at once, and owes the lent ones until their operations end. AWAKE_SET sets the hint and wakes
the straits it names; AWAKE_CLEAR removes it. What is owed first is the model's choice (log 15). -/
def Obligations.PermitWordsComplete : Prop :=
  ∀ (s : State) (q : SeqId) (w : Quad), s.blk.Issues q 0x32 w →
    let x := s.blk.seq q
    let units := bits w 8 0
    let lower (n : Nat) (b : Block) : Block :=
      let drop := x.permitHeld - n
      let now := min drop (x.permitHeld - x.permitLent)
      wordDone q x.pc.toNat 1 (returnUnits now (b.modSeq q fun y => { y with
        permitHeld := y.permitHeld - drop, permitLent := y.permitLent - (drop - now), permitOwed := y.permitOwed + (drop - now) }))
    (bits w 115 112 = 0 → units ≤ x.permitHeld → Machine.exec (.permitAcquire q) s = .next (s.after (lower units))) ∧
    (bits w 115 112 = 0 → x.permitHeld < units → Machine.exec (.permitAcquire q) s = .next (s.after fun b =>
      askPermit (.seq q) (units - x.permitHeld) (b.modSeq q fun y => { y with hold := .permit }))) ∧
    (bits w 115 112 = 1 → Machine.exec (.permitRelease q) s = .next (s.after (lower 0))) ∧
    (bits w 115 112 = 2 → Machine.exec (.awakeSet q) s = .next (s.after fun b =>
      let m : BitVec 32 := (tget 0 x.g (bits w 111 108)).setWidth 32
      wordDone q x.pc.toNat 1 (wakeStraits (setBits 32 m) (b.modSeq q fun y => { y with awake := some m })))) ∧
    (bits w 115 112 = 3 → Machine.exec (.awakeClear q) s = .next (s.after fun b =>
      wordDone q x.pc.toNat 1 (b.modSeq q fun y => { y with awake := none })))

/-- A word held before issue issues when it finds what it waited for, shown for a GET held for a tag and a MOVE held
for a place in its engine's queue; and a sequencer that waited after issue under a freeze or a STOP enters FROZEN or
HALTED, with its hint cleared and its held permit released. A word whose predicate test fails has no effect but to be
done: for every word that the test predicates. The rows that release a hold are log 68. -/
def Obligations.HeldAndSkippedWords : Prop :=
  (
  ∀ (s : State) (q : SeqId) (w : Quad),
    let x := s.blk.seq q
    (x.st = .running → x.hold = .tag → x.words[x.pc.toNat]? = some w → wOpcode w = 0x11 →
      Machine.exec (.seqHoldRelease q) s = .next (s.after fun b => coreGet q (b.modSeq q fun y => { y with hold := .none }))) ∧
    (x.st = .running → x.hold = .engine → x.words[x.pc.toNat]? = some w → wOpcode w = 0x10 →
      Machine.exec (.seqHoldRelease q) s = .next (s.after fun b => coreMove q (b.modSeq q fun y => { y with hold := .none }))) ∧
    (x.st = .running → x.hold = .inst → x.words[x.pc.toNat]? = some w → wOpcode w = 0x20 →
      Machine.exec (.seqHoldRelease q) s = .next (s.after fun b => coreColl q (b.modSeq q fun y => { y with hold := .none }))) ∧
    (x.st = .running → x.hold = .record → x.words[x.pc.toNat]? = some w → wOpcode w = 0x3F →
      Machine.exec (.seqHoldRelease q) s = .next (s.after fun b =>
        coreComplete s.lees q (b.modSeq q fun y => { y with hold := .none }))) ∧
    (x.hold = .none → x.st = .running → x.freezePending = true →
      Machine.exec (.seqEnterFrozen q) s = .next (s.after fun b =>
        dropHolding q (b.modSeq q fun y => { y with st := .frozen, freezePending := false, stopPending := false }))) ∧
    (x.hold = .none → x.st = .running → x.freezePending = false → x.stopPending = true →
      Machine.exec (.seqEnterFrozen q) s = .next (s.after fun b =>
        dropHolding q (b.modSeq q fun y => { y with st := .halted, stopPending := false })))) ∧
  (
  ∀ (s : State) (q : SeqId) (w : Quad), s.blk.AtWord q w → testHolds (s.blk.seq q) w = false →
    ∀ i ∈ [(0x00, Instr.nop q), (0x01, .set q), (0x02, .alu q), (0x03, .cmp q), (0x04, .br q), (0x10, .move q), (0x11, .get q),
      (0x12, .put q), (0x13, .atomic q), (0x14, .signal q), (0x15, .wait q), (0x16, .fence q), (0x20, .coll q),
      (0x21, .ferry q), (0x30, .watch q), (0x31, .mark q), (0x3F, .complete q)],
    wOpcode w = i.1 → Machine.exec i.2 s = .next (s.after (wordDone q (s.blk.seq q).pc.toNat 1)))

/-- The frame of the register words: NOP, SET, ALU, CMP, BR and LOOP, on a block with nothing waiting, change in the
block only their own sequencer (of it its G, P and L registers, which of them hold bytes of a protected range, PC, and
at the program's end its state and what a halt clears), the word count, permit units that a halt returns, and the port
record; every other sequencer, every context, tally, engine, strait and the lees are as before. -/
def Obligations.RegisterWordsFrame : Prop :=
  ∀ (s t : State) (q : SeqId), s.Inv → s.blk.Quiet →
    ∀ i ∈ [Instr.nop q, .set q, .alu q, .cmp q, .br q, .loop q], Machine.exec i s = .next t →
    (∀ n, n ≠ q.val → t.blk.seq n = s.blk.seq n) ∧ t.blk.ctxs = s.blk.ctxs ∧ t.blk.tally = s.blk.tally ∧
    t.blk.racks = s.blk.racks ∧ t.blk.straits = s.blk.straits ∧ t.blk.egress = s.blk.egress ∧ t.blk.mem = s.blk.mem ∧
    t.blk.portal = s.blk.portal ∧ t.blk.home = s.blk.home ∧ t.blk.press = s.blk.press ∧ t.blk.xlat = s.blk.xlat ∧
    t.blk.route = s.blk.route ∧ t.blk.evt = s.blk.evt ∧ t.blk.maint = s.blk.maint ∧ t.lees = s.lees ∧
    (∃ g m p l pc st a h x y, t.blk.seq q =
        { s.blk.seq q with g, sealed := m, p, l, pc, st, awake := a, permitHeld := h, permitLent := x, permitOwed := y } ∧
      ((st = (s.blk.seq q).st ∧ a = (s.blk.seq q).awake ∧ h = (s.blk.seq q).permitHeld ∧ x = (s.blk.seq q).permitLent ∧
        y = (s.blk.seq q).permitOwed) ∨ st = .halted))

/-! ### Register writes (18) -/

/-- Every row that names a register write is the write of that register: with the REGISTER_WRITE of its offset and
value it is one command, on every path and in every state. So what holds of REGISTER_WRITE's forms holds of them. The
writes of words whose other bits are not operands are written with those bits 0 (log 6). -/
def Obligations.NamedWritesAreRegisterWrites : Prop :=
  ∀ (s : State) (p : Path), let w (off : Nat) (v : Word) := Machine.exec (.registerWrite p (BitVec.ofNat 24 off) true v) s
    (∀ q : SeqId, Machine.exec (.seqLoad p q) s = w (0x50010 + 0x400 * q.val) 8 ∧
      Machine.exec (.seqUnload p q) s = w (0x50010 + 0x400 * q.val) 4 ∧
      Machine.exec (.seqStop p q) s = w (0x50010 + 0x400 * q.val) 2 ∧
      Machine.exec (.seqStart p q) s = w (0x50010 + 0x400 * q.val) 1) ∧
    (∀ n : StraitId, Machine.exec (.straitEnable p n) s = w (0x10010 + 0x800 * n.val) 1 ∧
      Machine.exec (.straitDisable p n) s = w (0x10010 + 0x800 * n.val) 0 ∧
      (∀ t, Machine.exec (.tideChange p n t) s = w (0x82078 + 0x100 * n.val) t)) ∧
    (∀ c : Ctx, Machine.exec (.ctxFreeze p c) s = w (0x40028 + 0x1000 * c.val) 1 ∧
      Machine.exec (.ctxReset p c) s = w (0x40028 + 0x1000 * c.val) 2 ∧
      Machine.exec (.leesDump p c) s = w 0xB0310 (BitVec.ofNat 64 (16 + c.val)) ∧
      (∀ v part, Machine.exec (.ctxBindWrite p c v part) s = w (0x40000 + 0x1000 * c.val) (word [(5, v.toNat), (0, part.val)])) ∧
      (∀ a seq, Machine.exec (.invalidateRange p a c seq) s = w (0x70418 + 0x40 * a.val) (word [(32, seq.toNat), (8, 0), (0, c.val)]) ∧
        Machine.exec (.invalidateContext p a c seq) s = w (0x70418 + 0x40 * a.val) (word [(32, seq.toNat), (8, 1), (0, c.val)]) ∧
        Machine.exec (.invalidateAll p a c seq) s = w (0x70418 + 0x40 * a.val) (word [(32, seq.toNat), (8, 2), (0, c.val)]))) ∧
    (∀ b : BankId, Machine.exec (.routeSeal p b) s = w 0x1208 (BitVec.ofNat 64 (0x100 + b.val)) ∧
      Machine.exec (.routeFlip p b) s = w 0x1208 (BitVec.ofNat 64 (0x200 + b.val))) ∧
    (∀ v, Machine.exec (.hostAwakeWrite p v) s = w 0xA0010 v ∧ Machine.exec (.thiefEnable p v) s = w 0x90000 (v ||| 1) ∧
      Machine.exec (.thiefDisable p v) s = w 0x90000 (v &&& ~~~1) ∧ Machine.exec (.evtRingEnable p v) s = w 0x1020 (v ||| 1) ∧
      (∀ m : MeterId, Machine.exec (.meterCtrlWrite p m v) s = w (0x81000 + 0x40 * m.val) v ∧
        Machine.exec (.meterSettingWrite p m false v) s = w (0x81008 + 0x40 * m.val) v ∧
        Machine.exec (.meterSettingWrite p m true v) s = w (0x81010 + 0x40 * m.val) v) ∧
      (∀ k : Fin 8, Machine.exec (.compatBindWrite p k v) s = w (0x90800 + 0x100 * k.val) v)) ∧
    (∀ k : Fin 8, Machine.exec (.compatLatch p k) s = w (0x90808 + 0x100 * k.val) 1) ∧
    Machine.exec (.engineResetPress p) s = w 0xB0000 1 ∧ Machine.exec (.engineResetFerry p) s = w 0xB0000 2 ∧
    Machine.exec (.engineResetXlat p) s = w 0xB0000 3 ∧
    (∀ part : Part, Machine.exec (.partitionReset p part) s = w 0xB0008 (BitVec.ofNat 64 (4 + part.val))) ∧
    (∀ c, Machine.exec (.blockReset p c) s = w 0xB0010 (word [(48, c.toNat), (0, 1)])) ∧
    Machine.exec (.bistStart p) s = w 0xB0180 1 ∧ Machine.exec (.fwActivate p) s = w 0xB0200 1 ∧
    (∀ r : Byte, Machine.exec (.maintAcquire p r) s = w 0xB0100 (r.setWidth 64) ∧
      Machine.exec (.maintRelease p r) s = w 0xB0100 (BitVec.ofNat 64 (0x100 + r.toNat))) ∧
    (∀ m : BitVec 11, Machine.exec (.leesSlotsClear p m) s = w 0xB0308 (m.setWidth 64)) ∧
    (∀ k : Fin 32, Machine.exec (.quarLift p k) s = w 0xB0500 (BitVec.ofNat 64 (0x20 + k.val)))

/-- What becomes of a register write by its form: before the ports are ready nothing; misaligned, or not of 8 bytes,
it is ignored and counted; on a path that may not make it, nothing; to a datapath register while that clock does not
run it waits, and starts the clock; and otherwise it does what the write of its register does, a write of a datapath
register being a start cause of the clock in its cycle. The control path may
write neither the security block nor the lees window, and while HOST_LOCK is 1 no target of control messages. -/
def Obligations.RegisterWriteForms : Prop :=
  ∀ (s : State) (p : Path) (off : BitVec 24) (v : Word),
    let o := off.toNat
    inLatch o = false → startsSeq o v = false →
    (portsReady s.blk = false → ∀ z, Machine.exec (.registerWrite p off z v) s = .next (s.after id)) ∧
    (portsReady s.blk = true → ∀ z, (z = false ∨ o % 8 ≠ 0) →
      Machine.exec (.registerWrite p off z v) s = .next (s.after fun b =>
        { b with evt := { b.evt with ctlIgnored := b.evt.ctlIgnored + 1 } })) ∧
    (portsReady s.blk = true → o % 8 = 0 → mayWrite s.blk p o = false →
      Machine.exec (.registerWrite p off true v) s = .next (s.after id)) ∧
    (portsReady s.blk = true → o % 8 = 0 → mayWrite s.blk p o = true → (Reg.ofOffset o).dp = true →
      (Reg.ofOffset o).known = true → s.blk.pwr.dp ≠ .running →
      Machine.exec (.registerWrite p off true v) s = .next (s.after fun b => startClock { b with pwr := { b.pwr with
        heldWrites := b.pwr.heldWrites ++ [{ path := p, off := o, val := v }] } })) ∧
    (s.blk.Writable p o → o % 8 = 0 →
      Machine.exec (.registerWrite p off true v) s = .next (s.afterWrite o fun b => (writeReg p s.lees (Reg.ofOffset o) v b).2)) ∧
    ((Reg.ofOffset o).dp = true → (Reg.ofOffset o).known = true → kickAt o s.blk = { s.blk with kicked := true }) ∧
    (((Reg.ofOffset o).dp = false ∨ (Reg.ofOffset o).known = false) → kickAt o s.blk = s.blk) ∧
    (∀ n, 0xC0000 ≤ n → n < 0xD0000 → (mayWrite s.blk p n = true ↔ p = .rot)) ∧
    (∀ n, 0x200000 ≤ n → n < 0x400000 → mayWrite s.blk p n = false) ∧
    (s.blk.fm.hostLock = true → ∀ n, fmTarget n = true → mayWrite s.blk .control n = false)

/-! ### Sequencer control (02) -/

/-- LOAD of an IDLE sequencer whose owning context is bound and RUNNING is accepted: the sequencer is LOADING,
LOAD_STATUS reads NOT_READY, and the load takes its place behind those accepted before it, the first of them beginning
at once. A sequencer in another state refuses it with BUSY_ACTIVE, and one whose context may not run with ACCESS. The
load in progress ends when all it needs is read: a program that fits is LOADED with its engines, instances, group
claims and slot bytes reserved and its registers cleared; one refused leaves the sequencer IDLE with REFUSED_FIT, the
detail and the word, and reserves nothing; then the next load begins. The drain of an UNLOAD ends when nothing of the
program is open: the sequencer is IDLE and its reservations are released. The model's choices: DETAIL and WORD cleared
at acceptance (log 45), what an UNLOAD waits for (log 46). -/
def Obligations.LoadsAreTakenAndEnd : Prop :=
  (
  ∀ (s : State) (p : Path) (q : SeqId), s.blk.Writable p (0x50010 + 0x400 * q.val) →
    let x := s.blk.seq q
    let taken (b : Block) : Block :=
      let b := b.modSeq q fun y => { y with
        st := .loading, loadCount := y.loadCount + 1, loadStatus := 0x06, loadDetail := 0, loadWord := 0 }
      { b with loader := { b.loader with queue := b.loader.queue ++ [q.val] } }
    (x.st = .idle → x.ownerValid = true → (s.blk.ctx x.owner).st = .running → s.blk.loader.queue = [] →
      Machine.exec (.seqLoad p q) s = .next (s.afterWrite (0x50010 + 0x400 * q.val) fun b => loaderBegin (taken b))) ∧
    (x.st = .idle → x.ownerValid = true → (s.blk.ctx x.owner).st = .running → s.blk.loader.queue ≠ [] →
      Machine.exec (.seqLoad p q) s = .next (s.afterWrite (0x50010 + 0x400 * q.val) taken)) ∧
    (x.st ≠ .idle → Machine.exec (.seqLoad p q) s = .next (s.afterWrite (0x50010 + 0x400 * q.val) fun b => b.modSeq q fun y => { y with ctrlStatus := 0x02 })) ∧
    (x.st = .idle → (x.ownerValid = false ∨ (s.blk.ctx x.owner).st ≠ .running) →
      Machine.exec (.seqLoad p q) s = .next (s.afterWrite (0x50010 + 0x400 * q.val) fun b => b.modSeq q fun y => { y with ctrlStatus := 0x08 }))) ∧
  (
  ∀ (s : State) (q : SeqId),
    let ended (b : Block) : Block :=
      let b := { b with loader := { b.loader with queue := b.loader.queue.drop 1, grans := [], asked := [] } }
      if b.loader.queue.isEmpty then b else loaderBegin b
    (∀ d w, s.start.loader.queue.head? = some q.val → loadRead s.start q = true → loadChecks s.start q = .refused d w →
      Machine.exec (.loadChecksEnd q) s = .next (s.after fun b => ended (b.modSeq q fun x =>
        { x with st := .idle, loadStatus := 0x07, loadDetail := BitVec.ofNat 8 d, loadWord := BitVec.ofNat 16 w }))) ∧
    (∀ ws cl sb n, s.start.loader.queue.head? = some q.val → loadRead s.start q = true → loadChecks s.start q = .fits ws cl sb n →
      Machine.exec (.loadChecksEnd q) s = .next (s.after fun b => ended ((takeProgram q ws cl sb n b).modSeq q fun x =>
        { x with loadStatus := 0x00, loadDetail := 0, loadWord := 0 }))) ∧
    ((s.blk.seq q).st = .halted → (s.blk.seq q).draining = true → programQuiet s.start q = true →
      Machine.exec (.unloadDrainDone q) s = .next (s.after (releaseProgram q))) ∧
    (∀ b ws cl sb n, ((takeProgram q ws cl sb n b).seq q).words = ws ∧ ((takeProgram q ws cl sb n b).seq q).pc = 0 ∧
      ((takeProgram q ws cl sb n b).seq q).g = [] ∧ ((takeProgram q ws cl sb n b).seq q).groups = cl.map (fun c => c.1) ∧
      ((takeProgram q ws cl sb n b).seq q).slotBytes = sb) ∧
    (∀ b, ((releaseProgram q b).seq q).st = .idle ∧ ((releaseProgram q b).seq q).words = [] ∧
      ((releaseProgram q b).seq q).engines = [] ∧ ((releaseProgram q b).seq q).slotBytes = 0))

/-- START runs a LOADED or HALTED sequencer that does not drain, of a context neither frozen nor resetting, from its
PC; the program's first START also sends the first credits of its groups. In another state, or draining, it is refused
with BUSY_ACTIVE; under a frozen context with ACCESS; in the cycle of a STOP to the same sequencer with BUSY_ACTIVE.
STOP halts a sequencer that runs or waits, at once where it waits before issue, at a FENCE or at a WAIT, and when the
result is written where it waits after issue; in another state it changes nothing and reads OK. UNLOAD of a LOADED or
HALTED sequencer starts its drain; of one that drains already it changes nothing; in another state it is BUSY_ACTIVE.
The model's choices: what lies in a STOP's cycle (log 90), and what a START and a halt clear (log 49). -/
def Obligations.StartStopAndUnload : Prop :=
  (
  ∀ (s : State) (p : Path) (q : SeqId), s.blk.Writable p (0x50010 + 0x400 * q.val) →
    let x := s.blk.seq q
    let frozen := x.ownerValid = true ∧ ((s.blk.ctx x.owner).st = .frozen ∨ (s.blk.ctx x.owner).st = .resetting)
    (s.blk.stopped ≠ some q → ¬ frozen → (x.st = .loaded ∨ x.st = .halted) → x.draining = false →
      Machine.exec (.seqStart p q) s = .next (s.afterStart q fun b =>
        let b := traceEvent 3 0 0 x.tag q x.owner.val 0 x.pc.toNat (b.modSeq q fun y =>
          { y with st := .running, started := true, stopPending := false, ctrlStatus := 0x00 })
        compatBoundary s.lees q (if x.started then b else b.each x.groups (firstCredits q)))) ∧
    (s.blk.stopped ≠ some q → ¬ frozen → ((x.st ≠ .loaded ∧ x.st ≠ .halted) ∨ x.draining = true) →
      Machine.exec (.seqStart p q) s = .next (s.afterStart q fun b => b.modSeq q fun y => { y with ctrlStatus := 0x02 })) ∧
    (s.blk.stopped ≠ some q → frozen →
      Machine.exec (.seqStart p q) s = .next (s.afterStart q fun b => b.modSeq q fun y => { y with ctrlStatus := 0x08 })) ∧
    (s.blk.stopped = some q →
      Machine.exec (.seqStart p q) s = .next (s.afterStart q fun b => b.modSeq q fun y => { y with ctrlStatus := 0x02 }))) ∧
  (
  ∀ (s : State) (p : Path) (q : SeqId), s.blk.Writable p (0x50010 + 0x400 * q.val) →
    let x := s.blk.seq q
    let status (v : Byte) (b : Block) : Block := b.modSeq q fun y => { y with ctrlStatus := v }
    let stop (b : Block) : Block := { status 0x00 b with stopped := some q }
    ((x.st = .running ∨ x.st = .waiting) → x.hold ≠ .result → x.hold ≠ .watch →
      Machine.exec (.seqStop p q) s = .next (s.afterWrite (0x50010 + 0x400 * q.val) fun b =>
        dropHolding q ((stop b).modSeq q fun y => { y with st := .halted, hold := .none }))) ∧
    ((x.st = .running ∨ x.st = .waiting) → (x.hold = .result ∨ x.hold = .watch) →
      Machine.exec (.seqStop p q) s = .next (s.afterWrite (0x50010 + 0x400 * q.val) fun b => (stop b).modSeq q fun y => { y with stopPending := true })) ∧
    (x.st ≠ .running → x.st ≠ .waiting → Machine.exec (.seqStop p q) s = .next (s.afterWrite (0x50010 + 0x400 * q.val) stop)) ∧
    ((x.st = .loaded ∨ (x.st = .halted ∧ x.draining = false)) →
      Machine.exec (.seqUnload p q) s = .next (s.afterWrite (0x50010 + 0x400 * q.val) fun b => status 0x00 (dropHolding q (b.modSeq q fun y =>
        { y with st := .halted, draining := true, faultValid := false, faultPc := 0, faultStatus := 0 })))) ∧
    (x.st = .halted → x.draining = true → Machine.exec (.seqUnload p q) s = .next (s.afterWrite (0x50010 + 0x400 * q.val) (status 0x00))) ∧
    (x.st ≠ .loaded → x.st ≠ .halted → Machine.exec (.seqUnload p q) s = .next (s.afterWrite (0x50010 + 0x400 * q.val) (status 0x02))))

/-! ### Tallies (02) -/

/-- One cycle of the tally unit, while the datapath clock runs. Increments that it must discard are counted for their
contexts; when the rest name at most four tallies, each is added to its tally's COUNT, modulo 2^63, with ERROR sticky,
and the WAITs that a new value satisfies go on; none is left. An increment is discarded when its context is not bound,
not RUNNING, or of another partition than its sender. That discards take no place of the four, and are counted at
once, is the model's choice (log 47). -/
def Obligations.TallyUpdateAppliesIncrements : Prop :=
  (∀ s : State, s.blk.pwr.dp = .running →
    let good := s.blk.tally.incs.filter fun i => !incrRefused s.blk i
    let keys := (good.map incrKey).eraseDups
    keys.length ≤ 4 →
    Machine.exec .tallyUpdate s = .next (s.after fun b =>
      let b := b.each (b.tally.incs.filter (incrRefused b)) fun i b => b.modCtx i.ctx fun x => { x with dropped := x.dropped + 1 }
      let b := { b with
        tally := { tallies := good.foldl (fun t i => tmod 0 t (incrKey i) fun v => addIncr v i) b.tally.tallies, incs := [] }
        util := { b.util with tallyIncrements := b.util.tallyIncrements + w64 good.length } }
      b.each keys wakeWaits)) ∧
  (∀ (v : Word) (i : Incr), (addIncr v i).toNat % 2 ^ 63 = (v.toNat % 2 ^ 63 + i.amount) % 2 ^ 63 ∧
    bitAt (addIncr v i) 63 = (bitAt v 63 || i.err)) ∧
  (∀ (b : Block) (i : Incr), incrRefused b i = true ↔
    (b.ctx i.ctx).st ≠ .running ∨ (b.ctx i.ctx).valid = false ∨ ∃ p, i.part = some p ∧ (b.ctx i.ctx).part.val ≠ p) ∧
  (∀ (s : State), s.blk.pwr.dp ≠ .running → Machine.exec .tallyUpdate s = .next (s.after id))

/-! ### The portal (04) -/

/-- What becomes of a tile request that is presented while the datapath clock runs. One whose context is not bound or
not RUNNING is answered ACCESS; one that waits behind an earlier one of its requester, or finds no tag, is held on the
port. Otherwise it takes the lowest free tag and is counted: one with an error of its own freezes its context with
cause 1, one of a partition without a CURRENT slot with cause 6 and KEY_RETIRED; any other holds its key, is metered
where a TLB shows that its home is another node (log 96; a red one at a DROP meter is refused), and goes to
translation at once, or after the open fence before it. A tile request presented while the datapath clock does not run
is latched when it is the first of its channel, and the clock starts; a further one is held. A request's own errors
are those of its size, its alignment, its mask, its operation and its hint. A request goes on to translation unless an
earlier fence of its requester is open. The order of the checks and the tag of a refused request are the model's
choices (log 25). -/
def Obligations.TileRequestsAreTaken : Prop :=
  (
  ∀ (s : State) (r : TileReq), s.blk.pwr.dp = .running →
    let c := r.hdr.ctx.val
    let exec (s : State) := match r.kind with
      | .load size => Machine.exec (.tileLoad r.ch r.hdr size) s
      | .store mask data t => Machine.exec (.tileStore r.ch r.hdr mask data t) s
      | .atomic aop ty res opnd cmp t => Machine.exec (.tileAtomic r.ch r.hdr aop ty res opnd cmp t) s
      | .signal amount t => Machine.exec (.tileSignal r.ch r.hdr amount t) s
      | .fenceLocal => Machine.exec (.fenceLocal r.ch r.hdr) s
      | .fenceRemote => Machine.exec (.fenceRemote r.ch r.hdr) s
    let fence := r.kind = .fenceLocal ∨ r.kind = .fenceRemote
    let tag := tileTag s.blk
    let va : Word := match r.kind with
      | .fenceLocal | .fenceRemote => 0
      | _ => r.hdr.va.setWidth 64
    let serves := (s.blk.ctx c).valid = true ∧ (s.blk.ctx c).st = .running
    let taken (key : Option Nat) (b : Block) : Block :=
      { b with
        util := { b.util with portalRequests := b.util.portalRequests + 1 }
        portal := { b.portal with reqs := b.portal.reqs ++
          [{ tag, src := .tile r.ch r.hdr.txn r.hdr.rid, ctx := c, part := (b.ctx c).part, op := (tileOp r).1, va,
             hint := r.hdr.hint, dt := (tileOp r).2, gd := 0, stage := .fenced, key, weight := false, node := 0, off := 0, dctx := 0 }] }
        ctxs := tmod {} b.ctxs c fun x => { x with tagsHeld := x.tagsHeld + 1 } }
    (heldBefore s.blk r = true → exec s = .next (s.after (holdTile r))) ∧
    (serves → tagFree s.blk c = false → exec s = .next (s.after (holdTile r))) ∧
    (heldBefore s.blk r = false → ¬ serves → exec s = .next (s.after fun b => pushResp r.ch r.hdr.txn none .access 0
      { b with util := { b.util with portalRequests := b.util.portalRequests + 1 } })) ∧
    (heldBefore s.blk r = false → serves → tagFree s.blk c = true →
      (∀ k, ¬ fence → tileBad r = false → currentSlot s.blk (s.blk.ctx c).part.val = some k →
        exec s = .next (s.after fun b => meterTile tag (refSlot k (taken (some k) b)))) ∧
      (¬ fence → tileBad r = false → currentSlot s.blk (s.blk.ctx c).part.val = none →
        exec s = .next (s.after fun b => portalFail tag .keyRetired 6 0xFF (taken none b))) ∧
      (tileBad r = true →
        exec s = .next (s.after fun b => portalFail tag .access 1 (r.hdr.rid.toNat % 64) (taken none b))) ∧
      (fence → tileBad r = false → exec s = .next (s.after fun b => portalGo tag (taken none b))))) ∧
  (
  (∀ (s : State) (ch : Chan) (h : TileHdr) (size : BitVec 3), s.blk.pwr.dp ≠ .running →
    let r : TileReq := { ch, hdr := h, kind := .load size }
    ((s.blk.portal.latched.any fun x => x.ch == ch) = true → Machine.exec (.tileLoad ch h size) s = .next (s.after (holdTile r))) ∧
    ((s.blk.portal.latched.any fun x => x.ch == ch) = false → Machine.exec (.tileLoad ch h size) s =
      .next (s.after fun b => startClock { b with portal := { b.portal with latched := b.portal.latched ++ [r] } }))) ∧
  (∀ b, b.pwr.dp = .stopped → (startClock b).pwr.dp = .starting ∧ (startClock b).pwr.dpStarts = b.pwr.dpStarts + 1) ∧
  (∀ (b : Block) (r : PReq), b.req r.tag = some r → (∀ k, r.op ≠ .fence k) →
    portalGo r.tag b = if (earlierReqs b r).any (fun x => isFence x && x.stage != .done) then b else portalXlat r.tag b) ∧
  (∀ (b : Block) (r : PReq), b.req r.tag = some r →
    (knownHome b r = none ∨ knownHome b r = some b.route.self.toNat ∨ isFence r = true → meterTile r.tag b = portalGo r.tag b) ∧
    (∀ n b', knownHome b r = some n → n ≠ b.route.self.toNat → isFence r = false →
      (∀ q, meterPacket (ctxQueue r.ctx 0) (48 + (reqPacket r).2.2.length) b = (.queue q, b') →
        meterTile r.tag b = portalGo r.tag (b'.modReq r.tag fun r => { r with queued := some q })) ∧
      (∀ m, meterPacket (ctxQueue r.ctx 0) (48 + (reqPacket r).2.2.length) b = (.red m, b') →
        meterTile r.tag b = finishReq r.tag .notReady 0 (b'.modMeter m fun mt => { mt with refused := mt.refused + 1 })))) ∧
  (∀ (ch : Chan) (h : TileHdr), tileBad { ch, hdr := h, kind := .fenceLocal } = decide (h.hint = 3) ∧
    tileBad { ch, hdr := h, kind := .fenceRemote } = decide (h.hint = 3)) ∧
  (∀ (ch : Chan) (h : TileHdr) (size : BitVec 3), tileBad { ch, hdr := h, kind := .load size } = true ↔
    h.hint = 3 ∨ 6 < size.toNat ∨ h.va.toNat % 2 ^ size.toNat ≠ 0) ∧
  (∀ (ch : Chan) (h : TileHdr) (n : BitVec 16) (t : TileTally), tileBad { ch, hdr := h, kind := .signal n t } = true ↔
    h.hint = 3 ∨ n = 0))

/-- A held request is taken when its context can take a tag: contexts in turn after the last one served, and of one
context the oldest. A response taken frees its tag; a fence whose condition holds is answered OK, and what waited
behind it goes on. -/
def Obligations.HeldRequestsFencesAndResponses : Prop :=
  ∀ s : State,
    (∀ (r : TileReq) (before after : List TileReq), s.blk.pwr.dp = .running →
      s.blk.portal.heldReqs = before ++ r :: after →
      (∀ x ∈ before, x.hdr.ctx ≠ r.hdr.ctx) → canAccept s.blk r = true →
      (∀ i < 16, (s.blk.portal.rr + i) % 16 = r.hdr.ctx.val → ∀ j < i,
        ∀ x ∈ s.blk.portal.heldReqs, x.hdr.ctx.val ≠ (s.blk.portal.rr + j) % 16) →
      Machine.exec .portalHeldAccept s = .next (s.after fun b => acceptTile r { b with portal := { b.portal with
        heldReqs := before ++ after, rr := (r.hdr.ctx.val + 1) % 16 } })) ∧
    (∀ (r : PResp), s.blk.portal.resps.find? (fun x => x.ch == r.ch && x.txn == r.txn) = some r →
      Machine.exec (.portalResponseTaken r.ch r.txn) s = .next (s.after fun b =>
        let b := { b with portal := { b.portal with resps := b.portal.resps.filter fun x => x != r } }
        match r.tag with
        | some t => freeTag t b
        | none => b)) ∧
    (∀ (tag : Fin 16384) (r : PReq), s.blk.req tag.val = some r → isFence r = true → r.stage ≠ .done →
      fenceDone s.start r = true →
      Machine.exec (.portalFenceComplete tag) s = .next (s.after fun b =>
        (finishReq tag.val .ok 0 b).each (((b.portal.reqs.dropWhile fun x => x.tag != tag.val).drop 1).filter fun x =>
          sameRequester x r && x.stage == .fenced) fun x b => portalGo x.tag b)) ∧
    (∀ (b : Block) (r : PReq), r.op = .fence true → (fenceDone b r = true ↔ ∀ x ∈ earlierReqs b r, x.stage = .done))

/-! ### Packets that arrive (11) -/

/-- The checks of Table 11.7 in their order, on the oldest packet of a VC in a strait's ingress buffer, of each TYPE. A
HEAD flit that the cellar cannot correct ends the packet. A malformed one is counted in ROUTE.MALFORMED, one of an OPEN
bank in ROUTE.STALE_EPOCH with its bit and source, one for another node goes on in a torus and is counted in
ROUTE.MISDELIVERED elsewhere: for these three its HEAD flit is enough. One for this node waits for its last flit; then
one whose source is no member of the partition, one that names no key, and one whose tag fails are strangers 2, 1 and
0. Each leaves its ingress buffer, but one that is forwarded, which leaves it as it is sent on. The tag is that of
AES-256-GCM under the key that the packet names, over its encrypted bytes and its header with the mutable fields 0
(R393, R394); a BODY flit that the cellar cannot correct poisons the packet. -/
def Obligations.PacketsAreCheckedInOrder : Prop :=
  (∀ (s : State) (n : StraitId) (vc : Vc) (hits : List Nat) (acc : Bool),
    let b := s.blk
    let run (ty : Nat) (f : Block → Block) : Prop :=
      (ty = tyRead → Machine.exec (.packetRead ⟨n, vc, hits, acc⟩) s = .next (s.after f)) ∧
      (ty = tyWrite → Machine.exec (.packetWrite ⟨n, vc, hits, acc⟩) s = .next (s.after f)) ∧
      (ty = tyAtomic → Machine.exec (.packetAtomic ⟨n, vc, hits, acc⟩) s = .next (s.after f)) ∧
      (ty = tySignal → Machine.exec (.packetSignal ⟨n, vc, hits, acc⟩) s = .next (s.after f)) ∧
      (ty = tyForward → Machine.exec (.packetForward ⟨n, vc, hits, acc⟩) s = .next (s.after f)) ∧
      (ty = tyData → Machine.exec (.packetData ⟨n, vc, hits, acc⟩) s = .next (s.after f)) ∧
      (ty = tyResp → Machine.exec (.packetResp ⟨n, vc, hits, acc⟩) s = .next (s.after f)) ∧
      (ty = tyColl → Machine.exec (.packetColl ⟨n, vc, hits, acc⟩) s = .next (s.after f)) ∧
      (ty = tyControl → Machine.exec (.packetControl ⟨n, vc, hits, acc⟩) s = .next (s.after f)) ∧
      (typeOk ty = false → Machine.exec (.malformedPacket ⟨n, vc, hits, acc⟩) s = .next (s.after f))
    (nextIn b n vc.val = none → ∀ ty, run ty id) ∧
    (∀ p, nextIn b n vc.val = some p →
      let a := readIn b n vc p hits acc
      let ty := rType p.route
      (hits.contains 0 = true → run ty fun b => headPoisoned n vc.val (cellarHit 0 (releaseIngress n p.id b))) ∧
      (hits.contains 0 = false →
        let here := p.complete = true ∧ rDst p.route = b.route.self.toNat
        let struck : Bool := p.complete && decide (rDst p.route = b.route.self.toNat) && hits.any fun i => decide (i < p.need)
        let read (b : Block) : Block := if struck then cellarHit 0 b else b
        let go (f : Block → Block) : Prop := run ty fun b => f (read b)
        let free (f : Block → Block) (b : Block) : Block := releaseIngress n p.id (f b)
        let opened := (b.bank (rEpoch p.route).toNat).st = .opened
        let mine := malformed p.route a.op = false ∧ ¬ opened ∧ here ∧ ty ≠ tyControl
        let member := isMember b (rPart p.route) (rSrc p.route) = true
        let slot := matchSlot b (rWeight p.route) (rKey p.route) (rPart p.route)
        (malformed p.route a.op = true → go (free fun b => { b with route := { b.route with malformed := b.route.malformed + 1 } })) ∧
        (malformed p.route a.op = false → opened → go (free (staleArrival (rSrc p.route) (rEpoch p.route)))) ∧
        (malformed p.route a.op = false → ¬ opened → rDst p.route ≠ b.route.self.toNat →
          ((b.bank (rEpoch p.route).toNat).torus = true → go (forwardPacket a)) ∧
          ((b.bank (rEpoch p.route).toNat).torus = false → go (free fun b =>
            { b with route := { b.route with misdelivered := b.route.misdelivered + 1 } }))) ∧
        (malformed p.route a.op = false → ¬ opened → rDst p.route = b.route.self.toNat → p.complete = false → run ty id) ∧
        (mine → ¬ member → go (free (stranger 2 p.route))) ∧
        (mine → member → slot = none → go (free (stranger 1 p.route))) ∧
        (mine → member → slot ≠ none → a.tagOk = false → (ty = tyData → a.psn = false) → ty ≠ tyColl →
          go (free (stranger 0 p.route))) ∧
        (mine → member → slot ≠ none → a.tagOk = true → a.psn = false → ty ≠ tyColl → extOk a.ext = false →
          go (free fun b => { b with route := { b.route with malformed := b.route.malformed + 1 } }))))) ∧
  (∀ (b : Block) (n : StraitId) (vc : Vc) (p : InPkt) (hits : List Nat) (hit : Bool),
    let a := readIn b n vc p hits hit
    let body := ((p.flits.flatMap fun f => natBytes 120 f.1.toNat).drop 48).take
      (rLen p.route + (if rType p.route = tyData ∧ opCsv a.op = true then 8 else 0))
    let iv := natBytes 1 0 ++ natBytes 2 (rSrc p.route) ++ natBytes 3 0 ++ natBytes 6 (rNonce p.route)
    a.route = p.route ∧ a.id = p.id ∧
    (a.psn = true ↔ (∃ f ∈ p.flits, f.2 = true) ∨ ∃ i ∈ hits, i ≠ 0 ∧ i < p.need) ∧
    (∀ k, rType p.route ≠ tyControl → matchSlot b (rWeight p.route) (rKey p.route) (rPart p.route) = some k →
      a.tagOk = (gcmTag (b.slot k).key iv (packetAad p.route a.op) body == a.tag) ∧
      a.payload = (gcmText (b.slot k).key iv body).take (rLen p.route)) ∧
    (rType p.route = tyControl → a.payload = body.take (rLen p.route)))

/-- A packet that passes the checks, by its TYPE: its key's slot is held for the answer, it leaves its buffer, a MATCH
record is offered, and its home takes it. A RESP that answers nothing held is counted in LATE; a CONTROL packet of a
source that may send it takes a place in the control queue, or is counted dropped when that is full; every other one
is counted rejected. -/
def Obligations.AcceptedPacketsTakeEffect : Prop :=
  ∀ (s : State) (n : StraitId) (vc : Vc) (acc : Bool) (p : InPkt) (k : Nat),
    let b := s.blk
    let a := readIn b n vc p [] acc
    let ty := rType p.route
    nextIn b n vc.val = some p → p.complete = true → malformed p.route a.op = false →
    (b.bank (rEpoch p.route).toNat).st ≠ .opened → rDst p.route = b.route.self.toNat →
    let free (f : Block → Block) (b : Block) : Block := releaseIngress n p.id (f b)
    let taken : Block → Block := free (matchPacket true n vc.val p.route p.phy)
    (isMember b (rPart p.route) (rSrc p.route) = true → matchSlot b (rWeight p.route) (rKey p.route) (rPart p.route) = some k →
      a.tagOk = true → a.psn = false → extOk a.ext = true →
      (ty = tyRead → Machine.exec (.packetRead ⟨n, vc, [], acc⟩) s = .next (s.after fun b => takeRead a k (refSlot k (taken b)))) ∧
      (ty = tyWrite → Machine.exec (.packetWrite ⟨n, vc, [], acc⟩) s = .next (s.after fun b => takeWrite a k (refSlot k (taken b)))) ∧
      (ty = tyAtomic → Machine.exec (.packetAtomic ⟨n, vc, [], acc⟩) s = .next (s.after fun b => takeAtomic a k (refSlot k (taken b)))) ∧
      (ty = tyForward → Machine.exec (.packetForward ⟨n, vc, [], acc⟩) s = .next (s.after fun b => takeForward a k (refSlot k (taken b)))) ∧
      (ty = tyData → Machine.exec (.packetData ⟨n, vc, [], acc⟩) s = .next (s.after fun b => takeData a k (refSlot k (taken b)))) ∧
      (ty = tySignal → Machine.exec (.packetSignal ⟨n, vc, [], acc⟩) s = .next (s.after fun b => takeSignal a k (taken b))) ∧
      (ty = tyColl → Machine.exec (.packetColl ⟨n, vc, [], acc⟩) s = .next (s.after fun b =>
        takeColl a (matchPacket true n vc.val p.route p.phy b))) ∧
      (ty = tyResp → respHeld (taken s.start) p.route a.op = true →
        Machine.exec (.packetResp ⟨n, vc, [], acc⟩) s = .next (s.after fun b => takeResp p.route a.op a.payload (taken b))) ∧
      (ty = tyResp → respHeld (taken s.start) p.route a.op = false →
        Machine.exec (.packetResp ⟨n, vc, [], acc⟩) s = .next (s.after fun b =>
          (taken b).modCtx (rDctx p.route) fun x => { x with late := x.late + 1 }))) ∧
    (ty = tyControl →
      let bad := a.psn = true ∨ (fmSources b).contains (rSrc p.route) = false ∨ ctlZeros p.route a.op a.tag = false ∨
        rLen p.route < 32 ∨ ctlOk (ctlMsg a) (rLen p.route) = false
      (bad → Machine.exec (.packetControl ⟨n, vc, [], acc⟩) s = .next (s.after (free fun b =>
        { b with fm := { b.fm with rejected := b.fm.rejected + 1 } }))) ∧
      (¬ bad → 64 ≤ b.fm.queue.length → Machine.exec (.packetControl ⟨n, vc, [], acc⟩) s = .next (s.after (free fun b =>
        { b with route := { b.route with controlDrops := b.route.controlDrops + 1 } }))) ∧
      (¬ bad → b.fm.queue.length < 64 → Machine.exec (.packetControl ⟨n, vc, [], acc⟩) s = .next (s.after (free fun b =>
        { b with fm := { b.fm with queue := b.fm.queue ++ [ctlMsg a] } }))))

/-- Check 10 of Table 11.7 asks in this order: the context is bound to the packet's partition and RUNNING; a SIGNAL
needs nothing more; a window of the context grants the access; no protected range that the access touches lacks its
weight key; and the range is not quarantined. A READ that passes reads its granule at the memory port and holds the
window; one that fails
is counted for its context when the status is ACCESS, and is answered with that status. -/
def Obligations.HomeAccessesAreChecked : Prop :=
  (∀ (b : Block) (part dctx acc off len : Nat) (slot : Option Nat),
    let x := b.ctx dctx
    let ok := x.valid = true ∧ x.part.val = part ∧ x.st = .running
    (¬ ok → check10 b part dctx acc off len slot none = .fail .access none) ∧
    (ok → acc = 3 → check10 b part dctx acc off len slot none = .pass 64) ∧
    (ok → acc ≠ 3 → windowFor b dctx acc off len = none → check10 b part dctx acc off len slot none = .fail .access none) ∧
    (∀ w j, ok → acc ≠ 3 → windowFor b dctx acc off len = some w → protectedBy b off len slot = some j →
      check10 b part dctx acc off len slot none = .fail .access (some j)) ∧
    (∀ w q, ok → acc ≠ 3 → windowFor b dctx acc off len = some w → protectedBy b off len slot = none →
      quarEntry b off = some q → check10 b part dctx acc off len slot none = .fail .dataPoison none) ∧
    (∀ w, ok → acc ≠ 3 → windowFor b dctx acc off len = some w → protectedBy b off len slot = none →
      quarEntry b off = none → check10 b part dctx acc off len slot none = .pass w)) ∧
  (∀ (b : Block) (a : Arrival) (k w : Nat),
    let o := remoteOp a k (.read (bits a.op 61 55)) (BitVec.ofNat 2 (bits a.op 54 53)) none
    check10 b o.part.val o.dctx 0 o.off (bits a.op 61 55) (some k) none = .pass w →
    takeRead a k b = memRead o.off o.hint (.home (b.home.nextId + 1)) { b with home := { b.home with
      nextId := b.home.nextId + 1, ops := b.home.ops ++ [{ o with
        window := w, left := 1, id := b.home.nextId + 1, wins := winRefs b o.dctx w }] } }) ∧
  (∀ (b : Block) (a : Arrival) (k : Nat) (st : Status) (prot : Option Nat),
    let o := remoteOp a k (.read (bits a.op 61 55)) (BitVec.ofNat 2 (bits a.op 54 53)) none
    check10 b o.part.val o.dctx 0 o.off (bits a.op 61 55) (some k) none = .fail st prot →
    takeRead a k b = sendResp (rSrc a.route % 2 ^ 13) (rSctx a.route) o.dctx (BitVec.ofNat 8 (rInc a.route))
      (BitVec.ofNat 16 (bits a.op 127 112)) o.part.val k st false false [] (countNack o.dctx st b)) ∧
  (∀ (b : Block) (a : Arrival) (k : Nat), bits a.op 127 126 = 2 →
    takeSignal a k b = enqueueIncr {
      ctx := rDctx a.route, idx := bits a.op 111 100
      amount := bits a.op 99 68 + bits a.op 67 60 * 2 ^ 32, err := bitAt a.op 59, part := some (rPart a.route), seq := none } b)

/-! ### Packets that leave, and the memory port (11, 17) -/

/-- The route word of a packet holds at formation the fields of Table 11.1, with HOPS 0; the operation words of READ,
masked and unmasked WRITE, ATOMIC and SIGNAL hold those of Table 11.3, each in its bits; a masked WRITE is 64 B
aligned and carries its mask before the granule; an ATOMIC carries COMPARE only for CAS. -/
def Obligations.RequestsCarryTheirFields : Prop :=
  (∀ f : RouteFields, f.type < 32 → f.dst < 2 ^ 13 → f.src < 2 ^ 13 → f.part < 4 → f.key < 256 → f.len < 2 ^ 13 →
    f.dctx < 16 → f.sctx < 16 → f.inc < 256 →
    let w := mkRoute f
    rType w = f.type ∧ rDst w = f.dst ∧ rSrc w = f.src ∧ rPart w = f.part ∧ rWeight w = f.weight ∧ rKey w = f.key ∧
      rPoison w = f.poison ∧ rLen w = f.len ∧ rDctx w = f.dctx ∧ rSctx w = f.sctx ∧ rInc w = f.inc ∧ rHops w = 0) ∧
  (∀ r : PReq, r.tag < 2 ^ 14 → r.off < 2 ^ 50 → (∀ i u, r.dt = some (i, u) → i < 4096) →
    let (ty, op, payload) := reqPacket r
    (∀ n, n < 128 → r.op = .read n → ty = tyRead ∧ bits op 127 112 = r.tag ∧ bits op 111 62 = r.off ∧ bits op 61 55 = n ∧
      bits op 54 53 = r.hint.toNat ∧ payload = []) ∧
    (∀ m d, r.op = .write m d → contiguous m = false → ty = tyWrite ∧ bits op 127 112 = r.tag ∧
      bits op 111 62 = r.off / 64 * 64 ∧ bitAt op 45 = true ∧ payload = natBytes 8 m.toNat ++ granBytes d) ∧
    (∀ m d, r.op = .write m d → contiguous m = true → ty = tyWrite ∧ bits op 127 112 = r.tag ∧
      bits op 111 62 = r.off / 64 * 64 + (maskSpan m).1 ∧ bitAt op 45 = false ∧
      payload = slice (granBytes d) (maskSpan m).1 (maskSpan m).2) ∧
    (∀ aop at' res opnd cmp, r.op = .atomic aop at' res opnd cmp → ty = tyAtomic ∧ bits op 127 112 = r.tag ∧
      bits op 111 62 = r.off ∧ bits op 61 59 = aop.toNat ∧ bits op 58 57 = at'.toNat ∧
      payload = natBytes 8 opnd.toNat ++ natBytes 8 (if aop = 4 then cmp.toNat else 0)) ∧
    (∀ n t i u, r.op = .signal n t → r.dt = some (i, u) → ty = tySignal ∧ bits op 127 112 = r.tag ∧
      bits op 111 100 = i ∧ bits op 99 68 = n.toNat ∧ payload = []))

/-- The memory port answers a request that is outstanding under its slice and tag; the tag is free again, what asked
for it goes on, and then the requests that waited. A READ's data goes to the loader, the walk, the home access, the
instance or the copy that asked; a poisoned READ of a home access enters the quarantine list and answers DATA_POISON,
a sound one answers OK with its bytes. A WRITE that is visible completes what wrote it, and an atomic that waited for
the granule reads it. An answer to no request changes nothing. -/
def Obligations.MemoryPortAnswersAreTaken : Prop :=
  (∀ (s : State) (slice : Fin 32) (tag : Fin 512) (poison : Bool) (data : Granule) (o : MemOut),
    memFind s.blk slice.val tag.val false = some o →
    let g := o.req.addr.toNat
    let done (f : Block → Block) : Prop :=
      Machine.exec (.memReadData slice tag poison data) s = .next (s.after fun b => memDrain (f (memDone o b)))
    (o.req.why = .loader → done (loaderGran g poison data)) ∧
    (∀ id, o.req.why = .walk id → done (walkRead id poison data)) ∧
    (∀ id, o.req.why = .home id → done (homeRead id g poison data)) ∧
    (∀ i k, o.req.why = .collRead i k → done (collGranule i k g poison data)) ∧
    (∀ id, o.req.why = .watchRead id → done (watchRead id g poison data))) ∧
  (∀ (s : State) (slice : Fin 32) (tag : Fin 512) (o : MemOut), memFind s.blk slice.val tag.val true = some o →
    let done (f : Block → Block) : Prop :=
      Machine.exec (.memWriteVisible slice tag) s = .next (s.after fun b =>
        memDrain (atomicNext o.req.addr.toNat (f (memDone o b))))
    (∀ id, o.req.why = .home id → done (homeVisible id)) ∧
    (∀ q, o.req.why = .crec q → done (crecVisible q)) ∧
    (∀ i, o.req.why = .ferryWrite i → done (ferryVisible i)) ∧
    (∀ a, o.req.why = .ackWord a → done (invFinish a)) ∧
    (∀ i k n u, o.req.why = .collWrite i k n u → done (collVisible i k n u)) ∧
    (∀ id, o.req.why = .watchWrite id → done (watchVisible id)) ∧
    (∀ n, o.req.why = .thief n → done (thiefVisible n))) ∧
  (∀ (s : State) (slice : Fin 32) (tag : Fin 512) (poison : Bool) (data : Granule),
    (memFind s.blk slice.val tag.val false = none →
      Machine.exec (.memReadData slice tag poison data) s = .next (s.after id)) ∧
    (memFind s.blk slice.val tag.val true = none → Machine.exec (.memWriteVisible slice tag) s = .next (s.after id))) ∧
  (∀ (b : Block) (id g n : Nat) (data : Granule) (o : HomeOp), b.homeOp id = some o → o.what = .read n →
    homeRead id g true data b = homeAnswer o .dataPoison 0 0 none (quarEnter o.off (dropHome id b)) ∧
    homeRead id g false data b = homeAnswer o .ok
      (BitVec.ofNat 512 (bits data (8 * (o.off % 64 + n) - 1) (8 * (o.off % 64)))) n none (dropHome id b)) ∧
  (∀ (b : Block) (id : Nat) (o : HomeOp), b.homeOp id = some o → o.what = .write → o.left ≤ 1 →
    homeVisible id b = homeAnswer o .ok 0 0 none (countDt o false (dropHome id b)))

/-! ### Chunks of bulk copies (05) -/

/-- CHUNK_ISSUE of a running engine, for a transfer under a partition key with no tile checksum and no maintenance
entry: the next chunk, cut at the next 4,096 B of the destination and 64 KiB of the source, is translated; once both
ends are, it is issued under the lowest free in-flight slot, LOCAL, PUSH, PULL or THIRD by where its source and
destination lie. A translation that waits holds it, one that faults fails the transfer. It waits, too, while RATE does
not let it go, and a LOCAL or PUSH chunk while the engine's 64 KiB buffer has no room for it; a transfer whose weight slot is gone is refused and freezes its context. The pace of RATE over time is
the model's choice (log 13). -/
def Obligations.ChunksAreIssuedByKind : Prop :=
  ∀ (s : State) (e : EngId) (x : Xfer) (k : Nat),
    let r := s.blk.rack e
    let len := chunkLen x.src.toNat x.dst.toNat x.issued x.len
    let src := x.src.toNat + x.issued
    let dst := x.dst.toNat + x.issued
    let asks := [(w64 src, 0), (w64 dst, 1)]
    let ready := r.run = some x ∧ r.st = .running ∧ x.stopped = false ∧ x.issued < x.len ∧ r.inflight.length < 128
    let plain := ready ∧ x.key = some k ∧ k < 12 ∧ x.maint = none ∧ checksummed s.blk x.ctx src len = false ∧
      checksummed s.blk x.ctx dst len = false ∧ src + len ≤ 2 ^ 57 ∧ dst + len ≤ 2 ^ 57
    let paced := len ≤ paceNow s.blk.time.loc x.rate r
    (∀ b' f t, plain → paced → translateAll e x.ctx asks s.start = (.ok [f, t], b') →
      let self := b'.route.self.toNat
      let kind : ChunkKind := if f.node = self then (if t.node = self then .locl else .push)
        else if t.node = self then .pull else .third
      (bufferFits b' e kind len = false → Machine.exec (.chunkIssue e) s = .next (s.after fun _ => b')) ∧
      (bufferFits b' e kind len = true → Machine.exec (.chunkIssue e) s = .next (s.after fun _ => issueChunk e
        { slot := lowestFree (r.inflight.map fun k => k.slot), kind, srcVa := w64 src, dstVa := w64 dst, len,
          srcNode := BitVec.ofNat 13 f.node, srcOff := f.off, srcCtx := f.dctx, dstNode := BitVec.ofNat 13 t.node,
          dstOff := t.off, dstCtx := t.dctx, cs := 0, sside := 0, dside := 0, grans := [], sum := 0, ingest := none } x b'))) ∧
    (∀ b', plain → paced → translateAll e x.ctx asks s.start = (.error none, b') →
      Machine.exec (.chunkIssue e) s = .next (s.after fun _ => b')) ∧
    (∀ b' va acc cause, plain → paced → translateAll e x.ctx asks s.start = (.error (some (va, acc, cause)), b') →
      Machine.exec (.chunkIssue e) s = .next (s.after fun _ => rackXlatFault e va acc cause b')) ∧
    (plain → ¬ paced → Machine.exec (.chunkIssue e) s = .next (s.after id)) ∧
    (ready → x.weight.isSome = true → x.key = none →
      Machine.exec (.chunkIssue e) s = .next (s.after fun b => xferFail e .access 3 e b)) ∧
    (r.run = none → Machine.exec (.chunkIssue e) s = .next (s.after id))

/-! ### Collectives (06, 07) -/

/-- COLL_CHUNK_START of an instance whose key is bound and whose next chunk has a free window position: its buffers
are placed, and its own data is read granule by granule, or there is none to read; granules of a quarantined range are
not read and count as poisoned. COLL_PIECE_SEND uses the credit of the counterpart up, and sends it the shard it is
due, cut into packets; without the credit nothing is sent. An uncorrectable error that strikes the piece diverges the
instance with cause 1 and poisons the piece. The model's choices: how a piece is cut at poison, when it is queued, and
what a quarantined source does (logs 35 and 36). -/
def Obligations.CollectiveChunksStartAndPiecesGo : Prop :=
  (∀ (s : State) (i : InstId) (g : Machine.Group),
    let x := s.start.inst i
    let k := x.next
    let src := sourceRange g x k
    let dst := if x.kind = kBroadcast ∧ x.gd = x.gs ∧ g.rank = x.root then (0, 0) else resultRange g x k
    let runs (r : List (Nat × Nat)) := r ++ sidecarRuns s.start x.ctx r
    let sr := runs (byteRuns g x false k src.1 src.2)
    let dr := runs (byteRuns g x true k dst.1 dst.2)
    groupOf s.start x.group = some g → instRuns x = true → x.kind ≠ 7 → k < x.chunksTotal → windowFree x g k = true → x.key.isSome = true →
    (∀ b1 b2 sp dp, placePages i.val 0 (pagesOf sr) s.start = (.ok sp, b1) → placePages i.val 1 (pagesOf dr) b1 = (.ok dp, b2) →
      let opened := modChunk i.val k (fun c => { c with src := sp, phase := .reading })
        ((openChunk i.val k b2).modInst i.val fun x => { x with next := x.next + 1 })
      let y := opened.inst i
      let places := placeRuns sp sr
      let bad := runsPoison opened y 0 places
      let good := places.filter fun r => !bad.contains r
      let badGs := placedGrans bad
      let gs := (placedGrans good).filter fun a => !badGs.contains a
      let placed := modChunk i.val k (fun c => { c with readBad := badGs, readLeft := gs.length }) opened
      (∀ c st prot, runsRefused opened y 0 good = some (c, st, prot) →
        Machine.exec (.collChunkStart i) s = .next (s.after fun _ => collRefused i.val c st prot opened)) ∧
      (runsRefused opened y 0 good = none →
        (gs ≠ [] → places ≠ [] → Machine.exec (.collChunkStart i) s = .next (s.after fun _ =>
          (beginUse (.coll i.val) (2 * k) y.ctx (placed.ctx y.ctx).gen placed).each gs fun a b =>
            memReadIn (runWins b y.ctx 0 y.key good a) (64 * a) hintStream (.collRead i k) b)) ∧
        (gs = [] → places ≠ [] → Machine.exec (.collChunkStart i) s = .next (s.after fun _ =>
          pressGo y.group (ownRead i.val k placed))) ∧
        (places = [] → Machine.exec (.collChunkStart i) s = .next (s.after fun _ =>
          pressGo y.group (gatherSteps i.val k (modChunk i.val k (fun c => { c with phase := .own }) placed)))))) ∧
    (∀ b1 f, placePages i.val 0 (pagesOf sr) s.start = (f, b1) → (∀ p, f ≠ .ok p) →
      Machine.exec (.collChunkStart i) s = .next (s.after fun _ => placeFault i.val 0 f b1))) ∧
  (∀ (s : State) (gid : Fin 1024) (sq : BitVec 32) (i k : Nat) (level : Fin 16) (member : Nat) (struck : Bool)
      (g : Machine.Group) (c : CollChunk) (ct : Contrib),
    let x := s.blk.inst i
    let node := g.peer level member
    let cr : Credit := { node, slot := x.sequence % g.slots, pos := k % g.window, level }
    instFor s.blk gid sq.toNat = some i → groupOf s.blk x.group = some g → chunkOf x k = some c →
    c.contribs.find? (fun ct => ct.level == level.val) = some ct →
    instRuns x = true → (g.others level).contains member = true → c.sent.contains (level.val, member) = false →
    (g.credits.contains cr = false → Machine.exec (.collPieceSend ⟨gid, sq, struck⟩ k level member) s = .next (s.after id)) ∧
    (g.credits.contains cr = true → Machine.exec (.collPieceSend ⟨gid, sq, struck⟩ k level member) s = .next (s.after fun b =>
      let b := b.modGroup x.group fun g => { g with credits := g.credits.erase cr }
      let b := modChunk i k (fun c => { c with sent := c.sent ++ [(level.val, member)] }) b
      let b := if struck then divergeInst i 1 k (cellarHit 1 b) else b
      let shard := memberShard g x k level member
      let most := if g.levels.head? == some level.val then packetInput x.ty else packetCarry x.ty x.carry
      let parts := (cutRuns most shard.1 shard.2).flatMap fun r => splitBad (if struck then [shard] else ct.poison) r.1 r.2
      let b := b.each (if parts.isEmpty then [(shard.1, 0, false)] else parts) fun r b =>
        let bytes := wireBytes g x c ct r.1 r.2.1
        instPacket i g node { seq := x.sequence, chunk := k, level, step := 0, elem := r.1, csv := false, low := formatOf x }
          r.2.2 (if r.2.2 then bytes.map fun _ => 0xFF else bytes) b
      pressGo x.group b)))

/-- Where the UP or DOWN ferry cell goes that is next on a strait, decrypted under the slot that it names: of an OPEN
bank it is stale; for another node it is forwarded in a torus and misdelivered elsewhere; from a node that is no member,
or under a key not held, it is a stranger. A copy whose tag fails, or that a cellar error strikes, has failed for the
instance that awaits it from a neighbour of the tree, and is a stranger otherwise. A good copy from a neighbour is
counted, and a second one is a duplicate; a first copy is accepted: an UP cell is added into the accumulator, a DOWN
cell is the result, and an error of the ferry store makes it poison. A good copy whose instance has ended is
discarded. A cell struck by a cellar error raises its event, and is not sent on. The model's choices are logs 37 and 93. -/
def Obligations.FerryCellsAreTaken : Prop :=
  ∀ (s : State) (n : StraitId) (hit store : Bool) (c : CellIn), cellOf s.blk n hit store = some c →
    let h := c.hdr
    let left (b : Block) : Block := if hit then cellarHit 0 (releaseIngress n c.id b) else releaseIngress n c.id b
    let k := (cEpoch h).toNat
    let opened := (s.blk.bank k).st = .opened
    let run (f : Block → Block) : Prop :=
      (cKind h = 0 → Machine.exec (.ferryCellUp ⟨n, hit, store⟩) s = .next (s.after f)) ∧
      (cKind h = 1 → Machine.exec (.ferryCellDown ⟨n, hit, store⟩) s = .next (s.after f))
    (opened → run fun b => staleArrival (cSrc h) (cEpoch h) (left b)) ∧
    (¬ opened → cDst h ≠ s.blk.route.self.toNat →
      (hit = true → run fun b => headPoisoned n 0 (left b)) ∧
      (hit = false → (s.blk.bank k).torus = true → run fun b => forwardCell c k (left b)) ∧
      (hit = false → (s.blk.bank k).torus = false → run fun b => { left b with route := { (left b).route with
        misdelivered := (left b).route.misdelivered + 1 } })) ∧
    (¬ opened → cDst h = s.blk.route.self.toNat →
      (isMember s.blk (cPart h) (cSrc h) = false → run fun b => cellStranger 2 h (left b)) ∧
      (isMember s.blk (cPart h) (cSrc h) = true → cellSlot s.blk h = none → run fun b => cellStranger 1 h (left b)) ∧
      (isMember s.blk (cPart h) (cSrc h) = true → (cellSlot s.blk h).isSome = true →
        ∀ g, groupOf s.blk (cGroup h) = some g →
          ((c.tagOk = false ∨ hit = true) →
            (∀ i, cellInst s.blk h = some i → fromNeighbour g h = true → (s.blk.inst i).st ≠ .ending →
              run fun b => copyFailed i h (left b)) ∧
            ((cellInst s.blk h = none ∨ fromNeighbour g h = false) → run fun b => cellStranger 0 h (left b))) ∧
          (c.tagOk = true → hit = false → (s.blk.ctx g.ctx).part.val = cPart h → ctxServes s.blk g.ctx = true →
            fromNeighbour g h = true →
            let good (b : Block) : Block := matchCell true n h c.phy (left b)
            (cellInst s.blk h = none → (cellEnded g h = true ∨ cKind h = 1) → run fun b => collDiscard (good b)) ∧
            (∀ i, cellInst s.blk h = some i → (s.blk.inst i).st = .running → (s.blk.inst i).issued = true →
              (hadCell (s.blk.inst i) h = true → run fun b =>
                { good b with ferry := { (good b).ferry with duplicates := (good b).ferry.duplicates + 1 } }) ∧
              (hadCell (s.blk.inst i) h = false → run fun b =>
                let b := good b
                let b := { b with ferry := { b.ferry with cellsIn := b.ferry.cellsIn + 1 } }
                let b := if store then divergeInst i 8 0 (b.modInst i fun x => { x with fpoison := true }) else b
                acceptCell i h c.payload (cPoison h) (if cPoison h then quietDiverge i b else b))))))

/-! ### The link layer (10) -/

/-- A good control flit of each TYPE on a strait that carries flits: what the decoder made of the stream, its ACK and
its XOFF mask are taken, and then it acts. A NAK of a held FSEQ starts a replay from it, another is counted stray; a
QUERY is answered with STATE; a DOZE_REQ that crosses one's own, or a DOZE_ACK to one's own, is agreed, so that the next
flit boundary takes the strait into QDOZE, and a DOZE_REQ that can be taken is answered with DOZE_ACK; CAL_REQ drains
this side's direction; RETRAIN_REQ is a link loss; IDLE, STATE and a flit of an undefined TYPE do no more. A TIME
message of a type that straits carry goes to the cellarers with its time stamp, and a Pdelay_Req is answered; the
servo's lock and source are free values (log 4), and so are the replies (log 5). The agreed timers are the smaller. -/
def Obligations.ControlFlitsAct : Prop :=
  ∀ (s : State) (n : StraitId) (rx : Rx) (flit : BitVec 1024) (x : Strait),
    ((s.blk.strait n).st = .up ∨ (s.blk.strait n).st = .drain) → rxFlit n rx (s.blk.strait n) = some (flit, false, x) →
    flitCrcOk flit = true → x.badRun < 8 → tKind (flitTrailer flit) = 2 →
    let taken (b : Block) : Block := refreshElig n ((takeAck n (flitTrailer flit) (b.modStrait n fun _ => x)).modStrait n fun y =>
      { y with txXoff := cfXoff flit })
    let agreed (b : Block) : Block := b.modStrait n fun y => { y with dozeGot := some (cfDeep flit, cfOff flit) }
    let ty := cfType flit
    (ty = cfIdle → Machine.exec (.idleFlit n rx.bits rx.parity) s = .next (s.after taken)) ∧
    (ty = cfState → Machine.exec (.stateFlit n rx.bits rx.parity) s = .next (s.after taken)) ∧
    (8 < ty → Machine.exec (.undefinedControlFlit n rx.bits rx.parity) s = .next (s.after taken)) ∧
    (ty = cfQuery → Machine.exec (.query n rx.bits rx.parity) s = .next (s.after fun b => queueCtrl n (ctl cfState) (taken b))) ∧
    (ty = cfNak → Machine.exec (.nak n rx.bits rx.parity) s = .next (s.after fun b =>
      let b := taken b
      let held := (b.strait n).replay
      if held.any fun h => h.fseq == cfNakSeq flit then
        startReplay n (held.takeWhile fun h => h.fseq != cfNakSeq flit).length (cfNakSeq flit) b
      else b.modStrait n fun x => { x with naksStray := x.naksStray + 1 })) ∧
    (ty = cfDozeReq → Machine.exec (.dozeReq n rx.bits rx.parity) s = .next (s.after fun b =>
      let b := taken b
      let y := b.strait n
      if y.st = .up ∧ (y.dozeSent ∨ y.ctrl.any isDoze) then agreed b
      else if dozeOk b n then agreed (queueCtrl n (dozeCtrl cfDozeAck y) b)
      else b)) ∧
    (ty = cfDozeAck → Machine.exec (.dozeAck n rx.bits rx.parity) s = .next (s.after fun b =>
      let b := taken b
      if (b.strait n).dozeSent ∧ (b.strait n).st = .up then agreed b else b)) ∧
    (ty = cfCalReq → Machine.exec (.calReq n rx.bits rx.parity) s = .next (s.after fun b =>
      let b := taken b
      if (b.strait n).st = .up ∧ !(b.strait n).peerDrain then rechooseAll n (b.modStrait n fun x => { x with peerDrain := true })
      else b)) ∧
    (ty = cfRetrainReq → Machine.exec (.retrainReq n rx.bits rx.parity) s = .next (s.after fun b =>
      let b := taken b
      if (b.strait n).st = .up then linkLoss n b else b)) ∧
    (∀ stamp, ty = cfTime → Machine.exec (.timeFlit n rx.bits rx.parity stamp) s = .next (s.after fun b =>
      let b := taken b
      let msg : BitVec 896 := BitVec.ofNat 896 (flit.toNat >>> 64)
      let w := Config.freeWord b.free
      let heard : Block :=
        { b.modStrait n fun x => { x with timeIn := (x.timeIn ++ [(msg, phyTime b n stamp)]).drop (x.timeIn.length - 7) } with
          free := b.free + 1
          time := { b.time with locked := bitAt w 0, srcValid := bitAt w 1, src := BitVec.ofNat 5 (bits w 6 2) } }
      if b.maint.lost = true ∨ msg.toNat % 16 ∉ [0x0, 0x2, 0x3, 0x8, 0xA] then b
      else if msg.toNat % 16 = 2 then
        queueCtrl n (timeCtrl 0xA (Config.timeReply (b.free + 2))) (queueCtrl n (timeCtrl 0x3 (Config.timeReply (b.free + 1)))
          { heard with free := b.free + 3 })
      else heard)) ∧
    (∀ a c, (minTimer false a c).toNat = min a.toNat c.toNat) ∧
    (∀ a c, minTimer true a c = if a = 0 ∨ c = 0 then 0 else minTimer false a c)

/-- What becomes of a flit in general: on a strait that is neither UP nor in DRAIN nothing, nor where the stream holds no
whole flit; 8 uncorrectable codewords in a row on an UP strait are a link loss; a flit that an uncorrectable codeword
covers, or whose CRC fails, is bad, and a NAK is due at the next flit boundary unless one is awaited. A good sequenced
flit is accepted when it is the one expected and its VC has room, and bad otherwise; one that finds its VC full is counted
as an overrun; one of the reserved KIND is bad. The model's choice: the ACK of a good flit counts though the flit is not
accepted (log 19). -/
def Obligations.FlitsAreAcceptedOrRefused : Prop :=
  ∀ (s : State) (n : StraitId) (rx : Rx) (stamp : Word),
    let carries := (s.blk.strait n).st = .up ∨ (s.blk.strait n).st = .drain
    let all (f : Block → Block) : Prop :=
      Machine.exec (.flitReceive n rx.bits ⟨rx.parity, stamp⟩) s = .next (s.after f) ∧
      Machine.exec (.idleFlit n rx.bits rx.parity) s = .next (s.after f) ∧ Machine.exec (.nak n rx.bits rx.parity) s = .next (s.after f)
    (¬ carries → all id) ∧
    (rxFlit n rx (s.blk.strait n) = none → all id) ∧
    (∀ flit bad x, carries → rxFlit n rx (s.blk.strait n) = some (flit, bad, x) →
      let good := flitCrcOk flit = true ∧ bad = false
      let counted (b : Block) : Block := b.modStrait n fun _ =>
        if flitCrcOk flit then x else { x with crcErrors := x.crcErrors + 1 }
      let t := flitTrailer flit
      let taken (b : Block) : Block := takeAck n t (b.modStrait n fun _ => x)
      (¬ good → 8 ≤ x.badRun → (s.blk.strait n).st = .up → all fun b => linkLoss n (counted b)) ∧
      (¬ good → (x.badRun < 8 ∨ (s.blk.strait n).st = .drain) → all fun b => badFlit n (counted b)) ∧
      (good → x.badRun < 8 → tKind t = 3 →
        Machine.exec (.flitReceive n rx.bits ⟨rx.parity, stamp⟩) s = .next (s.after fun b => badFlit n (taken b))) ∧
      (good → x.badRun < 8 → tKind t < 2 →
        Machine.exec (.flitReceive n rx.bits ⟨rx.parity, stamp⟩) s = .next (s.after fun b =>
          let b := taken b
          let full := clsBuffer (b.strait n).cls ≤ vcHeld (b.strait n) (tVc t)
          let b := b.modStrait n breakDoze
          let b := if full then b.modStrait n fun y => { y with fcOverruns := y.fcOverruns + 1 } else b
          if tFseq t ≠ (b.strait n).expected ∨ full then badFlit n b else acceptFlit n flit stamp b))) ∧
    (∀ b, (b.strait n).nakWait = true → badFlit n b = b) ∧
    (∀ b, (b.strait n).nakWait = false → badFlit n b = b.modStrait n fun y => { y with nakDue := true, nakWait := true })

/-- The timers of a strait. A NAK that goes unanswered is due again; the oldest held flit starts a replay; a mask
that stays off is asked for with QUERY; a strait idle for QUICK_IDLE that may doze offers it once, and an offer without
answer lapses; QDOZE deepens to DDOZE, and that to OFF unless the agreed OFF_IDLE is 0; a wake signal wakes a dozing
strait, which is UP when the wake is done and in RETRAIN when it takes too long; a lost signal is a link loss; a lane
whose corrected symbols rise beyond LANE_ALARM raises an event. That a timer's row comes when its time is over is log
6. -/
def Obligations.StraitTimersAct : Prop :=
  ∀ (s : State) (n : StraitId),
    let x := s.blk.strait n
    let carries := x.st = .up ∨ x.st = .drain
    let asleep := x.st = .qdoze ∨ x.st = .ddoze
    let quiet (b : Block) : Block := b.modStrait n fun y => { y with quiet := y.quiet || y.st == .up }
    (carries → x.nakWait = true → Machine.exec (.nakTimeout n) s = .next (s.after fun b =>
      b.modStrait n fun y => { y with nakDue := true, nakWait := true })) ∧
    (∀ h r, carries → x.replay = h :: r → Machine.exec (.replayTimeout n) s = .next (s.after (startReplay n 0 h.fseq))) ∧
    (x.replay = [] → Machine.exec (.replayTimeout n) s = .next (s.after id)) ∧
    (carries → x.txXoff ≠ 0 → Machine.exec (.xoffQueryTimeout n) s = .next (s.after (queueCtrl n (ctl cfQuery)))) ∧
    (x.st = .up → Machine.exec (.signalLoss n) s = .next (s.after (linkLoss n))) ∧
    (x.st ≠ .up → Machine.exec (.signalLoss n) s = .next (s.after id)) ∧
    (dozeOk (quiet s.start) n = true → x.dozeSent = false → x.dozeGot = none → (∀ c ∈ x.ctrl, isDoze c = false) →
      Machine.exec (.quickIdleExpiry n) s = .next (s.after fun b =>
        queueCtrl n (dozeCtrl cfDozeReq ((quiet b).strait n)) (quiet b))) ∧
    ((dozeOk (quiet s.start) n = false ∨ x.dozeSent = true ∨ x.dozeGot.isSome = true) →
      Machine.exec (.quickIdleExpiry n) s = .next (s.after quiet)) ∧
    (x.dozeSent = true → x.dozeGot = none → Machine.exec (.dozeReqLapse n) s = .next (s.after fun b =>
      b.modStrait n fun y => { y with dozeSent := false })) ∧
    (x.st = .qdoze → x.wake = .none → Machine.exec (.deepIdleExpiry n) s = .next (s.after (setState n .ddoze))) ∧
    (x.st = .ddoze → x.wake = .none → x.agreedOff ≠ 0 → Machine.exec (.offIdleExpiry n) s = .next (s.after (setState n .off))) ∧
    (x.agreedOff = 0 → Machine.exec (.offIdleExpiry n) s = .next (s.after id)) ∧
    (x.st.dozing = true → Machine.exec (.straitWake n) s = .next (s.after fun b => wakeStraits [n] (startClock b))) ∧
    (x.st.dozing = false → Machine.exec (.straitWake n) s = .next (s.after id)) ∧
    (asleep → x.wake = .waking → Machine.exec (.straitWakeDone n) s = .next (s.after (goUp n)) ∧
      Machine.exec (.wakeTimeout n) s = .next (s.after (linkLoss n))) ∧
    (∀ lane : Fin 5,
      let rise := tget 0 x.laneSymbols lane - tget 0 x.laneMark lane
      let marked (b : Block) : Block := b.modStrait n fun y => { y with laneMark := tset y.laneMark lane (tget 0 y.laneSymbols lane) }
      (x.laneAlarm.toNat < rise.toNat → Machine.exec (.laneAlarmSecond n lane) s = .next (s.after fun b =>
        raiseEvent 0x0B 0 0xFF n (w64 lane.val) rise (marked b))) ∧
      (rise.toNat ≤ x.laneAlarm.toNat → Machine.exec (.laneAlarmSecond n lane) s = .next (s.after marked)))

/-- How a strait comes up or fails. Signal on at least four lanes takes DETECT to TRAIN, once oe_ready is 1, and what the
stored settings hold for the strait comes into use. A training that completes with more bad lanes than it may have fails
the attempt. Else this side sends its parameters and takes the peer's: a peer that is not the one expected is MISWIRED,
a round trip too long FAILED (in RETRAIN either is a failed attempt), and otherwise the two exchange their resume
messages and the strait is UP, resumed where both epochs match and fresh where not, keeps its lane map in the stored
settings and reports it. A failed attempt in TRAIN is FAILED; in RETRAIN a third is, and one that is a causeway's failed
module initialisation. A calibration that passes resumes UP; one that does not, retrains. A drain ends once CAL_REQ has
gone, no packet is in progress and nothing is held. The model's choices are logs 18 and 99. -/
def Obligations.StraitsTrainAndFail : Prop :=
  ∀ (s : State) (n : StraitId), s.blk.maint.lost = false →
    let x := s.blk.strait n
    let training := x.st = .train ∨ x.st = .retrain
    let retry (b : Block) : Block := if 2 ≤ x.attempts then failStrait n .failed 3 b
      else b.modStrait n fun y => { y with attempts := y.attempts + 1 }
    (∀ lanes : BitVec 5, x.st = .detect → x.oeReady = true → (badLanes lanes).length < 2 →
      Machine.exec (.signalDetect n lanes) s = .next (s.after fun b => loadTuning n (setState n .train b))) ∧
    (∀ lanes : BitVec 5, (x.st ≠ .detect ∨ x.oeReady = false ∨ 2 ≤ (badLanes lanes).length) →
      Machine.exec (.signalDetect n lanes) s = .next (s.after id)) ∧
    Machine.exec (.oeReadyRise n) s = .next (s.after fun b => b.modStrait n fun y => { y with oeReady := true }) ∧
    (∀ r : TrainResult, training → 2 ≤ n.val →
      let lanes (b : Block) : Block := b.modStrait n fun y => { y with good := r.good }
      let params (b : Block) : Block :=
        let y := b.strait n
        b.emit (.params n false b.route.self n y.cls y.epoch (clsBuffer y.cls) (clsReplay y.cls))
      let seen (b : Block) : Block :=
        (params (b.modStrait n fun y => { y with good := r.good, map := laneMapOf r.good, tuning := r.tuning })).modStrait n
          fun y => { y with peerRole := r.role, peerCls := r.cls, peerStrait := r.strait, peerNode := r.node, rtt := r.rtt
                            peerBuffer := r.buffer, peerReplay := r.replay }
      let known (b : Block) : Block := b.modStrait n fun y => { y with peerValid := true, peerEpoch := r.epoch }
      let expected := r.cls = x.cls ∧ (bitAt x.expect 63 = true → r.role = bitAt x.expect 50 ∧
        r.strait.toNat = bits x.expect 20 16 ∧ r.node.toNat = bits x.expect 12 0)
      (2 ≤ (badLanes r.good).length →
        (x.st = .train → Machine.exec (.trainingComplete n r) s = .next (s.after fun b => failStrait n .failed 1 (lanes b))) ∧
        (x.st = .retrain → Machine.exec (.trainingComplete n r) s = .next (s.after fun b => retry (lanes b)))) ∧
      ((badLanes r.good).length < 2 → ¬ expected →
        (x.st = .train → Machine.exec (.trainingComplete n r) s = .next (s.after fun b =>
          failStrait n .miswired 4 (known (seen b)))) ∧
        (x.st = .retrain → Machine.exec (.trainingComplete n r) s = .next (s.after fun b => retry (seen b)))) ∧
      ((badLanes r.good).length < 2 → expected → clsRtt x.cls < r.rtt.toNat →
        (x.st = .train → Machine.exec (.trainingComplete n r) s = .next (s.after fun b =>
          failStrait n .failed 2 (known (seen b)))) ∧
        (x.st = .retrain → Machine.exec (.trainingComplete n r) s = .next (s.after fun b => retry (seen b)))) ∧
      ((badLanes r.good).length < 2 → expected → r.rtt.toNat ≤ clsRtt x.cls →
        Machine.exec (.trainingComplete n r) s = .next (s.after fun b =>
          let b := seen b
          let b := b.emit (.resume n (b.strait n).peerEpoch (b.strait n).expected (b.strait n).xoffNow)
          let b := if x.peerValid = true ∧ r.epoch = x.peerEpoch ∧ r.sawEpoch = x.epoch then resumeLink n r b
            else (freshStart n b).modStrait n fun y => { y with txXoff := r.xoff }
          let b := b.modStrait n fun y => { y with peerValid := true, peerEpoch := r.epoch, rxXoff := y.xoffNow }
          let b := if (b.strait n).reqWake then goUp n b else endStraitOp n (goUp n b)
          sendReport 0x02 [(115, n), (98, r.node.toNat)] (storeLanes n b)))) ∧
    (∀ init, x.st = .train → Machine.exec (.trainingAttemptFailed ⟨n, init⟩) s = .next (s.after (failStrait n .failed 1))) ∧
    (∀ init, x.st = .retrain → (2 ≤ n.val ∨ init = false) →
      Machine.exec (.trainingAttemptFailed ⟨n, init⟩) s = .next (s.after retry)) ∧
    (x.st = .retrain → n.val < 2 →
      Machine.exec (.trainingAttemptFailed ⟨n, true⟩) s = .next (s.after (failStrait n .failed 1))) ∧
    (∀ (good : BitVec 5) (r : TrainResult), x.st = .calibrate → 2 ≤ n.val →
      ((∀ k < 4, bitAt good (bits x.map (3 * k + 2) (3 * k)) = true) →
        Machine.exec (.calibrationEnd n good r) s = .next (s.after fun b => endStraitOp n (goUp n (resumeLink n r
          (sendResume n (b.modStrait n fun y => { y with tuning := r.tuning })))))) ∧
      (∀ k < 4, bitAt good (bits x.map (3 * k + 2) (3 * k)) = false →
        Machine.exec (.calibrationEnd n good r) s = .next (s.after fun b => setState n .retrain (b.modStrait n fun y =>
          { y with attempts := 0, retraining := true, req := .retrain })))) ∧
    (x.st = .drain → x.replay = [] → (s.blk.eg n).cur = none → (∀ p ∈ x.ingress, p.need ≤ p.got) →
      (∀ c ∈ x.ctrl, c.type.toNat ≠ cfCalReq) →
      (x.req = .calibrate → Machine.exec (.drainComplete n) s = .next (s.after (setState n .calibrate))) ∧
      (x.req = .retrain → Machine.exec (.drainComplete n) s = .next (s.after fun b => setState n .retrain (b.modStrait n fun y =>
        { y with attempts := 0, retraining := true })))) ∧
    (x.st = .drain → (x.replay ≠ [] ∨ (s.blk.eg n).cur.isSome = true ∨ ∃ c ∈ x.ctrl, c.type.toNat = cfCalReq) →
      Machine.exec (.drainComplete n) s = .next (s.after id)) ∧
    (x.st = .drain → Machine.exec (.drainAbandoned n) s = .next (s.after fun b =>
      straitStatus n .busyActive 0 (refreshElig n (setState n .up (endStraitOp n b)))))

/-- STRAIT[n].CTRL. ENABLE takes a DISABLED strait to DETECT and starts the clock, and is ignored on a strait that is
not bonded out; ENABLE 0 takes any strait to DISABLED, its link state discarded. CALIBRATE and RETRAIN are answered in
the order of Table 10.8: BUSY where another holds the token, ACCESS on a DISABLED strait, for a FAILED or MISWIRED one
RETRAIN goes to DETECT and CALIBRATE is ACCESS; BUSY_ACTIVE in a state between, NO_ALTERNATE where it is an only path
and FORCE is 0; else the token is taken and the strait drains, or is woken first. The model's choices are log 58. -/
def Obligations.StraitControlWrites : Prop :=
  ∀ (s : State) (p : Path) (n : StraitId), s.blk.Writable p (0x10010 + 0x800 * n.val) →
    let x := s.blk.strait n
    let bonded := bitAt s.blk.maint.straps (32 + n.val) = true
    let after (f : Block → Block) : Host.Outcome State Fault Refusal := .next (s.afterWrite (0x10010 + 0x800 * n.val) f)
    (bonded → x.enable = false → x.st = .disabled → Machine.exec (.straitEnable p n) s = after fun b =>
      startClock (setState n .detect (b.modStrait n fun y => { y with enable := true, attempts := 0, cause := 0 }))) ∧
    (¬ bonded → Machine.exec (.straitEnable p n) s = after id) ∧
    (x.enable = true → x.st ≠ .disabled → Machine.exec (.straitDisable p n) s = after fun b =>
      endStraitOp n (endWake n (discardLink n (setState n .disabled (b.modStrait n fun y =>
        { y with enable := false, cause := 0, retraining := false, peerDrain := false, dozeSent := false, dozeGot := none
                 quiet := false }))))) ∧
    (x.enable = false → Machine.exec (.straitDisable p n) s = after id) ∧
    (x.enable = true → bonded → ∀ (retrain force : Bool),
      let kind : StraitReq := if retrain then .retrain else .calibrate
      let exec (s : State) := if retrain then Machine.exec (.straitRetrain p n force) s else Machine.exec (.straitCalibrate p n force) s
      let mine := tokenBusy s.blk n p.holder = false
      let asked (b : Block) : Block := (takeToken n p.holder b).modStrait n fun y =>
        { y with req := kind, reqHolder := p.holder, forced := force }
      let free := force = true ∨ onlyPath s.start n = false
      let idle := retrain = true ∨ s.blk.maint.activating = false
      (tokenBusy s.blk n p.holder = true → exec s = after fun b => straitStatus n .busy (b.token n).holder b) ∧
      (mine → x.st = .disabled → exec s = after (straitStatus n .access 0)) ∧
      (mine → x.st = .failed ∨ x.st = .miswired → retrain = false → exec s = after (straitStatus n .access 0)) ∧
      (mine → x.st = .failed ∨ x.st = .miswired → retrain = true → exec s = after fun b =>
        straitStatus n .ok 0 (startClock (setState n .detect ((takeToken n p.holder b).modStrait n fun y =>
          { y with attempts := 0, cause := 0, req := .none, reqHolder := p.holder })))) ∧
      (mine → x.st = .detect ∨ x.st = .train ∨ x.st = .retrain ∨ x.st = .drain ∨ x.st = .calibrate →
        exec s = after (straitStatus n .busyActive 0)) ∧
      (mine → x.st.carries = true → ¬ idle → exec s = after (straitStatus n .busyActive 0)) ∧
      (mine → x.st.carries = true → idle → ¬ free → exec s = after (straitStatus n .noAlternate 0)) ∧
      (mine → x.st = .up → idle → free → exec s = after fun b => straitStatus n .ok 0 (enterDrain n (asked b))) ∧
      (mine → x.st.carries = true → x.st ≠ .up → idle → free → exec s = after fun b =>
        straitStatus n .ok 0 (wakeStraits [n.val] (startClock ((asked b).modStrait n fun y => { y with reqWake := true })))))

/-- What a strait sends at a flit boundary, in the order of R336, R435, R436 and R461: an agreed doze takes it into QDOZE;
else a NAK that is due, a control flit, a flit replayed as it was first sent (with PSN = 1 where the cellar cannot correct
it), IDLE while the replay store is full, a VC0 cell where the peer's VC0 buffer has room, the next flit of the packet in
progress, and IDLE when nothing is ready. Before that the cellarers' time messages of the second join the control flits
(log 100). A strait that does not carry flits, or whose datapath clock stands, sends none. Every flit that the block
makes has the fields of its trailer where Table 10.2 puts them and the CRC over its bytes. At a packet boundary the head of
the eligible queue with the earliest tag starts: it leaves its queue, is charged to the strait's and its partition's
shaper, moves the virtual time and is counted in DELAY. Packets without a route choose again in their order, and so do
cells. The model's choices are logs 19 and 22. -/
def Obligations.StraitsSendInOrder : Prop :=
  ∀ (s : State) (n : StraitId) (hit : Bool) (stamp : Word),
    let x := (timeDue n s.start).strait n
    let e := s.blk.eg n
    let carries := ((s.blk.strait n).st = .up ∨ (s.blk.strait n).st = .drain) ∧ s.blk.dpRuns = true
    let dozes := x.dozeGot.isSome = true ∧ x.dozeSent = true ∧ x.st = .up
    let waits := carries ∧ ¬ dozes ∧ x.nakDue = false ∧ x.ctrl = []
    let cells := bitAt x.txXoff 0 = false ∧ x.st = .up ∧ x.peerDrain = false
    let go := Machine.exec (.flitBoundary ⟨n, hit, stamp⟩) s
    let idle := go = .next (s.after fun b => sendCtrl n (ctl cfIdle) (timeDue n b))
    (¬ carries → go = .next (s.after id)) ∧
    (∀ deep off, carries → x.st = .up → x.dozeSent = true → x.dozeGot = some (deep, off) →
      go = .next (s.after fun b => enterDoze n deep off (timeDue n b))) ∧
    (carries → ¬ dozes → x.nakDue = true → go = .next (s.after fun b =>
      (sendCtrl n { ctl cfNak with nakSeq := x.expected } (timeDue n b)).modStrait n fun y =>
        { y with nakDue := false, naksSent := y.naksSent + 1 })) ∧
    (∀ c rest, carries → ¬ dozes → x.nakDue = false → x.ctrl = c :: rest →
      go = .next (s.after fun b => sendQueued n c stamp ((timeDue n b).modStrait n fun y => { y with ctrl := rest }))) ∧
    (∀ i h, waits → x.replayPos = some i → x.replay[i]? = some h → go = .next (s.after fun b =>
      let b := timeDue n b
      let b := if hit then sendFlit n (poisonFlit h.image) (poisonedRead n b) else sendFlit n h.image b
      b.modStrait n fun y => { breakDoze y with
        flitsOut := y.flitsOut + 1, replayPos := if i + 1 < y.replay.length then some (i + 1) else none })) ∧
    (waits → x.replayPos = none → clsReplay x.cls ≤ x.replay.length → idle) ∧
    (∀ c rest, waits → x.replayPos = none → x.replay.length < clsReplay x.cls → e.cells = c :: rest → cells →
      go = .next (s.after fun b => sendCell n c rest (timeDue n b))) ∧
    (∀ k, waits → x.replayPos = none → x.replay.length < clsReplay x.cls → (e.cells = [] ∨ ¬ cells) → e.cur = some k →
      go = .next (s.after fun b => sendBody n k hit (timeDue n b))) ∧
    (waits → x.replayPos = none → x.replay.length < clsReplay x.cls → (e.cells = [] ∨ ¬ cells) → e.cur = none → idle) ∧
    (∀ b : Block, (bitAt b.time.due n = false ∨ (b.strait n).st ≠ .up ∨ b.maint.lost = true) → timeDue n b = b) ∧
    (∀ (body : BitVec 960) (fseq ack : BitVec 12) (vc kind : Nat) (ackv psn : Bool), vc < 8 → kind < 4 →
      let f := flitImage body fseq vc kind ack ackv psn
      let t := flitTrailer f
      flitCrcOk f = true ∧ flitBodyOf f = body ∧ tFseq t = fseq ∧ tVc t = vc ∧ tKind t = kind ∧ tAck t = ack ∧
        tAckv t = ackv ∧ tPsn t = psn) ∧
    (∀ q p rest, s.blk.dpRuns = true → (s.blk.strait n).st = .up → (s.blk.strait n).peerDrain = false →
      (s.blk.strait n).replayPos = none → e.cur = none →
      earliest ((refreshElig n s.start).eg n) = some q → queueOf (refreshElig n s.start) n q = p :: rest →
      Machine.exec (.egressPacketStart n) s = .next (s.after fun b =>
        let b := refreshElig n b
        let l := chargeOf (b.eg n).ovh (pktBytes p.pkt) (pktFlits p.pkt)
        let b := b.modEg n fun y => { y with
          queues := tset y.queues q (afterHead p rest), v := tget 0 y.f q, s := tset y.s q (tget 0 y.f q), strait := charge l y.strait
          parts := match queuePart b q with
            | some k => tmod {} y.parts k (charge l)
            | none => y.parts
          cur := some { qp := p, sent := 0, flits := pktFlits p.pkt } }
        let b := { b with sched := { b.sched with delays := tmod 0 b.sched.delays q (max (b.time.loc - p.since)) } }
        refreshElig n (b.modEg n fun y => { y with f := tset y.f q (headTag b n q (tget 0 y.s q)) }))) ∧
    Machine.exec .noRouteRechoose s = .next (s.after fun b =>
      retryCells (Block.each b.route.waiting routeOut { b with route := { b.route with waiting := [] } }))

/-- The route banks by their state. SEAL takes OPEN to READY; a READY bank stays, and CURRENT and OLD refuse it with
ACCESS. FLIP makes a READY bank CURRENT and the bank that was CURRENT OLD; a CURRENT bank stays, and OPEN and OLD
refuse it with NOT_READY. A write of an entry, MODE, DATELINE or TORUS_DIM lands in an OPEN bank; a CURRENT one
refuses it with BUSY_ACTIVE; a READY or OLD one with BUSY_DRAINING while a packet naming its EPOCH is held, and else
it becomes OPEN, its count of arrivals 0. ROUTE.STATUS has the outcome of SEAL, FLIP and a refused write. -/
def Obligations.RouteBanksActByState : Prop :=
  ∀ (s : State) (p : Path) (k : BankId),
    let x := (s.blk.bank k).st
    (s.blk.Writable p 0x1208 →
      (x = .opened → Machine.exec (.routeSeal p k) s = .next (s.afterWrite 0x1208 fun b =>
        routeStatus .ok (b.modBank k fun y => { y with st := .ready }))) ∧
      (x = .ready → Machine.exec (.routeSeal p k) s = .next (s.afterWrite 0x1208 (routeStatus .ok))) ∧
      (x = .current ∨ x = .old → Machine.exec (.routeSeal p k) s = .next (s.afterWrite 0x1208 (routeStatus .access))) ∧
      (x = .ready → Machine.exec (.routeFlip p k) s = .next (s.afterWrite 0x1208 fun b =>
        routeStatus .ok ((b.modBank k fun y => { y with st := .current }).modBank (1 - k.val) fun y =>
          if y.st = .current then { y with st := .old } else y))) ∧
      (x = .current → Machine.exec (.routeFlip p k) s = .next (s.afterWrite 0x1208 (routeStatus .ok))) ∧
      (x = .opened ∨ x = .old → Machine.exec (.routeFlip p k) s = .next (s.afterWrite 0x1208 (routeStatus .notReady)))) ∧
    (∀ (t : BankTarget) (v : Word), s.blk.Writable p (bankOffset k t) →
      let put (y : Bank) : Bank := match t with
        | .entry node => { y with entries := tset y.entries node.toNat v }
        | .mode => { y with torus := bitAt v 8 }
        | .dateline => { y with dateline := BitVec.ofNat 32 v.toNat }
        | .torusDim => { y with dims := v }
      (x = .opened → Machine.exec (.bankEntryWrite p k t v) s = .next (s.afterWrite (bankOffset k t) fun b => b.modBank k put)) ∧
      (x = .current → Machine.exec (.bankEntryWrite p k t v) s = .next (s.afterWrite (bankOffset k t) (routeStatus .busyActive))) ∧
      (x = .ready ∨ x = .old → drainCount s.start k ≠ 0 →
        Machine.exec (.bankEntryWrite p k t v) s = .next (s.afterWrite (bankOffset k t) (routeStatus .busyDraining))) ∧
      (x = .ready ∨ x = .old → drainCount s.start k = 0 → Machine.exec (.bankEntryWrite p k t v) s = .next (s.afterWrite (bankOffset k t) fun b =>
        b.modBank k fun y => put { y with st := .opened, arrivals := 0 })))

/-- A start of an invalidation. While the agent's last one is ACTIVE the start is refused and recorded. RANGE of no
unit, and ALL naming a context, are refused with ACCESS. Else the generation of every covered context goes up, or
waits where it has four live until the oldest of them has none, the TLB entries of the covered pages are dropped, and walks of the covered contexts
start again. When no old use is left, and no earlier overlapping one is open, the invalidation is acknowledged OK; at
its bound, if no earlier one is open either, the contexts of the uses left freeze with cause 7 and the word says
BUSY_DRAINING and names them. The
model's choices are log 43. -/
def Obligations.InvalidationsDropAndWait : Prop :=
  ∀ (s : State) (p : Path) (a : Agent) (c : Ctx) (seq : BitVec 32), s.blk.Writable p (0x70418 + 0x40 * a.val) →
    let i := s.blk.inv a
    let n := i.units.toNat
    let start (b : Block) : Block := { b with xlat := { b.xlat with
      invalidations := b.xlat.invalidations + 1, nextOrder := b.xlat.nextOrder + 1 } }
    let opened (cs : List Nat) (b : Block) : Block := (start b).modInv a fun y => { y with
      active := true, acking := false, curSeq := seq, curFrozen := 0, curStatus := 0, old := [], ctxs := cs
      order := b.xlat.nextOrder + 1 }
    let after (f : Block → Block) : Host.Outcome State Fault Refusal := .next (s.afterWrite (0x70418 + 0x40 * a.val) f)
    let covers (cs : List Nat) (range : Bool) (b : Block) : Block :=
      let k := b.xlat.nextOrder + 1
      let b := (opened cs b).each cs fun d b =>
        if (liveGens b d).length < 4 then bumpGen k d b
        else { b with xlat := { b.xlat with delayed := b.xlat.delayed ++ [{ order := k, ctx := d, oldest := oldestGen b d }] } }
      restartWalks cs (dropEntries (fun e => cs.contains e.ctx && (!range || e.inRange (pageOf i.addr) n)) b)
    (i.active = true →
      let refused := after fun b => b.modInv a fun y => { y with refSeq := seq, refCount := y.refCount + 1 }
      Machine.exec (.invalidateRange p a c seq) s = refused ∧ Machine.exec (.invalidateContext p a c seq) s = refused ∧
      Machine.exec (.invalidateAll p a c seq) s = refused) ∧
    (i.active = false → n ≠ 0 → Machine.exec (.invalidateRange p a c seq) s = after (covers [c.val] true)) ∧
    (i.active = false → n = 0 → Machine.exec (.invalidateRange p a c seq) s = after fun b => invComplete a .access 0 (opened [] b)) ∧
    (i.active = false → Machine.exec (.invalidateContext p a c seq) s = after (covers [c.val] false)) ∧
    (i.active = false → c.val = 0 → Machine.exec (.invalidateAll p a c seq) s = after (covers (List.range 16) false)) ∧
    (i.active = false → c.val ≠ 0 → Machine.exec (.invalidateAll p a c seq) s = after fun b => invComplete a .access 0 (opened [] b)) ∧
    (i.active = true → i.acking = false → invUses s.start a = [] → invBehind s.start a = false →
      Machine.exec (.invalidationComplete a) s = .next (s.after (invComplete a .ok 0))) ∧
    (i.active = true → i.acking = false → invUses s.start a ≠ [] →
      let cs := ((invUses s.start a).map fun u => u.ctx).eraseDups
      Machine.exec (.invalidationComplete a) s = .next (s.after id) ∧
      (invBehind s.start a = true → Machine.exec (.invalidationBound a) s = .next (s.after id)) ∧
      (invBehind s.start a = false → Machine.exec (.invalidationBound a) s = .next (s.after fun b =>
        invComplete a .busyDraining (BitVec.ofNat 16 ((cs.map fun d => 2 ^ d).foldl (· + ·) 0))
          (b.each cs fun d b => freezeCtx d 7 .busyDraining a 0xFF 0 b))))

/-! ### Contexts and keys (09) -/

/-- Contexts. BIND is written only while every sequencer that the context owns is IDLE, and a bind not during a cellar
BIST; it takes UNBOUND to RUNNING, and an unbind RUNNING to UNBOUND. FREEZE acts on a RUNNING context alone, with
cause 9: status, cause, source 0 and the time are recorded, the event is raised and the context's sequencers, engines,
requests and instances stop. RESET of a FROZEN context dumps it and starts the reset, of one in reset, or during a
block reset, it is answered BUSY_ACTIVE, and else does nothing. The reset ends when no load of the context's
sequencers runs, with the results of Table 9.3. -/
def Obligations.ContextsBindFreezeAndReset : Prop :=
  ∀ (s : State) (p : Path) (c : Ctx),
    let x := s.blk.ctx c
    (∀ (valid : Bool) (part : Part), s.blk.Writable p (0x40000 + 0x1000 * c.val) →
      (seqsIdle s.start c = false ∨ (valid = true ∧ s.blk.maint.bistState = 1) →
        Machine.exec (.ctxBindWrite p c valid part) s = .next (s.afterWrite (0x40000 + 0x1000 * c.val) id)) ∧
      (seqsIdle s.start c = true → valid = false ∨ s.blk.maint.bistState ≠ 1 →
        Machine.exec (.ctxBindWrite p c valid part) s = .next (s.afterWrite (0x40000 + 0x1000 * c.val) fun b => b.modCtx c fun y => { y with
          valid, part
          st := if y.st = .unbound ∧ valid then .running else if y.st = .running ∧ !valid then .unbound else y.st }))) ∧
    (s.blk.Writable p (0x40028 + 0x1000 * c.val) →
      (x.st ≠ .running → Machine.exec (.ctxFreeze p c) s = .next (s.afterWrite (0x40028 + 0x1000 * c.val) id)) ∧
      (x.st = .running → Machine.exec (.ctxFreeze p c) s = .next (s.afterWrite (0x40028 + 0x1000 * c.val) fun b =>
        let b := b.modCtx c fun y => { y with
          st := .frozen, frzSource := 0, frzStatus := 0, frzCause := 9, frzTime := b.time.net }
        let b := raiseEvent 0x01 0 c 0xFF (freezeWord (b.ctx c)) (b.ctx c).frzTime b
        let b := traceEvent 11 9 0 0 0xFF c 0 0 b
        let b := b.each (ownSeqs b c) freezeSeq
        let b := b.each (ownEngines b c) stopRack
        let b := refuseUnsent c b
        b.each (instsWhere b fun y => y.ctx == c.val) fun i b => endInst i (divergeInst i 5 (doneChunks (b.inst i)) b))) ∧
      (x.st = .frozen → Machine.exec (.ctxReset p c) s = .next (s.afterWrite (0x40028 + 0x1000 * c.val) fun b =>
        (dumpCtx c b).modCtx c fun y => { y with st := .resetting })) ∧
      (x.st = .resetting ∨ (x.st ≠ .frozen ∧ s.blk.maint.block = true) →
        Machine.exec (.ctxReset p c) s = .next (s.afterWrite (0x40028 + 0x1000 * c.val) (rstStatus .busyActive))) ∧
      (x.st = .running ∨ x.st = .unbound → s.blk.maint.block = false → Machine.exec (.ctxReset p c) s = .next (s.afterWrite (0x40028 + 0x1000 * c.val) id))) ∧
    let loads := (ownSeqs s.start c).any fun q => (s.blk.seq q).st == .loading
    (x.st ≠ .resetting ∨ loads = true → Machine.exec (.contextResetDone c) s = .next (s.after id)) ∧
    (x.st = .resetting → loads = false → Machine.exec (.contextResetDone c) s = .next (s.after fun b =>
      if x.valid = true then partStep x.part (resetCtx c b) else resetCtx c b))

/-- Every command on contexts completes. A write of CTX[c].BIND whose context has no sequencer at work, a FREEZE of a
RUNNING context, a RESET of a FROZEN one and the end of a reset each answer a next state, on conditions on the state
alone. BIND takes VALID and PARTITION, and takes an UNBOUND context to RUNNING on a bind; FREEZE is the freeze with
cause 9, no status and no source; RESET dumps the context and takes it to RESETTING; its end is `resetCtx`, and for a
bound context the step of its partition's reset that follows. -/
def Obligations.ContextCommandsComplete : Prop :=
  ∀ (s : State) (p : Path) (c : Ctx),
    (∀ (valid : Bool) (part : Part), s.blk.Writable p (0x40000 + 0x1000 * c.val) → seqsIdle s.start c = true →
      (valid = false ∨ s.blk.maint.bistState ≠ 1) →
      let bind (b : Block) : Block := b.modCtx c fun y => { y with
        valid, part, st := if y.st = .unbound ∧ valid then .running else if y.st = .running ∧ !valid then .unbound else y.st }
      Machine.exec (.ctxBindWrite p c valid part) s = .next (s.afterWrite (0x40000 + 0x1000 * c.val) bind) ∧
      ∀ b, ((bind b).ctx c).valid = valid ∧ ((bind b).ctx c).part = part ∧
        ((b.ctx c).st = .unbound → valid = true → ((bind b).ctx c).st = .running)) ∧
    (s.blk.Writable p (0x40028 + 0x1000 * c.val) → (s.blk.ctx c).st = .running →
      Machine.exec (.ctxFreeze p c) s = .next (s.afterWrite (0x40028 + 0x1000 * c.val) (freezeCtx c 9 .ok 0 0xFF 0))) ∧
    (s.blk.Writable p (0x40028 + 0x1000 * c.val) → (s.blk.ctx c).st = .frozen →
      Machine.exec (.ctxReset p c) s = .next (s.afterWrite (0x40028 + 0x1000 * c.val) fun b =>
        (dumpCtx c b).modCtx c fun x => { x with st := .resetting }) ∧
      ∀ b, (((dumpCtx c b).modCtx c fun x => { x with st := .resetting }).ctx c).st = .resetting) ∧
    ((s.blk.ctx c).st = .resetting → (∀ q, (s.blk.seq q).st ≠ .loading) →
      Machine.exec (.contextResetDone c) s = .next (s.after fun b =>
        if (s.blk.ctx c).valid = true then partStep (s.blk.ctx c).part (resetCtx c b) else resetCtx c b))

/-- The commands of the RoT on partition keys. Each sets SEC.RESULT's status and clears SEC.KEY; while another holds
the key-store token all answer BUSY and name the holder. INSTALL writes the first EMPTY slot of the partition as
STAGED, raises HIGHEST and clears the slot's bit of FERRY.NONCE_HIGH; a STAGED slot, or none EMPTY, is BUSY_ACTIVE, a
vintage not above HIGHEST or one whose low byte is held ACCESS. ACTIVATE makes the STAGED vintage CURRENT and the CURRENT one PREVIOUS. RETIRE zeroises a slot
that is not CURRENT and not in use; RETIRE_FORCE fails the uses of the slot and zeroises it. An undefined opcode is
ACCESS. While a command is in progress another is ignored. That a command is over when its row ends is log 80; the
order of refusals is log 55. -/
def Obligations.KeyCommandsAct : Prop :=
  ∀ (s : State), s.blk.Writable .rot 0xC0000 →
    let k := s.blk.keys
    (k.active = true → let idle := .next (s.afterWrite 0xC0000 id)
      Machine.exec .install s = idle ∧ Machine.exec .activate s = idle ∧ Machine.exec .retire s = idle ∧
      Machine.exec .retireForce s = idle ∧ Machine.exec .weightInstall s = idle ∧ Machine.exec .weightGrant s = idle ∧
      Machine.exec .rangeSet s = idle ∧ Machine.exec .snapshot s = idle ∧ ∀ op, Machine.exec (.secCmdUndefined op) s = idle) ∧
    (k.active = false →
    let p := argPart s.blk
    let v := argVintage s.blk
    let done (st : Status) (f : Block → Block) : Host.Outcome State Fault Refusal := .next (s.afterWrite 0xC0000 fun b =>
      let b := f { b with keys := { b.keys with resRefs := 0, resHolder := 0 } }
      { b with keys := { b.keys with resStatus := st.code, key := 0 } })
    let holds (st : KeySt) (j : Nat) := (s.blk.slot j).st = st
    let mine (j : Nat) := j = 3 * p ∨ j = 3 * p + 1 ∨ j = 3 * p + 2
    (tokenBusy s.blk resKeystore Path.rot.holder = true →
      let busy := done .busy fun b => { b with keys := { b.keys with
        resHolder := BitVec.ofNat 8 (s.blk.token resKeystore).holder } }
      Machine.exec .install s = busy ∧ Machine.exec .activate s = busy ∧ Machine.exec .retire s = busy ∧
      Machine.exec .retireForce s = busy ∧ Machine.exec .weightInstall s = busy ∧ Machine.exec .weightGrant s = busy ∧
      Machine.exec .rangeSet s = busy ∧ Machine.exec .snapshot s = busy) ∧
    (tokenBusy s.blk resKeystore Path.rot.holder = false →
      ((∃ j, mine j ∧ holds .staged j) → Machine.exec .install s = done .busyActive id) ∧
      ((∀ j, mine j → ¬ holds .staged j) →
        (v.toNat ≤ (tget 0 k.highest p).toNat ∨
          (∃ j, mine j ∧ ¬ holds .empty j ∧ bits (s.blk.slot j).vintage 7 0 = bits v 7 0) → Machine.exec .install s = done .access id) ∧
        ((tget 0 k.highest p).toNat < v.toNat →
          (∀ j, mine j → ¬ holds .empty j → bits (s.blk.slot j).vintage 7 0 ≠ bits v 7 0) →
          ((∀ j, mine j → ¬ holds .empty j) → Machine.exec .install s = done .busyActive id) ∧
          (∀ j, mine j → holds .empty j → (∀ i, mine i → i < j → ¬ holds .empty i) → Machine.exec .install s = done .ok fun b =>
            let b := b.modSlot j fun _ => { st := .staged, key := k.key, vintage := v, pmask := BitVec.ofNat 4 (2 ^ p) }
            { b with
              keys := { b.keys with highest := tset b.keys.highest p v }
              ferry := { b.ferry with nonceHigh := clearBit b.ferry.nonceHigh j } }))) ∧
      ((slotIn s.blk p .previous).isSome = true → Machine.exec .activate s = done .busyActive id) ∧
      (slotIn s.blk p .previous = none → slotIn s.blk p .staged = none → Machine.exec .activate s = done .access id) ∧
      (∀ j, slotIn s.blk p .previous = none → slotIn s.blk p .staged = some j →
        ((s.blk.slot j).vintage ≠ v → Machine.exec .activate s = done .access id) ∧
        ((s.blk.slot j).vintage = v → Machine.exec .activate s = done .ok fun b =>
          let b := match slotIn s.blk p .current with
            | some i => b.modSlot i fun y => { y with st := .previous }
            | none => b
          b.modSlot j fun y => { y with st := .current })) ∧
      (retireTarget s.blk = none → Machine.exec .retire s = done .access id ∧ Machine.exec .retireForce s = done .access id) ∧
      (∀ j, retireTarget s.blk = some j →
        (holds .current j → Machine.exec .retire s = done .access id) ∧
        (¬ holds .current j → (s.blk.slot j).refs ≠ 0 → Machine.exec .retire s = done .busyInUse fun b =>
          { b with keys := { b.keys with resRefs := BitVec.ofNat 32 (s.blk.slot j).refs } }) ∧
        (¬ holds .current j → (s.blk.slot j).refs = 0 → Machine.exec .retire s = done .ok (zeroiseSlot j)) ∧
        Machine.exec .retireForce s = done .ok (forceSlot j))) ∧
    (∀ op : Byte, op = 0 ∨ 8 < op.toNat → Machine.exec (.secCmdUndefined op) s = .next (s.afterWrite 0xC0000 fun b =>
      { b with keys := { b.keys with resStatus := Status.access.code, key := 0 } })))

/-- The commands of the RoT on weight keys, and SNAPSHOT. WEIGHT_INSTALL writes an EMPTY weight slot with its set tag
and grant, and raises HIGHEST of the partitions granted; a set tag whose low byte another weight slot holds is ACCESS.
WEIGHT_GRANT sets a slot's grant, but takes no partition away while the slot is in use. RANGE_SET sets or clears a
range, one that is empty or overlaps another slot's being ACCESS. SNAPSHOT copies the generation, hashes, straps, time
and reset scopes, or answers NOT_READY. That a command is over when its row ends is log 80; what a snapshot hashes is
log 56. -/
def Obligations.WeightCommandsAndSnapshot : Prop :=
  ∀ (s : State), s.blk.Writable .rot 0xC0000 → s.blk.keys.active = false → tokenBusy s.blk resKeystore Path.rot.holder = false →
    let k := s.blk.keys
    let w := argWslot s.blk
    let done (st : Status) (f : Block → Block) : Host.Outcome State Fault Refusal := .next (s.afterWrite 0xC0000 fun b =>
      let b := f { b with keys := { b.keys with resRefs := 0, resHolder := 0 } }
      { b with keys := { b.keys with resStatus := st.code, key := 0 } })
    let inUse := done .busyInUse fun b => { b with keys := { b.keys with resRefs := BitVec.ofNat 32 (s.blk.slot w).refs } }
    let clash := ∃ j, 12 ≤ j ∧ j < 16 ∧ j ≠ w ∧ (s.blk.slot j).st ≠ .empty ∧
      bits (s.blk.slot j).setTag 7 0 = bits (argSetTag s.blk) 7 0
    ((s.blk.slot w).st ≠ .empty → Machine.exec .weightInstall s = inUse) ∧
    ((s.blk.slot w).st = .empty → clash → Machine.exec .weightInstall s = done .access id) ∧
    ((s.blk.slot w).st = .empty → ¬ clash → Machine.exec .weightInstall s = done .ok fun b =>
      let b := b.modSlot w fun _ => { st := .weight, key := k.key, vintage := argVintage s.blk, setTag := argSetTag s.blk, pmask := argPmask s.blk }
      Block.each (b := { b with ferry := { b.ferry with nonceHigh := clearBit b.ferry.nonceHigh w } }) (setBits 4 (argPmask s.blk)) (raiseHighest (argVintage s.blk))) ∧
    ((s.blk.slot w).st = .empty → Machine.exec .weightGrant s = done .access id) ∧
    ((s.blk.slot w).st ≠ .empty → (s.blk.slot w).pmask &&& ~~~(argPmask s.blk) ≠ 0 → (s.blk.slot w).refs ≠ 0 →
      Machine.exec .weightGrant s = inUse) ∧
    ((s.blk.slot w).st ≠ .empty → ((s.blk.slot w).pmask &&& ~~~(argPmask s.blk) = 0 ∨ (s.blk.slot w).refs = 0) →
      Machine.exec .weightGrant s = done .ok fun b => b.modSlot w fun y => { y with pmask := argPmask s.blk }) ∧
    (let j := bits k.arg1 3 0
     let base := bits k.arg1 49 16
     let limit := bits k.arg2 49 16
     let ws : BitVec 2 := BitVec.ofNat 2 (w - 12)
     let overlaps := ∃ i < 16, i ≠ j ∧ (tget ({} : WRange) k.ranges i).valid = true ∧ (tget ({} : WRange) k.ranges i).wslot ≠ ws ∧
       (tget ({} : WRange) k.ranges i).base.toNat < limit ∧ base < (tget ({} : WRange) k.ranges i).limit.toNat
     ((s.blk.slot w).refs ≠ 0 → Machine.exec .rangeSet s = inUse) ∧
     ((s.blk.slot w).refs = 0 → bitAt k.arg1 63 = true → limit ≤ base ∨ overlaps → Machine.exec .rangeSet s = done .access id) ∧
     ((s.blk.slot w).refs = 0 → bitAt k.arg1 63 = true → base < limit → ¬ overlaps → Machine.exec .rangeSet s = done .ok fun b =>
       let r : WRange := { valid := true, wslot := ws, base := BitVec.ofNat 34 base, limit := BitVec.ofNat 34 limit }
       { b with keys := { b.keys with ranges := tset b.keys.ranges j r } }) ∧
     ((s.blk.slot w).refs = 0 → bitAt k.arg1 63 = false → Machine.exec .rangeSet s = done .ok fun b =>
       { b with keys := { b.keys with ranges := tset b.keys.ranges j {} } })) ∧
    (snapshotNotReady s.blk = true → Machine.exec .snapshot s = done .notReady id) ∧
    (snapshotNotReady s.blk = false → Machine.exec .snapshot s = done .ok fun b => { b with keys := { b.keys with
      attGen := k.generation, attStatus := Status.ok.code
      attTag := if resetScopes s.blk ≠ 0 then 2 else if s.blk.maint.bState == .staged || s.blk.maint.bState == .booting then 1 else 0
      attTime := s.blk.time.net
      attRun := imageHash (if s.blk.maint.runImage.isEmpty then none else some s.blk.maint.runImage)
      attStaged := imageHash (stagedImage s.blk)
      attConfig := Config.configHash (configWords b ++ [s.blk.maint.straps])
      attStraps := s.blk.maint.straps, attScopes := resetScopes s.blk } })

/-! ### Power, meters, tides and time (13, 14, 17) -/

/-- The power manager and the datapath clock. A grant of an outstanding request adds its units to those held and goes
to what asked, or, of a cancelled request, is returned unused; one that names no outstanding request, or comes while
pm_alive is 0, is ignored. The first need that waits is presented under the lowest free request ID. The clock stops
where its conditions hold and no start cause fell in the cycle. When it runs, writes held complete in their order and latched requests are taken.
HOST_AWAKE sets the host hint, which starts the clock and wakes the straits it names. The model's choices are logs 15
and 63. -/
def Obligations.PowerRequestsAndClock : Prop :=
  ∀ (s : State),
    let w := s.blk.pwr
    (∀ k : Fin 8, (w.alive = false ∨ ∀ r ∈ w.outstanding, r.id ≠ k.val) → Machine.exec (.pmGrant k) s = .next (s.after id)) ∧
    (∀ (id : Fin 8) (r : PermitReq), w.alive = true → (w.outstanding.find? fun x => x.id == id.val) = some r →
      let taken (b : Block) : Block := { b with pwr := { b.pwr with
        outstanding := b.pwr.outstanding.filter fun x => x.id != id.val, held := b.pwr.held + r.units
        grants := b.pwr.grants + 1, waitNs := b.pwr.waitNs + w64 (b.time.loc - r.since) } }
      (r.cancelled = false → Machine.exec (.pmGrant id) s = .next (s.after fun b => useGrant r.who r.units (taken b))) ∧
      (r.cancelled = true → Machine.exec (.pmGrant id) s = .next (s.after fun b =>
        let b := taken b
        returnUnits r.units { b with pwr := { b.pwr with returnedUnused := b.pwr.returnedUnused + w64 r.units } }))) ∧
    ((w.alive = false ∨ w.waiting = [] ∨ ∀ i < 8, ∃ r ∈ w.outstanding, r.id = i) →
      Machine.exec .pmRequestPresent s = .next (s.after id)) ∧
    (∀ r rest i, w.alive = true → w.waiting = r :: rest → i < 8 → (∀ x ∈ w.outstanding, x.id ≠ i) →
      (∀ j < i, ∃ x ∈ w.outstanding, x.id = j) → Machine.exec .pmRequestPresent s = .next (s.after fun b =>
        ({ b with pwr := { b.pwr with
          waiting := rest
          outstanding := b.pwr.outstanding ++ [{ r with id := i, since := b.time.loc }] } }).emit (.pmRequest i r.units))) ∧
    (s.blk.dpRuns = true → dpMayStop s.start = true → s.blk.kicked = false → Machine.exec .dpClockStop s = .next (s.after fun b =>
      { b with pwr := { b.pwr with dp := .stopped } })) ∧
    ((s.blk.dpRuns = false ∨ dpMayStop s.start = false ∨ s.blk.kicked = true) →
      Machine.exec .dpClockStop s = .next (s.after id)) ∧
    (w.dp ≠ .starting → Machine.exec .dpClockRunning s = .next (s.after id)) ∧
    (w.dp = .starting → Machine.exec .dpClockRunning s = .next (s.after fun b =>
      takeLatched (Block.each w.heldWrites (fun h b => (writeReg h.path s.lees (Reg.ofOffset h.off) h.val b).2)
        { b with pwr := { b.pwr with dp := .running, heldWrites := [] } }))) ∧
    (∀ (p : Path) (v : Word), s.blk.Writable p 0xA0010 →
      let m : Word := keep v 63 63 ||| keep v 31 0
      (m = 0 → Machine.exec (.hostAwakeWrite p v) s = .next (s.after fun b => { b with pwr := { b.pwr with hostAwake := 0 } })) ∧
      (m ≠ 0 → Machine.exec (.hostAwakeWrite p v) s = .next (s.after fun b =>
        wakeStraits (setBits 32 m) (startClock { b with pwr := { b.pwr with hostAwake := m } }))))

/-- Meters. The head of a hold line is metered again: green it goes to its own queue, yellow, or red under MARK, to
SCAVENGER, and red under DROP it stays. RATE and SIZE fill every bucket. CTRL with VALID 0 queues the hold line
unmetered, and with ACTION MARK meters it again. -/
def Obligations.MetersHoldAndRelease : Prop :=
  ∀ (s : State) (m : MeterId),
    let mt := s.blk.meter m
    (mt.hold = [] → Machine.exec (.meterHoldRelease m) s = .next (s.after id)) ∧
    (∀ p rest, mt.hold = p :: rest →
      let out := meterRun mt s.blk.time.loc (pktBytes p.pkt)
      let counted (b : Block) : Block := b.modMeter m fun _ => { countColour out.1 out.2 with hold := rest }
      let scavenge (b : Block) : Block := routeOut { p with q := ctxQueue (p.q / 8) 7 } (counted b)
      (out.1 = .green → Machine.exec (.meterHoldRelease m) s = .next (s.after fun b => routeOut p (counted b))) ∧
      (out.1 = .yellow → Machine.exec (.meterHoldRelease m) s = .next (s.after scavenge)) ∧
      (out.1 = .red → bitAt mt.ctrl 61 = false → Machine.exec (.meterHoldRelease m) s = .next (s.after scavenge)) ∧
      (out.1 = .red → bitAt mt.ctrl 61 = true → Machine.exec (.meterHoldRelease m) s = .next (s.after id))) ∧
    (∀ (p : Path) (v : Word), s.blk.Writable p (0x81008 + 0x40 * m.val) →
      Machine.exec (.meterSettingWrite p m false v) s = .next (s.afterWrite (0x81008 + 0x40 * m.val) fun b => b.modMeter m fun y => { y with
        rate := v, tc := bits y.size 31 0 * 1000, te := bits y.size 63 32 * 1000, last := b.time.loc })) ∧
    (∀ (p : Path) (v : Word), s.blk.Writable p (0x81010 + 0x40 * m.val) →
      Machine.exec (.meterSettingWrite p m true v) s = .next (s.afterWrite (0x81010 + 0x40 * m.val) fun b => b.modMeter m fun y => { y with
        size := v, tc := bits v 31 0 * 1000, te := bits v 63 32 * 1000, last := b.time.loc })) ∧
    (∀ (p : Path) (v : Word), s.blk.Writable p (0x81000 + 0x40 * m.val) →
      let set (b : Block) : Block := b.modMeter m fun y => { y with ctrl := keep v 63 61 ||| keep v 59 48 }
      (bitAt v 63 = false → Machine.exec (.meterCtrlWrite p m v) s = .next (s.afterWrite (0x81000 + 0x40 * m.val) fun b =>
        Block.each mt.hold routeOut ((set b).modMeter m fun y => { y with hold := [] }))) ∧
      (bitAt v 63 = true → bitAt v 61 = false → Machine.exec (.meterCtrlWrite p m v) s = .next (s.afterWrite (0x81000 + 0x40 * m.val) fun b =>
        Block.each mt.hold (fun _ => releaseHeld m) (set b))) ∧
      (bitAt v 63 = true → bitAt v 61 = true → Machine.exec (.meterCtrlWrite p m v) s = .next (s.afterWrite (0x81000 + 0x40 * m.val) set)))

/-- Tides and network time. CHANGE is refused with BUSY_ACTIVE while one is pending and with ACCESS on an admin list
outside its bounds, and else sets PENDING and the switch instant. At that instant, and not before, the lists change
places and the new list begins. A tide entry that begins takes its WAKE. A step of network time moves every running
list to its entry; without a cellarer there is none. In the cycle of each multiple of SAMPLE_PERIOD (of 1,000 ns at least), and once for it, every queue's depth and the largest delay
of its packets are kept and the delays start again. The model's choices are logs 59 and 60. -/
def Obligations.TidesAndTimeAdvance : Prop :=
  ∀ (s : State) (n : StraitId),
    let t := s.blk.tide n
    let e := bits t.adminCycle 38 32
    let c := bits t.adminCycle 26 0
    let bad := e < 1 ∨ 64 < e ∨ c < 125 ∨ 125000000 < c ∨ ∃ j < e, tideBad (tget 0 t.admin j) = true
    let status (st : Status) := State.after s fun b => b.modTide n fun y => { y with status := st.code }
    (∀ (p : Path) (time : Word), s.blk.Writable p (0x82078 + 0x100 * n.val) →
      (t.pending = true → Machine.exec (.tideChange p n time) s = .next (status .busyActive)) ∧
      (t.pending = false → bad → Machine.exec (.tideChange p n time) s = .next (status .access)) ∧
      (t.pending = false → ¬ bad → Machine.exec (.tideChange p n time) s = .next (s.after fun b => b.modTide n fun y => { y with
        pending := true, switchTime := tideSwitchAt s.blk.time.net time t.adminBase (8 * c), status := Status.ok.code }))) ∧
    (t.pending = false ∨ s.blk.time.net.toNat < t.switchTime.toNat → Machine.exec (.tideListSwitch n) s = .next (s.after id)) ∧
    (t.pending = true → t.switchTime.toNat ≤ s.blk.time.net.toNat → Machine.exec (.tideListSwitch n) s = .next (s.after fun b =>
      tideWake [n.val] (b.modTide n fun _ => { t with
        pending := false, operValid := true, switchTime := 0
        oper := t.admin, operBase := t.adminBase, operCycle := t.adminCycle
        admin := t.oper, adminBase := t.operBase, adminCycle := t.operCycle
        began := t.switchTime, entry := 0, cycles := t.cycles + 1 }))) ∧
    (let t' := tideEnter s.blk.time.net t
     (tideRuns t = false ∨ t'.began = t.began → Machine.exec (.tideEntryStart n) s = .next (s.after id)) ∧
     (tideRuns t = true → t'.began ≠ t.began → Machine.exec (.tideEntryStart n) s = .next (s.after fun b =>
       tideWake [n.val] (b.modTide n fun _ => t')))) ∧
    (∀ time : Word,
      (s.blk.maint.lost = true → Machine.exec (.timeStep time) s = .next (s.after id)) ∧
      (s.blk.maint.lost = false → Machine.exec (.timeStep time) s = .next (s.after fun b =>
        let run := (List.range 32).filter fun k => tideRuns (s.blk.tide k)
        tideWake run (Block.each run (fun k b => b.modTide k (tideEnter time))
          { b.emit .timeStepped with time := { b.time with net := time, steps := b.time.steps + 1 } })))) ∧
    let period := max 1000 s.blk.sched.samplePeriod.toNat
    let k := s.blk.time.net.toNat / period
    ((10 ≤ s.blk.time.net.toNat % period ∨ s.blk.sched.sampled = some k) → Machine.exec .schedQueueSample s = .next (s.after id)) ∧
    (s.blk.time.net.toNat % period < 10 → s.blk.sched.sampled ≠ some k → Machine.exec .schedQueueSample s = .next (s.after fun b =>
      let samples := (List.range 133).foldl (fun x q => tset x q
        { depth := BitVec.ofNat 32 (depthOf b q)
          delay := BitVec.ofNat 32 (min (2 ^ 32 - 1) (max (tget 0 b.sched.delays q) (headWait b q))) }) b.sched.samples
      queuesRecord { b with sched := { b.sched with samples, delays := [], sampleSeq := b.sched.sampleSeq + 1, sampled := some k } }))

/-! ### Records, counters and events (15, 17) -/

/-- The thief. A SAMPLE record holds the listed registers, with the values that compatibility sets give and a bit for
each set at a boundary; a PC_SAMPLE record the state of every masked sequencer; each only while ENABLE and its own
enable bit are 1. The oldest staged record not yet written goes to the ring, its granules one after another, while the
datapath clock runs and no other unit asks for the memory port. Setting ENABLE from 0 sets RING_HEAD to RING_TAIL and SEQ to 0; clearing it stops records. The
model's choices are logs 48 and 97. -/
def Obligations.ThiefRecordsAndRing : Prop :=
  ∀ (s : State),
    let t := s.blk.thief
    (thiefOn s.blk 1 = false → Machine.exec .sampleCapture s = .next (s.afterInCycle id)) ∧
    (thiefOn s.blk 1 = true → Machine.exec .sampleCapture s = .next (s.afterInCycle fun b =>
      let es := sampleEntries b
      let vs := es.map fun r => match valueOf r with
        | some (k, i) => compatValue s.lees b k i
        | none => readReg s.lees b r
      let mask := (List.range 8).filter fun k =>
        (b.compat k).boundary && es.any fun r => (valueOf r).map (fun x => x.1) == some k
      stageRecord 0x01 (1 + ceilDiv es.length 8) 0 b.time.net
        (natBytes 2 es.length ++ natBytes 2 0 ++ natBytes 1 ((mask.map fun k => 2 ^ k).foldl (· + ·) 0) ++
          natBytes 43 0 ++ vs.flatMap fun v => natBytes 8 v.toNat) b)) ∧
    (thiefOn s.blk 3 = false → Machine.exec .pcSample s = .next (s.after id)) ∧
    (thiefOn s.blk 3 = true → Machine.exec .pcSample s = .next (s.after fun b =>
      stageRecord 0x03 5 0 b.time.net (natBytes 8 t.pcMask.toNat ++ natBytes 40 0 ++ (List.range 64).flatMap fun q =>
        natBytes 4 (if bitAt t.pcMask q then pcEntry (b.seq q) else 0)) b)) ∧
    ((s.blk.dpRuns = false ∨ ∀ r ∈ t.staged, r.issued = true) → Machine.exec .thiefRecordWrite s = .next (s.after id)) ∧
    (∀ before r rest, s.blk.dpRuns = true → t.staged = before ++ r :: rest → (∀ x ∈ before, x.issued = true) → r.issued = false →
      let size := ringSize s.blk
      let place (i : Nat) : Nat := bits t.ringBase 49 0 + 64 * (ringAdd (ringAdd t.head.toNat (stagedGrans before) size) i size % size)
      let free := portFree ((List.range r.grans.length).map fun i => place i / 64) s.start
      (free = false → Machine.exec .thiefRecordWrite s = .next (s.after id)) ∧
      (free = true → Machine.exec .thiefRecordWrite s = .next (s.after fun b =>
        Block.each ((List.range r.grans.length).zip r.grans) (fun x b =>
            memWrite (place x.1) hintStream (~~~0) x.2 (.thief r.serial) b)
          { b with thief := { b.thief with
            staged := b.thief.staged.map fun (x : Staged) => if x.serial = r.serial then { x with issued := true } else x } }))) ∧
    (∀ (p : Path) (v : Word), s.blk.Writable p 0x90000 →
      let set (w : Word) (b : Block) : Block := { b with thief := { b.thief with ctrl := BitVec.ofNat 6 w.toNat } }
      (bitAt t.ctrl 0 = false → Machine.exec (.thiefEnable p v) s = .next (s.afterWrite 0x90000 fun b =>
        let b := set (v ||| 1) b
        ringCheck { b with thief := { b.thief with head := b.thief.tail, seq := 0 } })) ∧
      (bitAt t.ctrl 0 = true → Machine.exec (.thiefEnable p v) s = .next (s.afterWrite 0x90000 (set (v ||| 1)))) ∧
      Machine.exec (.thiefDisable p v) s = .next (s.afterWrite 0x90000 (set (v &&& ~~~1))))

/-- Compatibility sets and events. BIND takes the set's selections and its bases from the registers as they stand;
LATCH copies the values, the time, the boundary flag and the sequence. A vector's message goes out again when its
moderation time is over and an entry was written since. Setting EVT.CTRL.ENABLE sets HEAD to TAIL, and is refused
while the ring's size is not one that it may have. The stranger and stale-epoch windows raise their event only when
their counter moved, and once in a millisecond of network time. What lies in a boundary's cycle is log 90. -/
def Obligations.SetsLatchAndEventsFollow : Prop :=
  ∀ (s : State),
    (∀ (p : Path) (k : Fin 8) (v : Word), s.blk.Writable p (0x90800 + 0x100 * k.val) →
      Machine.exec (.compatBindWrite p k v) s = .next (s.afterWrite (0x90800 + 0x100 * k.val) fun b => b.modCompat k fun x =>
        { x with bind := keep v 6 0, selNow := x.sel, base := compatNative s.lees b x.sel })) ∧
    (∀ (p : Path) (k : Fin 8), s.blk.Writable p (0x90808 + 0x100 * k.val) →
      Machine.exec (.compatLatch p k) s = .next (s.afterInCycle fun b =>
        let b := kickAt (0x90808 + 0x100 * k.val) b
        b.modCompat k fun x => { x with
        snap := (List.range 8).map fun i => (i, compatValue s.lees b k i)
        snapTime := b.time.net, snapBoundary := (b.compat k).boundary
        snapSeq := BitVec.ofNat 32 (b.seq (bits (b.compat k).bind 5 0)).cseq.toNat })) ∧
    (∀ v : Fin 16,
      let x := tget ({} : VecState) s.blk.evt.vecs v
      let due := ∀ t, x.sent = some t → t + s.blk.evt.moderation.toNat ≤ s.blk.time.loc
      (x.further = true → due → Machine.exec (.msixModerationExpiry v) s = .next (s.after fun b =>
        ({ b with evt := { b.evt with vecs := tset b.evt.vecs v { sent := some b.time.loc, further := false } } }).emit (.msix v))) ∧
      (x.further = false ∨ ¬ due → Machine.exec (.msixModerationExpiry v) s = .next (s.after id))) ∧
    (∀ (p : Path) (v : Word), s.blk.Writable p 0x1020 →
      (ringSizeOk s.blk.evt.log2.toNat = false → Machine.exec (.evtRingEnable p v) s = .next (s.after id)) ∧
      (ringSizeOk s.blk.evt.log2.toNat = true → Machine.exec (.evtRingEnable p v) s = .next (s.after fun b =>
        { b with evt := { b.evt with
          completeVec := BitVec.ofNat 4 (bits v 11 8), faultVec := BitVec.ofNat 4 (bits v 7 4), enable := true
          head := if s.blk.evt.enable then b.evt.head else b.evt.tail } }))) ∧
    let ms := s.blk.time.net.toNat / 1000000
    (let n := tget 0 s.blk.keys.strangers 0 + tget 0 s.blk.keys.strangers 1 + tget 0 s.blk.keys.strangers 2
     (n = s.blk.keys.strangerMark ∨ s.blk.keys.strangerMs = some ms → Machine.exec .strangerEventWindow s = .next (s.after id)) ∧
     (n ≠ s.blk.keys.strangerMark → s.blk.keys.strangerMs ≠ some ms → Machine.exec .strangerEventWindow s = .next (s.after fun b =>
       raiseEvent 0x0D 0 0xFF 0xFF (strangerLast b) 0 { b with keys := { b.keys with strangerMark := n, strangerMs := some ms } }))) ∧
    (s.blk.route.staleEpoch = s.blk.route.staleMark ∨ s.blk.route.staleMs = some ms → Machine.exec .staleEpochWindow s = .next (s.after id)) ∧
    (s.blk.route.staleEpoch ≠ s.blk.route.staleMark → s.blk.route.staleMs ≠ some ms → Machine.exec .staleEpochWindow s = .next (s.after fun b =>
      raiseEvent 0x0E 0 0xFF 0xFF (staleLast b) 0 { b with route := { b.route with staleMark := b.route.staleEpoch, staleMs := some ms } }))

/-! ### The fabric manager and resets (12, 16) -/

/-- The control message at the head of the queue. A WRITE or WRITE_BLOCK waits, starting the clock, while an item
needs it; else its items are applied in order up to the first refused. A fresh sequence is applied, recorded and
answered with the outcome; one recorded is answered from the record, DUP being 1, and not applied again; one too old
is counted and discarded. READ_BLOCK is answered with the values, ACCESS from the first offset in the security block
on. The notices act once each, an undefined one is ACCESS. A REPORT_ACK ends its report, and the others are sent
again. With both cellarers lost none acts. The model's choices are log 17. -/
def Obligations.ControlMessagesAct : Prop :=
  ∀ (s : State) (m : CtlMsg) (ms : List CtlMsg), s.blk.fm.queue = m :: ms →
    let head (b : Block) : Block := { b with fm := { b.fm with queue := ms } }
    let once (f : Block → Status × Nat × Block) : Host.Outcome State Fault Refusal :=
      match copyOf s.blk (mSeq m) with
      | .tooOld => .next (s.after fun b => let b := head b; { b with fm := { b.fm with tooOld := b.fm.tooOld + 1 } })
      | .duplicate st i => .next (s.after fun b => let b := head b
          respond m true st i [] { b with fm := { b.fm with duplicates := b.fm.duplicates + 1 } })
      | .fresh => .next (s.after fun b =>
          let r := f (head b)
          respond m false r.1.code r.2.1 [] (recordOutcome (mSeq m) r.1.code r.2.1 r.2.2))
    let lost := s.blk.maint.lost
    let idle : Host.Outcome State Fault Refusal := .next (s.after id)
    (lost = true → Machine.exec .fmWrite s = idle ∧ Machine.exec .writeBlock s = idle ∧ Machine.exec .readBlock s = idle ∧
      Machine.exec .noticeDiverged s = idle ∧ Machine.exec .noticePeerFault s = idle ∧ Machine.exec .noticeUndefined s = idle ∧
      Machine.exec .reportAck s = idle ∧ Machine.exec .reportResend s = idle) ∧
    (lost = false → itemsWait m s.start = true →
      (mKind m = 1 → Machine.exec .fmWrite s = .next (s.after startClock)) ∧
      (mKind m = 2 → Machine.exec .writeBlock s = .next (s.after startClock))) ∧
    (lost = false → itemsWait m s.start = false →
      (mKind m = 1 → Machine.exec .fmWrite s = once (applyItems s.lees 0 (itemsOf m))) ∧
      (mKind m = 2 → Machine.exec .writeBlock s = once (applyItems s.lees 0 (itemsOf m)))) ∧
    (lost = false → mKind m = 3 → Machine.exec .readBlock s = .next (s.after fun b =>
      let b := head b
      let good := ((List.range (mCount m)).map fun i => mOffset m + 8 * i).takeWhile fun o => !inSecurity o
      let vals := good.map fun o => readPath .fm s.lees b (Reg.ofOffset o)
      let st : Status := if good.length = mCount m then .ok else .access
      respond m false st.code good.length
        ((vals ++ List.replicate (mCount m - good.length) (0 : Word)).flatMap fun v => natBytes 8 v.toNat) b)) ∧
    (lost = false → mKind m = 4 →
      (mCode m = 1 → Machine.exec .noticeDiverged s = once fun b => (.ok, 0, noticeDiverged (bits m.w1 119 110) (bits m.w1 109 78) b)) ∧
      (mCode m = 2 → Machine.exec .noticePeerFault s = once fun b =>
        (.ok, 0, raiseEvent 0x11 0 0xFF 0xFF (BitVec.ofNat 64 (bits m.w1 119 107)) 0 b)) ∧
      (mCode m ≠ 1 → mCode m ≠ 2 → Machine.exec .noticeUndefined s = once fun b => (.access, 0, b))) ∧
    (lost = false → mKind m = 5 → Machine.exec .reportAck s = .next (s.after fun b =>
      let b := head b
      { b with fm := { b.fm with reports := b.fm.reports.filter fun r => r.seq != mSeq m } })) ∧
    (lost = false → Machine.exec .reportResend s = .next (s.after fun b => b.each b.fm.reports transmitReport))

/-- Resets of an engine and of a partition. RST.ENGINE of a unit already in reset, or during a block reset, is
answered BUSY_ACTIVE; else the unit's reset starts. PRESS and FERRY end once no instance that the reset ended is left;
XLAT once no use is left, or, at its bound, with the contexts of those left frozen. RST.PARTITION freezes, dumps and
resets the contexts bound to the partition; it ends when none is in reset and no packet naming the partition is held,
and raises RESET_DONE. The model's choices are logs 51 and 88. -/
def Obligations.EnginesAndPartitionsReset : Prop :=
  ∀ (s : State) (p : Path),
    (s.blk.Writable p 0xB0000 → ∀ u : EngUnit,
      let go : Host.Outcome State Fault Refusal := match u with
        | .press => Machine.exec (.engineResetPress p) s
        | .ferry => Machine.exec (.engineResetFerry p) s
        | .xlat => Machine.exec (.engineResetXlat p) s
      (s.blk.maint.block = true ∨ u ∈ s.blk.maint.engines → go = .next (s.after (rstStatus .busyActive))) ∧
      (s.blk.maint.block = false → u ∉ s.blk.maint.engines → go = .next (s.after fun b =>
        rstStatus .ok (resetUnit u { b with maint := { b.maint with engines := b.maint.engines ++ [u] } })))) ∧
    (∀ u : EngUnit,
      (u ∉ s.blk.maint.engines → Machine.exec (.engineResetDone u) s = .next (s.after id)) ∧
      (u ∈ s.blk.maint.engines → u = .press ∨ u = .ferry →
        ((s.blk.press.insts.any fun x => x.2.st == .ending && unitInst u x.2) = true →
          Machine.exec (.engineResetDone u) s = .next (s.after id)) ∧
        ((s.blk.press.insts.any fun x => x.2.st == .ending && unitInst u x.2) = false →
          Machine.exec (.engineResetDone u) s = .next (s.after (endEngineReset u .ok))))) ∧
    (EngUnit.xlat ∈ s.blk.maint.engines →
      let cs := ((invUses s.start xlatReset).map fun u => u.ctx).eraseDups.filter (ctxRuns s.start)
      (cs = [] → Machine.exec (.engineResetDone .xlat) s = .next (s.after (endEngineReset .xlat .ok))) ∧
      (cs ≠ [] → Machine.exec (.engineResetDone .xlat) s = .next (s.after fun b =>
        let b := b.each cs fun c b => freezeCtx c 7 .busyDraining 0xFF 0xFF 0 b
        endEngineReset .xlat .busyDraining { b with maint := { b.maint with
          frozen := BitVec.ofNat 16 ((cs.map fun c => 2 ^ c).foldl (· + ·) 0) } }))) ∧
    (∀ part : Part,
      (s.blk.Writable p 0xB0008 →
        (s.blk.maint.block = true ∨ part.val ∈ s.blk.maint.parts →
          Machine.exec (.partitionReset p part) s = .next (s.after (rstStatus .busyActive))) ∧
        (s.blk.maint.block = false → part.val ∉ s.blk.maint.parts →
          Machine.exec (.partitionReset p part) s = .next (s.after fun b =>
            let b := rstStatus .ok { b with maint := { b.maint with parts := b.maint.parts ++ [part.val] } }
            let b := b.each (partCtxs b part) coreCtxFreeze
            let b := b.each (partCtxs b part) fun c b => (dumpCtx c b).modCtx c fun x => { x with st := .resetting }
            partStep part b))) ∧
      (part.val ∉ s.blk.maint.parts ∨ partBusy s.start part = true ∨ partHeld s.start part = true →
        Machine.exec (.partitionResetDone part) s = .next (s.after id)) ∧
      (part.val ∈ s.blk.maint.parts → partBusy s.start part = false → partHeld s.start part = false →
        Machine.exec (.partitionResetDone part) s = .next (s.after fun b =>
          raiseEvent 0x14 0 0xFF 1 (w64 part) 0
            (rstStatus .ok { b with maint := { b.maint with parts := b.maint.parts.filter fun x => x != part.val } }))))

/-- The block reset and power-on. A block reset asked for by a path, or by the tray's pin where its strap allows,
dumps the block into the lees, takes pm_alive down and boots; during one it is answered BUSY_ACTIVE. It ends when the
boot is done and every strait has settled: pm_alive is 1, and the event and the report follow, then the reports of the boot. Release of por_n leaves
every register at its reset value, with the straps sampled; at power-on ready the lees are cleared and an image is
awaited. The model's choices are log 64. -/
def Obligations.BlockResetsAndPowerOn : Prop :=
  ∀ (s : State),
    let reset (cause : Nat) := State.after s fun b => startBoot (resetBlock ((dumpBlock cause b).emit (.pmAlive false)))
    (∀ p : Path, s.blk.Writable p 0xB0010 →
      (s.blk.maint.block = true → Machine.exec (.blockReset p 0xD1B3) s = .next (s.after (rstStatus .busyActive))) ∧
      (s.blk.maint.block = false → Machine.exec (.blockReset p 0xD1B3) s = .next (reset (resetCause p))) ∧
      (∀ c : BitVec 16, c ≠ 0xD1B3 → Machine.exec (.blockReset p c) s = .next (s.after id))) ∧
    (bitAt s.blk.maint.straps 2 = false → Machine.exec .blkRstReq s = .next (s.after id)) ∧
    (bitAt s.blk.maint.straps 2 = true → s.blk.maint.block = false → Machine.exec .blkRstReq s = .next (reset 3)) ∧
    (bitAt s.blk.maint.straps 2 = true → s.blk.maint.block = true → Machine.exec .blkRstReq s = .next (s.after (rstStatus .busyActive))) ∧
    (let settled := ∀ n < 32, straitSettled (s.blk.strait n) = true
     (s.blk.maint.boot = .done → settled → Machine.exec .blockResetDone s = .next (s.after fun b =>
       let b := rstStatus .ok { b with
         maint := { b.maint with block := false, boot := .idle, cold := false }
         pwr := { b.pwr with alive := true } }
       let held := b.fm.heldReports
       let b := sendReport 0x05 [] (raiseEvent 0x14 0 0xFF 2 0 0 (({ b with fm := { b.fm with heldReports := [] } } : Block).emit (.pmAlive true)))
       Block.each held (fun x => sendReport x.1 x.2) b)) ∧
     (s.blk.maint.boot ≠ .done ∨ ¬ settled → Machine.exec .blockResetDone s = .next (s.after id))) ∧
    (∀ straps : Word, Machine.exec (.porRelease straps) s = .next (s.after fun b =>
      ({ Block.reset with
         out := b.out
         free := b.free
         pwr := { alive := false }
         straits := (List.range 32).map fun n =>
           (n, { cls := shotrumClass n, oeReady := (b.strait n).oeReady, oeFault := (b.strait n).oeFault })
         maint := { block := true, cold := true, boot := .powerUp, straps := keep straps 63 32 ||| keep straps 2 1 } }).emit
        (.pmAlive false))) ∧
    (s.blk.maint.boot = .powerUp → Machine.exec .powerOnReady s = .next (s.after fun b =>
      leesOp (.clear 0 leesBytes) { b with maint := { b.maint with boot := .waitImage } })) ∧
    (s.blk.maint.boot ≠ .powerUp → Machine.exec .powerOnReady s = .next (s.after id))

/-! ### Maintenance, firmware and the service port (16, 17) -/

/-- Maintenance registers. LEES.DUMP copies a FROZEN context into a slot, and the slots named in LEES.SLOTS become
free. An acquire takes a token that is free or the requester's own, BUSY naming the holder where another has it; a
release gives back the requester's own; a resource not listed is ACCESS. The BIST starts under the CELLAR token where
nothing is held that it would overwrite, and asks 16 units; its end returns them and the token and raises BIST_DONE.
QUAR.LIFT removes a held entry that no transfer maintains. The model's choices are log 67. -/
def Obligations.MaintenanceActs : Prop :=
  ∀ (s : State) (p : Path),
    (∀ c : Ctx, s.blk.Writable p 0xB0310 →
      ((s.blk.ctx c).st = .frozen → Machine.exec (.leesDump p c) s = .next (s.after (dumpCtx c))) ∧
      ((s.blk.ctx c).st ≠ .frozen → Machine.exec (.leesDump p c) s = .next (s.after id))) ∧
    (∀ mask : BitVec 11, s.blk.Writable p 0xB0308 → Machine.exec (.leesSlotsClear p mask) s = .next (s.after fun b =>
      let gone := (List.range 11).filter fun k => bitAt mask k && bitAt b.evt.slots k
      Block.each gone (fun k b => leesOp (.clear (0x100 + 32 * k) 1) b)
        { b with evt := { b.evt with slots := w1c b.evt.slots mask } })) ∧
    (∀ res : Byte, s.blk.Writable p 0xB0100 →
      let r := res.toNat
      let h := p.holder
      let answer (st : Status) (holder : Nat) := State.after s (maintStatus h r st holder)
      (0x24 ≤ r → Machine.exec (.maintAcquire p res) s = .next (answer .access 0) ∧
        Machine.exec (.maintRelease p res) s = .next (answer .access 0)) ∧
      (r < 0x24 → tokenBusy s.blk r h = true → Machine.exec (.maintAcquire p res) s = .next (answer .busy (s.blk.token r).holder)) ∧
      (r < 0x24 → tokenBusy s.blk r h = false → r = resPress → s.blk.press.permit = .held →
        Machine.exec (.maintAcquire p res) s = .next (answer .busyActive 0)) ∧
      (r < 0x24 → tokenBusy s.blk r h = false → (r ≠ resPress ∨ s.blk.press.permit ≠ .held) →
        Machine.exec (.maintAcquire p res) s = .next (s.after fun b => maintStatus h r .ok 0 (b.setToken r { holder := h, explicit := true }))) ∧
      (r < 0x24 → (s.blk.token r).holder ≠ h → Machine.exec (.maintRelease p res) s = .next (answer .access 0)) ∧
      (r < 0x24 → (s.blk.token r).holder = h → Machine.exec (.maintRelease p res) s = .next (s.after fun b =>
        let b := maintStatus h r .ok 0 (b.setToken r {})
        if r = resPress then pressAgain b else b))) ∧
    (s.blk.Writable p 0xB0180 →
      let x := s.blk.maint
      let busy := tokenBusy s.blk resCellar p.holder
      (x.bistState = 1 ∨ (busy = false ∧ bistClear s.start = false) → Machine.exec (.bistStart p) s = .next (s.after (bistStatus .busyActive))) ∧
      (x.bistState ≠ 1 → busy = true → Machine.exec (.bistStart p) s = .next (s.after (bistStatus .busy))) ∧
      (x.bistState ≠ 1 → busy = false → bistClear s.start = true → Machine.exec (.bistStart p) s = .next (s.after fun b =>
        let b := bistStatus .ok (takeToken resCellar p.holder b)
        askPermit .bist 16 { b with maint := { b.maint with
          bistState := 1, bistWaiting := true, bistErrors := 0, bistFirst := 0, bistHolder := p.holder } }))) ∧
    (∀ errors first : BitVec 24,
      (s.blk.maint.bistState ≠ 1 ∨ s.blk.maint.bistWaiting = true → Machine.exec (.bistDone errors first) s = .next (s.after id)) ∧
      (s.blk.maint.bistState = 1 → s.blk.maint.bistWaiting = false → Machine.exec (.bistDone errors first) s = .next (s.after fun b =>
        raiseEvent 0x16 0 0xFF 0xFF (BitVec.setWidth 64 errors) (BitVec.setWidth 64 first)
          (endToken resCellar (returnUnits 16 { b with maint := { b.maint with
            bistState := if errors = 0 then 2 else 3, bistErrors := errors, bistFirst := first } }))))) ∧
    (∀ k : Fin 32, s.blk.Writable p 0xB0500 →
      let used := ∃ e < 16, (s.blk.rack e).maintValid = true ∧ (s.blk.rack e).maintEntry.toNat = k.val
      let answer (st : Status) (b : Block) : Block := { b with maint := { b.maint with quarStatus := st.code } }
      (used → Machine.exec (.quarLift p k) s = .next (s.after (answer .busyActive))) ∧
      (¬ used → tget none s.blk.home.quar k = none → Machine.exec (.quarLift p k) s = .next (s.after (answer .access))) ∧
      (¬ used → tget none s.blk.home.quar k ≠ none → Machine.exec (.quarLift p k) s = .next (s.after fun b =>
        answer .ok { b with home := { b.home with quar := tset b.home.quar k none } })))

/-- Firmware and cellarers. ACTIVATE boots a STAGED image on a healthy standby and asks the RoT to verify it;
another's token or a staging is BUSY, a calibration BUSY_ACTIVE, no such image or standby NOT_READY. An activation
that verified and tested well runs the image and hands control to the other cellarer; else the image is BAD. A standby
that passes its self-test counts it. When the active cellarer misses its heartbeat a healthy standby takes over; with
none both are lost. The model's choices are logs 65, 66, 84 and 85. -/
def Obligations.FirmwareAndCellarersAct : Prop :=
  ∀ (s : State),
    let x := s.blk.maint
    let standby := match activeCellarer s.blk with
      | some a => if standbyHealthy s.blk (1 - a) then some (1 - a) else none
      | none => none
    (∀ p : Path, s.blk.Writable p 0xB0200 →
      let busy := tokenBusy s.blk resFwslot p.holder = true ∨ x.bState = .staging
      (busy → Machine.exec (.fwActivate p) s = .next (s.after (fwStatus .busy))) ∧
      (¬ busy → calibrating s.start = true → Machine.exec (.fwActivate p) s = .next (s.after (fwStatus .busyActive))) ∧
      (¬ busy → calibrating s.start = false → (x.bState ≠ .staged ∨ standby = none) →
        Machine.exec (.fwActivate p) s = .next (s.after (fwStatus .notReady))) ∧
      (∀ k, ¬ busy → calibrating s.start = false → x.bState = .staged → standby = some k →
        Machine.exec (.fwActivate p) s = .next (s.after fun b =>
          let b := takeToken resFwslot p.holder (fwStatus .ok b)
          let b := b.modCellarer k fun c => { c with role := .booting }
          let b := { b with maint := { b.maint with
            bState := .booting, activating := true, actHolder := p.holder, verified := none } }
          mboxPut [verifyMsg b] b))) ∧
    (∀ ok : Bool,
      (x.verified = none ∨ (x.boot ≠ .verifying ∧ x.activating = false) → Machine.exec (.fwActivateDone ok) s = .next (s.after id)) ∧
      (∀ v, x.verified = some v → x.boot ≠ .verifying → x.activating = true →
        let ended (b : Block) : Block := endToken resFwslot { b with maint := { b.maint with activating := false } }
        (v = true → ok = true → Machine.exec (.fwActivateDone ok) s = .next (s.after fun b =>
          let b := runStaged (ended b)
          let b := match activeCellarer b with
            | some a => takeOver a (1 - a) 0 b
            | none => b
          mboxPut settingsReads (firmwareEvent 1 x.stagedVersion .ok b))) ∧
        (v = false ∨ ok = false → Machine.exec (.fwActivateDone ok) s = .next (s.after fun b =>
          let b := ended b
          let r := freeStatus { b with maint := { b.maint with bState := .bad, verified := none } }
          firmwareEvent 2 x.stagedVersion r.1 (fwStatus r.1 r.2)))) ∧
      (∀ v, x.verified = some v → x.boot = .verifying →
        (v = true → ok = true → Machine.exec (.fwActivateDone ok) s = .next (s.after fun b =>
          let b := runStaged b
          mboxPut settingsReads (cellarersRun (firmwareEvent 1 x.stagedVersion .ok { b with maint := { b.maint with cold := false } })))) ∧
        (v = false ∨ ok = false → Machine.exec (.fwActivateDone ok) s = .next (s.after fun b =>
          let r := freeStatus { b with maint := { b.maint with bState := .bad, verified := none } }
          startBoot (firmwareEvent 2 x.stagedVersion r.1 r.2))))) ∧
    (∀ k : Fin 2,
      let up (b : Block) : Block := b.modCellarer k fun c =>
        { c with role := .standby, selftests := c.selftests + 1, lastPass := b.time.loc }
      let role := (s.blk.cellarer k).role
      let boots := (activeCellarer s.blk).isSome = true ∧ x.activating = false
      (role = .standby → Machine.exec (.standbySelftestPass k) s = .next (s.after up)) ∧
      (role = .booting → boots → Machine.exec (.standbySelftestPass k) s = .next (s.after fun b =>
        up { b with maint := { b.maint with restarting := false } })) ∧
      ((role = .active ∨ role = .failed ∨ (role = .booting ∧ ¬ boots)) → Machine.exec (.standbySelftestPass k) s = .next (s.after id))) ∧
    (∀ fault : Byte,
      (activeCellarer s.blk = none → Machine.exec (.cellarerHeartbeatMiss fault) s = .next (s.after id)) ∧
      (∀ a, activeCellarer s.blk = some a →
        let miss (b : Block) : Block := b.modCellarer a fun c => { c with faultCode := fault }
        (standbyHealthy (miss s.start) (1 - a) = true →
          Machine.exec (.cellarerHeartbeatMiss fault) s = .next (s.after fun b => takeOver a (1 - a) fault (miss b))) ∧
        (standbyHealthy (miss s.start) (1 - a) = false →
          Machine.exec (.cellarerHeartbeatMiss fault) s = .next (s.after fun b =>
            let b := dropCellarerTokens ((miss b).modCellarer a fun c => { c with role := .failed })
            raiseEvent 0x13 0 0xFF a (BitVec.setWidth 64 fault) 0 { b with
              maint := { b.maint with lost := true }
              time := { b.time with locked := false }
              straits := b.straits.map fun y => (y.1, if y.2.st = StraitSt.off then { y.2 with wake := .none } else y.2) }))))

/-- The service port and the mailbox. READ_STATUS and READ put the status word or the lees' bytes on the port. Staging
begins by taking FWSLOT and emptying the B slot; a page lands in it; STAGE_END makes the image STAGED where its pages
cover its length, and else BAD; STAGE_ABORT empties it. A command that comes while one is refused records why and does
no more. A reply of the RoT acts only on the message that asked for it. The model's choices are logs 83 and 86. -/
def Obligations.ServiceAndMailboxAct : Prop :=
  ∀ (s : State),
    let x := s.blk.maint
    let idle := State.after s id
    let off := stagingOff s.start
    let why := svcRefused s.start
    (portsReady s.blk = true → Machine.exec .readStatus s = .next (s.after fun b => b.emit (.service (natBytes 8 (serviceStatus b).toNat).reverse))) ∧
    (∀ (addr : BitVec 32) (len : Nat), portsReady s.blk = true → Machine.exec (.svcRead addr len) s = .next (s.after fun b =>
      b.emit (.service ((List.range len).map fun i => if addr.toNat + i < leesBytes then lget s.lees (addr.toNat + i) else 0)))) ∧
    (∀ (addr : BitVec 32) (len : Nat), portsReady s.blk = false →
      Machine.exec .readStatus s = .next idle ∧ Machine.exec (.svcRead addr len) s = .next idle) ∧
    (∀ (addr : BitVec 32) (data : List Byte) (len : BitVec 32), off = true →
      Machine.exec .stageBegin s = .next idle ∧ Machine.exec (.svcWrite addr data) s = .next idle ∧
      Machine.exec (.stageEnd len) s = .next idle ∧ Machine.exec .stageAbort s = .next idle) ∧
    (∀ (st : Status) (addr : BitVec 32) (data : List Byte) (len : BitVec 32), off = false → why = some st →
      let said := s.after (svcLast st)
      Machine.exec .stageBegin s = .next said ∧ Machine.exec (.svcWrite addr data) s = .next said ∧ Machine.exec (.stageEnd len) s = .next said) ∧
    (off = false → why = none →
      Machine.exec .stageBegin s = .next (s.after fun b =>
        svcLast .ok (takeToken resFwslot Path.cellarer.holder { b with maint := { b.maint with
          bState := .staging, stagedVersion := 0, pages := [], imageLen := 0 } })) ∧
      (∀ (addr : BitVec 32) (data : List Byte),
        let a := addr.toNat
        let good := x.bState = .staging ∧ 0x01000000 ≤ a ∧ a < 0x01400000 ∧ a % 256 = 0 ∧ data ≠ [] ∧ data.length ≤ 256
        (good → Machine.exec (.svcWrite addr data) s = .next (s.after fun b =>
          svcLast .ok { b with maint := { b.maint with svcBusy := true, pages := tset b.maint.pages ((a - 0x01000000) / 256) data } })) ∧
        (¬ good → Machine.exec (.svcWrite addr data) s = .next (s.after (svcLast .access)))) ∧
      (∀ len : BitVec 32,
        let n := len.toNat
        let whole := 1 ≤ n ∧ n ≤ 4194304 ∧ pagesCover x.pages n = true
        (x.bState ≠ .staging → Machine.exec (.stageEnd len) s = .next (s.after (svcLast .access))) ∧
        (x.bState = .staging → ¬ whole → Machine.exec (.stageEnd len) s = .next (s.after fun b =>
          let b := endToken resFwslot b
          svcLast .access { b with maint := { b.maint with bState := .bad } })) ∧
        (x.bState = .staging → whole → Machine.exec (.stageEnd len) s = .next (s.after fun b =>
          let b := endToken resFwslot b
          let b := { b with maint := { b.maint with bState := .staged, imageLen := n } }
          let v := Config.imageVersion ((stagedImage b).getD [])
          let b := firmwareEvent 0 v .ok (svcLast .ok { b with maint := { b.maint with stagedVersion := v } })
          if b.maint.boot = .waitImage then startBoot b else b)))) ∧
    (off = false → x.bState ≠ .booting → Machine.exec .stageAbort s = .next (s.after fun b =>
      let b := if (b.token resFwslot).holder = Path.cellarer.holder then endToken resFwslot b else b
      svcLast .ok { b with maint := { b.maint with bState := .empty, stagedVersion := 0, pages := [], imageLen := 0 } })) ∧
    Machine.exec .pageHeld s = .next (s.after fun b => { b with maint := { b.maint with svcBusy := false } }) ∧
    (x.lost = false →
      (∀ pass : Bool, x.mbox = some .verify → Machine.exec (.verifyResult pass) s = .next (s.after fun b =>
        mboxDone { b with maint := { b.maint with verified := some pass } })) ∧
      (∀ type strait, x.mbox = some (.read type strait) → Machine.exec .settingsNone s = .next (s.after fun b =>
        settingsStep (mboxDone (settingsReply b)))) ∧
      (∀ type strait body, x.mbox = some (.write type strait body) → Machine.exec .settingsAck s = .next (s.after fun b =>
        settingsStep (mboxDone (useSetting type strait body b)))) ∧
      (∀ type strait ws, x.mbox = some (.read type strait) →
        let bs := recordBytes ws
        let len := bytesNat (slice bs 2 2)
        let body := slice bs 16 len
        let v := (byteAt bs 1).toNat
        let own := (Config.imageReads x.runImage (byteAt bs 0)).toNat
        let good := (byteAt bs 0).toNat = type ∧ (byteAt bs 4).toNat = strait ∧ 16 + len ≤ bs.length ∧
          (crc32c body).toNat = bytesNat (slice bs 8 4)
        (¬ good ∨ own < v → Machine.exec (.settingsRecord ws) s = .next (s.after fun b =>
          settingsStep (mboxDone (discardSetting (settingsReply b))))) ∧
        (good → v = own → Machine.exec (.settingsRecord ws) s = .next (s.after fun b =>
          settingsStep (mboxDone (useSetting type strait body (settingsReply b))))) ∧
        (good → v < own → Machine.exec (.settingsRecord ws) s = .next (s.after fun b =>
          let b := settingsReply b
          let moved := Config.migrateBody x.runImage (byteAt bs 0) body
          let r := settingsRecord type own strait moved
          let words := w64 0x02 :: (List.range (ceilDiv r.length 8)).map fun i => w64 (bytesNat (slice r (8 * i) 8))
          mboxNext { b with maint := { b.maint with
            mbox := none, mboxQueue := (words, Mbox.write type strait moved) :: b.maint.mboxQueue } })))) ∧
    (∀ (pass : Bool) (ws : List Word),
      (x.lost = true ∨ x.mbox ≠ some .verify → Machine.exec (.verifyResult pass) s = .next idle) ∧
      (x.lost = true ∨ (∀ type strait, x.mbox ≠ some (.read type strait)) →
        Machine.exec .settingsNone s = .next idle ∧ Machine.exec (.settingsRecord ws) s = .next idle) ∧
      (x.lost = true ∨ (∀ type strait body, x.mbox ≠ some (.write type strait body)) → Machine.exec .settingsAck s = .next idle))

/-! ### The register window and frames (18) -/

/-- An offset that no table assigns to a register reads 0, and a write to it changes nothing: the sixteen blocks of
the window, the strides of their instances and the offsets beyond them. -/
def Obligations.UnassignedOffsetsReadZeroAndIgnoreWrites : Prop :=
  ∀ (s : State) (p : Path) (off : BitVec 24) (v : Word), off.toNat % 8 = 0 → (Reg.ofOffset off.toNat).known = false →
    readPath p s.lees s.blk (Reg.ofOffset off.toNat) = 0 ∧
    (portsReady s.blk = true → Machine.exec (.registerWrite p off true v) s = .next (s.after id))

/-- What the spec gives as values after reset, as registers read them: the capability words, the tag limit and the
release TAGS_HELD of a context, the states of contexts, sequencers, engines, instances, straits, slots and banks, no
token held, no tally set, and an empty lees. -/
def Obligations.RegistersAtResetReadTheirValues : Prop :=
  let r := readReg [] Block.reset
  (∀ c < 16, r (.ctx c 0x000) = 0 ∧ r (.ctx c 0x010) = 0 ∧ r (.ctx c 0x040) = 12288 ∧ r (.ctx c 0x048) = 0 ∧ r (.xctx c 0x08) = 0) ∧
  (∀ q < 64, r (.seq q 0x000) = 0 ∧ r (.seq q 0x008) = 0 ∧ r (.seq q 0x030) = 0 ∧ r (.seq q 0x048) = 0 ∧ r (.seq q 0x050) = 0) ∧
  (∀ e < 16, r (.rack e 0x000) = 0 ∧ r (.rack e 0x010) = 0 ∧ r (.rack e 0x018) = 0) ∧
  (∀ i < 256, r (.inst i 0) = 0) ∧ (∀ n < 32, r (.strait n 0x010) = 0) ∧
  (∀ c n, r (.tally c n) = 0) ∧ (∀ o, r (.lees o) = 0) ∧
  (∀ k < 16, readPath .rot [] Block.reset (.sec (0x100 + 0x20 * k)) = 0) ∧ State.reset.pending = []

/-- The frame of writes that only configure. Where nothing waits, each changes its own part of the block, and at most
the generation of the measured configuration; the registers of every other part and the lees stay as they were. -/
def Obligations.ConfigurationWritesFrame : Prop :=
  ∀ (s t : State) (p : Path) (v : Word), s.Inv → s.blk.Quiet →
    (∀ (m : MeterId) (size : Bool), Machine.exec (.meterSettingWrite p m size v) s = .next t → s.blk.dpRuns = true →
      ∃ x e g w, t.lees = s.lees ∧ t.blk = { s.start with kicked := w, meters := x, evt := e, keys := { s.start.keys with generation := g } } ∧
        (∀ k, k ≠ m.val → t.blk.meter k = s.blk.meter k)) ∧
    (∀ (k : BankId) (a : BankTarget), Machine.exec (.bankEntryWrite p k a v) s = .next t → s.blk.dpRuns = true →
      ∃ x e g w, t.lees = s.lees ∧ t.blk = { s.start with kicked := w, route := x, evt := e, keys := { s.start.keys with generation := g } } ∧
        t.blk.bank (1 - k.val) = s.blk.bank (1 - k.val)) ∧
    (Machine.exec (.evtRingEnable p v) s = .next t →
      ∃ e g, t.lees = s.lees ∧ t.blk = { s.start with evt := e, keys := { s.start.keys with generation := g } }) ∧
    (Machine.exec .pageHeld s = .next t →
      ∃ m g, t.lees = s.lees ∧ t.blk = { s.start with maint := m, keys := { s.start.keys with generation := g } })

/-- What a DUMP changes. One that names a context not FROZEN is ignored. One that names a FROZEN context, on a block
whose tables have no entry outside their instances and where nothing waits, writes in the lees its slot and the slot's
directory entry alone, every other byte reading as before, and in the block the record of its slots alone (the count
of measured changes may follow). -/
def Obligations.DumpsStayInTheirSlot : Prop :=
  ∀ (s t : State) (p : Path) (c : Ctx), s.Inv → s.blk.Quiet → s.blk.Writable p 0xB0310 →
    Machine.exec (.leesDump p c) s = .next t →
    ((s.blk.ctx c).st ≠ .frozen → t.lees = s.lees ∧ ∃ g, t.blk = { s.start with keys := { s.start.keys with generation := g } }) ∧
    ((s.blk.ctx c).st = .frozen → (∀ x ∈ s.blk.egress, x.1 < 32) → (∀ e < 16, (s.blk.rack e).queue.length ≤ 8) →
      (∃ e g, t.blk = { s.start with evt := e, keys := { s.start.keys with generation := g } }) ∧
      let k := (dumpSlot s.blk).1
      ∀ a, ¬ (0x150000 + 0x10000 * k ≤ a ∧ a < 0x150000 + 0x10000 * (k + 1)) → ¬ (0x100 + 32 * k ≤ a ∧ a < 0x120 + 32 * k) →
        lget t.lees a = lget s.lees a)
end

