-- ==== Sys2Proof/Laws/Tables.lean ====
section
/-!
SUPPORT. Tables: what is read back after an entry is set, changed or deleted, and access to the parts of the block
after they are changed.
-/

namespace Sys2Proof.Machine

theorem tget_tset {α : Type} (d : α) (t : Tbl α) (k n : Nat) (x : α) :
    tget d (tset t k x) n = if n = k then x else tget d t n := by
  induction t with
  | nil => simp [tset, tget]
  | cons e r ih =>
    obtain ⟨j, v⟩ := e
    unfold tset
    split
    · simp only [tget]
    · split
      · subst_vars
        simp only [tget]
        split <;> rfl
      · simp only [tget, ih]
        split
        · subst_vars
          rw [if_neg (by omega)]
        · rfl

@[simp] theorem tget_tset_same {α : Type} (d : α) (t : Tbl α) (k : Nat) (x : α) : tget d (tset t k x) k = x := by
  simp [tget_tset]

theorem tget_tset_other {α : Type} (d : α) (t : Tbl α) (k n : Nat) (x : α) (h : n ≠ k) :
    tget d (tset t k x) n = tget d t n := by simp [tget_tset, h]

@[simp] theorem tget_tmod_same {α : Type} (d : α) (t : Tbl α) (k : Nat) (f : α → α) :
    tget d (tmod d t k f) k = f (tget d t k) := by simp [tmod]

theorem tget_tmod_other {α : Type} (d : α) (t : Tbl α) (k n : Nat) (f : α → α) (h : n ≠ k) :
    tget d (tmod d t k f) n = tget d t n := by simp [tmod, tget_tset, h]

theorem tget_tdel {α : Type} (d : α) (t : Tbl α) (k n : Nat) :
    tget d (tdel t k) n = if n = k then d else tget d t n := by
  induction t with
  | nil => simp [tdel, tget]
  | cons e r ih =>
    obtain ⟨j, v⟩ := e
    simp only [tdel] at ih ⊢
    by_cases hj : j = k
    · subst hj
      rw [List.filter_cons_of_neg (by simp), ih, tget]
      split
      · rfl
      · rfl
    · rw [List.filter_cons_of_pos (by simp [hj]), tget, tget, ih]
      split
      · subst_vars
        rw [if_neg hj]
      · rfl

@[simp] theorem tset_tset {α : Type} (t : Tbl α) (k : Nat) (x y : α) : tset (tset t k x) k y = tset t k y := by
  induction t with
  | nil => simp [tset]
  | cons e r ih =>
    obtain ⟨j, v⟩ := e
    by_cases h1 : k < j
    · simp [tset, h1]
    · by_cases h2 : k = j
      · subst h2; simp [tset]
      · simp [tset, h1, h2, ih]

@[simp] theorem tmod_tmod {α : Type} (d : α) (t : Tbl α) (k : Nat) (f g : α → α) :
    tmod d (tmod d t k f) k g = tmod d t k fun x => g (f x) := by simp [tmod]

/-- Two changes of one sequencer are one. -/
@[simp] theorem Block.modSeq_modSeq (b : Block) (q : Nat) (f g : Seq → Seq) :
    (b.modSeq q f).modSeq q g = b.modSeq q fun x => g (f x) := by simp [Block.modSeq]

@[simp] theorem Block.modCtx_modCtx (b : Block) (n : Nat) (f g : CtxRec → CtxRec) :
    (b.modCtx n f).modCtx n g = b.modCtx n fun x => g (f x) := by
  simp [Block.modCtx]

@[simp] theorem Block.modRack_modRack (b : Block) (n : Nat) (f g : Rack → Rack) :
    (b.modRack n f).modRack n g = b.modRack n fun x => g (f x) := by
  simp [Block.modRack]

@[simp] theorem Block.modStrait_modStrait (b : Block) (n : Nat) (f g : Strait → Strait) :
    (b.modStrait n f).modStrait n g = b.modStrait n fun x => g (f x) := by
  simp [Block.modStrait]

@[simp] theorem Block.modEg_modEg (b : Block) (n : Nat) (f g : Egress → Egress) :
    (b.modEg n f).modEg n g = b.modEg n fun x => g (f x) := by
  simp [Block.modEg]

@[simp] theorem Block.modMeter_modMeter (b : Block) (n : Nat) (f g : Meter → Meter) :
    (b.modMeter n f).modMeter n g = b.modMeter n fun x => g (f x) := by
  simp [Block.modMeter]

@[simp] theorem Block.modTide_modTide (b : Block) (n : Nat) (f g : Tide → Tide) :
    (b.modTide n f).modTide n g = b.modTide n fun x => g (f x) := by
  simp [Block.modTide]

@[simp] theorem Block.modInst_modInst (b : Block) (n : Nat) (f g : Inst → Inst) :
    (b.modInst n f).modInst n g = b.modInst n fun x => g (f x) := by
  simp [Block.modInst]

@[simp] theorem Block.modSlot_modSlot (b : Block) (n : Nat) (f g : KeySlot → KeySlot) :
    (b.modSlot n f).modSlot n g = b.modSlot n fun x => g (f x) := by
  simp [Block.modSlot]

@[simp] theorem Block.modInv_modInv (b : Block) (n : Nat) (f g : Inv → Inv) :
    (b.modInv n f).modInv n g = b.modInv n fun x => g (f x) := by
  simp [Block.modInv]

@[simp] theorem Block.modBank_modBank (b : Block) (n : Nat) (f g : Bank → Bank) :
    (b.modBank n f).modBank n g = b.modBank n fun x => g (f x) := by
  simp [Block.modBank]

@[simp] theorem Block.modCompat_modCompat (b : Block) (n : Nat) (f g : Compat → Compat) :
    (b.modCompat n f).modCompat n g = b.modCompat n fun x => g (f x) := by
  simp [Block.modCompat]

@[simp] theorem Block.modCellarer_modCellarer (b : Block) (n : Nat) (f g : Cellarer → Cellarer) :
    (b.modCellarer n f).modCellarer n g = b.modCellarer n fun x => g (f x) := by
  simp [Block.modCellarer]

@[simp] theorem Block.modCtx_ctx (b : Block) (k : Nat) (f : CtxRec → CtxRec) : (b.modCtx k f).ctx k = f (b.ctx k) :=
  tget_tmod_same _ _ _ _

theorem Block.modCtx_ctx_other (b : Block) (k n : Nat) (f : CtxRec → CtxRec) (h : n ≠ k) : (b.modCtx k f).ctx n = b.ctx n :=
  tget_tmod_other _ _ _ _ _ h

@[simp] theorem Block.modSeq_seq (b : Block) (k : Nat) (f : Seq → Seq) : (b.modSeq k f).seq k = f (b.seq k) :=
  tget_tmod_same _ _ _ _

theorem Block.modSeq_seq_other (b : Block) (k n : Nat) (f : Seq → Seq) (h : n ≠ k) : (b.modSeq k f).seq n = b.seq n :=
  tget_tmod_other _ _ _ _ _ h

@[simp] theorem Block.modRack_rack (b : Block) (k : Nat) (f : Rack → Rack) : (b.modRack k f).rack k = f (b.rack k) :=
  tget_tmod_same _ _ _ _

theorem Block.modRack_rack_other (b : Block) (k n : Nat) (f : Rack → Rack) (h : n ≠ k) : (b.modRack k f).rack n = b.rack n :=
  tget_tmod_other _ _ _ _ _ h

@[simp] theorem Block.modStrait_strait (b : Block) (k : Nat) (f : Strait → Strait) : (b.modStrait k f).strait k = f (b.strait k) :=
  tget_tmod_same _ _ _ _

theorem Block.modStrait_strait_other (b : Block) (k n : Nat) (f : Strait → Strait) (h : n ≠ k) : (b.modStrait k f).strait n = b.strait n :=
  tget_tmod_other _ _ _ _ _ h

@[simp] theorem Block.modEg_eg (b : Block) (k : Nat) (f : Egress → Egress) : (b.modEg k f).eg k = f (b.eg k) :=
  tget_tmod_same _ _ _ _

theorem Block.modEg_eg_other (b : Block) (k n : Nat) (f : Egress → Egress) (h : n ≠ k) : (b.modEg k f).eg n = b.eg n :=
  tget_tmod_other _ _ _ _ _ h

@[simp] theorem Block.modMeter_meter (b : Block) (k : Nat) (f : Meter → Meter) : (b.modMeter k f).meter k = f (b.meter k) :=
  tget_tmod_same _ _ _ _

theorem Block.modMeter_meter_other (b : Block) (k n : Nat) (f : Meter → Meter) (h : n ≠ k) : (b.modMeter k f).meter n = b.meter n :=
  tget_tmod_other _ _ _ _ _ h

@[simp] theorem Block.modTide_tide (b : Block) (k : Nat) (f : Tide → Tide) : (b.modTide k f).tide k = f (b.tide k) :=
  tget_tmod_same _ _ _ _

theorem Block.modTide_tide_other (b : Block) (k n : Nat) (f : Tide → Tide) (h : n ≠ k) : (b.modTide k f).tide n = b.tide n :=
  tget_tmod_other _ _ _ _ _ h

@[simp] theorem Block.modInst_inst (b : Block) (k : Nat) (f : Inst → Inst) : (b.modInst k f).inst k = f (b.inst k) :=
  tget_tmod_same _ _ _ _

theorem Block.modInst_inst_other (b : Block) (k n : Nat) (f : Inst → Inst) (h : n ≠ k) : (b.modInst k f).inst n = b.inst n :=
  tget_tmod_other _ _ _ _ _ h

@[simp] theorem Block.modSlot_slot (b : Block) (k : Nat) (f : KeySlot → KeySlot) : (b.modSlot k f).slot k = f (b.slot k) :=
  tget_tmod_same _ _ _ _

theorem Block.modSlot_slot_other (b : Block) (k n : Nat) (f : KeySlot → KeySlot) (h : n ≠ k) : (b.modSlot k f).slot n = b.slot n :=
  tget_tmod_other _ _ _ _ _ h

@[simp] theorem Block.modInv_inv (b : Block) (k : Nat) (f : Inv → Inv) : (b.modInv k f).inv k = f (b.inv k) :=
  tget_tmod_same _ _ _ _

theorem Block.modInv_inv_other (b : Block) (k n : Nat) (f : Inv → Inv) (h : n ≠ k) : (b.modInv k f).inv n = b.inv n :=
  tget_tmod_other _ _ _ _ _ h

@[simp] theorem Block.modBank_bank (b : Block) (k : Nat) (f : Bank → Bank) : (b.modBank k f).bank k = f (b.bank k) :=
  tget_tmod_same _ _ _ _

theorem Block.modBank_bank_other (b : Block) (k n : Nat) (f : Bank → Bank) (h : n ≠ k) : (b.modBank k f).bank n = b.bank n :=
  tget_tmod_other _ _ _ _ _ h

@[simp] theorem Block.modCompat_compat (b : Block) (k : Nat) (f : Compat → Compat) : (b.modCompat k f).compat k = f (b.compat k) :=
  tget_tmod_same _ _ _ _

theorem Block.modCompat_compat_other (b : Block) (k n : Nat) (f : Compat → Compat) (h : n ≠ k) : (b.modCompat k f).compat n = b.compat n :=
  tget_tmod_other _ _ _ _ _ h

@[simp] theorem Block.modCellarer_cellarer (b : Block) (k : Nat) (f : Cellarer → Cellarer) : (b.modCellarer k f).cellarer k = f (b.cellarer k) :=
  tget_tmod_same _ _ _ _

theorem Block.modCellarer_cellarer_other (b : Block) (k n : Nat) (f : Cellarer → Cellarer) (h : n ≠ k) : (b.modCellarer k f).cellarer n = b.cellarer n :=
  tget_tmod_other _ _ _ _ _ h

/-- A tally read back after it is set. -/
theorem Block.tallyOf_setTally (b : Block) (c n : Nat) (v : Word) : (b.setTally c n v).tallyOf c n = v :=
  tget_tset_same _ _ _ _

/-- Any other tally is as it was (R74). -/
theorem Block.tallyOf_setTally_other (b : Block) (c n c' n' : Nat) (v : Word) (h : 4096 * c' + n' ≠ 4096 * c + n) :
    (b.setTally c n v).tallyOf c' n' = b.tallyOf c' n' := tget_tset_other _ _ _ _ _ h

end Sys2Proof.Machine
end

