-- ==== Sys2Proof/Laws/Lees.lean ====
section
/-!
SUPPORT. The lees memory: every operation keeps its canonical form, a byte written reads back, and every other byte is
as it was (16_faults_reset_recovery.md R643, R646).
-/

namespace Sys2Proof.Machine

/-- Keys that rise strictly, as a relation between neighbours. -/
theorem keysRise_iff (m : List Host.Cell) : keysRise m = true ↔ m.Pairwise fun a b => a.1 < b.1 := by
  induction m with
  | nil => simp [keysRise]
  | cons a r ih =>
    cases r with
    | nil => simp [keysRise]
    | cons b t =>
      simp only [keysRise, Bool.and_eq_true, decide_eq_true_eq, ih, List.pairwise_cons]
      constructor
      · rintro ⟨h, hb, ht⟩
        refine ⟨?_, hb, ht⟩
        intro c hc
        rcases List.mem_cons.mp hc with rfl | hc
        · exact h
        · exact Nat.lt_trans h (hb c hc)
      · rintro ⟨h, hb, ht⟩
        exact ⟨h b (by simp), hb, ht⟩

/-- The canonical form, spelled out. -/
theorem Memory.wf_iff (m : List Host.Cell) :
    Memory.wf m = true ↔ m.Pairwise (fun a b => a.1 < b.1) ∧ ∀ c ∈ m, c.1 < leesBytes ∧ c.2 ≠ 0 := by
  simp [Memory.wf, keysRise_iff]

/-- What stands in the list after a byte has been put. -/
theorem mem_lput {m : List Host.Cell} {n : Nat} {x : Byte} {c : Host.Cell} (h : c ∈ lput m n x) :
    c ∈ m ∨ (c = (n, x) ∧ x ≠ 0) := by
  induction m with
  | nil =>
    simp only [lput] at h
    split at h
    · simp at h
    · exact .inr ⟨by simpa using h, ‹_›⟩
  | cons e r ih =>
    obtain ⟨k, v⟩ := e
    simp only [lput] at h
    split at h
    · split at h
      · exact .inl h
      · rcases List.mem_cons.mp h with rfl | h
        · exact .inr ⟨rfl, ‹_›⟩
        · exact .inl h
    · split at h
      · split at h
        · exact .inl (List.mem_cons_of_mem _ h)
        · rcases List.mem_cons.mp h with rfl | h
          · exact .inr ⟨rfl, ‹_›⟩
          · exact .inl (List.mem_cons_of_mem _ h)
      · rcases List.mem_cons.mp h with rfl | h
        · exact .inl (by simp)
        · rcases ih h with h | h
          · exact .inl (List.mem_cons_of_mem _ h)
          · exact .inr h

theorem lput_sorted {m : List Host.Cell} (n : Nat) (x : Byte) (h : m.Pairwise fun a b => a.1 < b.1) :
    (lput m n x).Pairwise fun a b => a.1 < b.1 := by
  induction m with
  | nil => simp only [lput]; split <;> simp
  | cons e r ih =>
    obtain ⟨k, v⟩ := e
    obtain ⟨hk, hr⟩ := List.pairwise_cons.mp h
    simp only [lput]
    split
    · split
      · exact h
      · refine List.pairwise_cons.mpr ⟨?_, h⟩
        intro c hc
        rcases List.mem_cons.mp hc with rfl | hc
        · assumption
        · exact Nat.lt_trans ‹_› (hk c hc)
    · split
      · subst_vars
        split
        · exact hr
        · exact List.pairwise_cons.mpr ⟨hk, hr⟩
      · refine List.pairwise_cons.mpr ⟨?_, ih hr⟩
        intro c hc
        rcases mem_lput hc with hc | ⟨rfl, _⟩
        · exact hk c hc
        · simp only; omega

/-- A byte written keeps the canonical form. -/
theorem lset_wf {m : List Host.Cell} (a : Nat) (v : Byte) (h : Memory.wf m = true) : Memory.wf (lset m a v) = true := by
  unfold lset
  split
  · rw [Memory.wf_iff] at h ⊢
    refine ⟨lput_sorted a v h.1, ?_⟩
    intro c hc
    rcases mem_lput hc with hc | ⟨rfl, hv⟩
    · exact h.2 c hc
    · exact ⟨by assumption, hv⟩
  · exact h

/-- Bytes written keep the canonical form. -/
theorem lputs_wf {m : List Host.Cell} (a : Nat) (bs : List Byte) (h : Memory.wf m = true) :
    Memory.wf (lputs m a bs) = true := by
  induction bs generalizing m a with
  | nil => exact h
  | cons b r ih => exact ih (a + 1) (lset_wf a b h)

/-- A range cleared keeps the canonical form. -/
theorem lclear_wf {m : List Host.Cell} (off len : Nat) (h : Memory.wf m = true) : Memory.wf (lclear m off len) = true := by
  rw [Memory.wf_iff] at h ⊢
  exact ⟨h.1.filter _, fun c hc => h.2 c ((List.mem_filter.mp hc).1)⟩

/-- Every write that a command makes to the lees keeps the canonical form. -/
theorem leesApply_wf {m : List Host.Cell} (o : LeesOp) (h : Memory.wf m = true) : Memory.wf (leesApply m o) = true := by
  cases o with
  | words off ws => exact lputs_wf _ _ h
  | clear off len => exact lclear_wf _ _ h

theorem leesOps_wf (l : List LeesOp) {m : List Host.Cell} (h : Memory.wf m = true) :
    Memory.wf (l.foldl leesApply m) = true := by
  induction l generalizing m with
  | nil => exact h
  | cons o r ih => exact ih (leesApply_wf o h)

/-- A command keeps the invariant, whatever it does to the block. -/
theorem State.run_wf (f : Block → Block) {s : State} (h : Memory.wf s.lees = true) : (s.run f).Inv :=
  ⟨leesOps_wf _ h, rfl⟩

/-! ### Reading back -/

theorem lget_lput (m : List Host.Cell) (a n : Nat) (v : Byte) (h : m.Pairwise fun a b => a.1 < b.1) :
    lget (lput m a v) n = if n = a then v else lget m n := by
  have key : ∀ (l : List Host.Cell) (k : Nat), (∀ c ∈ l, k < c.1) → tget (0 : Byte) l k = 0 := by
    intro l k hl
    induction l with
    | nil => rfl
    | cons c r ih =>
      have hc := hl c (by simp)
      simp only [tget]
      rw [if_neg (by omega)]
      exact ih fun d hd => hl d (List.mem_cons_of_mem _ hd)
  unfold lget
  induction m with
  | nil =>
    simp only [lput]
    split <;> simp_all [tget]
  | cons e r ih =>
    obtain ⟨k, w⟩ := e
    obtain ⟨hk, hr⟩ := List.pairwise_cons.mp h
    simp only [lput]
    split
    · rename_i hak
      split
      · rename_i hv
        subst hv
        by_cases hn : n = a
        · subst hn
          rw [if_pos rfl]
          exact key _ n (by
            intro c hc
            rcases List.mem_cons.mp hc with rfl | hc
            · exact hak
            · exact Nat.lt_trans hak (hk c hc))
        · rw [if_neg hn]
      · simp only [tget]
    · split
      · rename_i hak
        subst hak
        split
        · rename_i hv
          subst hv
          by_cases hn : n = a
          · subst hn
            rw [if_pos rfl]
            exact key _ n hk
          · simp [tget, hn]
        · simp only [tget]
          by_cases hn : n = a <;> simp [hn]
      · simp only [tget, ih hr]
        by_cases hn : n = k
        · subst hn
          rw [if_pos rfl, if_neg (by omega), if_pos rfl]
        · rw [if_neg hn, if_neg hn]

/-- A byte of the lees reads back what was written last, and every other byte is as it was (R643, R646). -/
theorem lget_lset {m : List Host.Cell} (a n : Nat) (v : Byte) (h : Memory.wf m = true) (ha : a < leesBytes) :
    lget (lset m a v) n = if n = a then v else lget m n := by
  rw [lset, if_pos ha]
  exact lget_lput m a n v ((Memory.wf_iff m).mp h).1

/-- Bytes outside a cleared range are as they were; a cleared byte reads 0. -/
theorem lget_lclear (m : List Host.Cell) (off len n : Nat) :
    lget (lclear m off len) n = if off ≤ n ∧ n < off + len then 0 else lget m n := by
  unfold lget lclear
  induction m with
  | nil => simp [tget]
  | cons c r ih =>
    obtain ⟨k, v⟩ := c
    by_cases hk : k < off ∨ off + len ≤ k
    · rw [List.filter_cons_of_pos (by simpa using hk), tget, tget, ih]
      by_cases hn : n = k
      · subst hn
        rw [if_pos rfl, if_pos rfl, if_neg (by omega)]
      · rw [if_neg hn, if_neg hn]
    · rw [List.filter_cons_of_neg (by simpa using hk), ih, tget]
      by_cases hn : n = k
      · subst hn
        rw [if_pos (by omega), if_pos rfl, if_pos (by omega)]
      · rw [if_neg hn]

/-! ### Bytes that writes leave -/

/-- Bytes outside those written are as they were. -/
theorem lget_lputs_other (bs : List Byte) : ∀ (m : List Host.Cell) (off a : Nat), Memory.wf m = true →
    (a < off ∨ off + bs.length ≤ a) → lget (lputs m off bs) a = lget m a := by
  induction bs with
  | nil => intros; rfl
  | cons x r ih =>
    intro m off a hm h
    simp only [List.length_cons] at h
    show lget (lputs (lset m off x) (off + 1) r) a = _
    rw [ih _ _ _ (lset_wf off x hm) (by omega)]
    by_cases hb : off < leesBytes
    · rw [lget_lset off a x hm hb, if_neg (by omega)]
    · unfold lset
      rw [if_neg hb]

theorem words_length (ws : List Word) : (ws.flatMap fun w => natBytes 8 w.toNat).length = 8 * ws.length := by
  induction ws with
  | nil => rfl
  | cons w r ih =>
    rw [List.flatMap_cons, List.length_append, ih]
    simp only [List.length_cons]
    show 8 + _ = _
    omega

/-- A lees write does not touch the byte at an address. -/
def LeesOp.misses (a : Nat) : LeesOp → Prop
  | .words off ws => a < off ∨ off + 8 * ws.length ≤ a
  | .clear off len => a < off ∨ off + len ≤ a

/-- A byte that a write does not touch is as it was. -/
theorem lget_leesApply {o : LeesOp} {m : List Host.Cell} {a : Nat} (h : o.misses a) (hm : Memory.wf m = true) :
    lget (leesApply m o) a = lget m a := by
  cases o with
  | words off ws =>
    refine lget_lputs_other _ _ _ _ hm ?_
    rw [words_length]
    exact h
  | clear off len =>
    simp only [LeesOp.misses] at h
    show lget (lclear m off len) a = _
    rw [lget_lclear, if_neg (by omega)]

/-- A byte that none of a command's writes touches is as it was. -/
theorem lget_leesOps (l : List LeesOp) : ∀ {m : List Host.Cell} {a : Nat}, (∀ o ∈ l, o.misses a) → Memory.wf m = true →
    lget (l.foldl leesApply m) a = lget m a := by
  induction l with
  | nil => intros; rfl
  | cons o r ih =>
    intro m a h hm
    show lget (r.foldl leesApply (leesApply m o)) a = _
    rw [ih (fun x hx => h x (by simp [hx])) (leesApply_wf o hm), lget_leesApply (h o (by simp)) hm]

end Sys2Proof.Machine
end

