-- ==== Sys2Proof/Laws/State.lean ====
section
/-!
SUPPORT. What an update of one part of the state leaves alone: one lemma per field per update, so that no proof
unfolds a record update.
-/

namespace Sys2Proof.Machine

/-! ### modCtx -/

@[simp] theorem Block.modCtx_out (b : Block) (k : Nat) (f : CtxRec → CtxRec) :
    (b.modCtx k f).out = b.out := rfl
@[simp] theorem Block.modCtx_free (b : Block) (k : Nat) (f : CtxRec → CtxRec) :
    (b.modCtx k f).free = b.free := rfl
@[simp] theorem Block.modCtx_stopped (b : Block) (k : Nat) (f : CtxRec → CtxRec) :
    (b.modCtx k f).stopped = b.stopped := rfl
@[simp] theorem Block.modCtx_kicked (b : Block) (k : Nat) (f : CtxRec → CtxRec) :
    (b.modCtx k f).kicked = b.kicked := rfl
@[simp] theorem Block.modCtx_time (b : Block) (k : Nat) (f : CtxRec → CtxRec) :
    (b.modCtx k f).time = b.time := rfl
@[simp] theorem Block.modCtx_pwr (b : Block) (k : Nat) (f : CtxRec → CtxRec) :
    (b.modCtx k f).pwr = b.pwr := rfl
@[simp] theorem Block.modCtx_evt (b : Block) (k : Nat) (f : CtxRec → CtxRec) :
    (b.modCtx k f).evt = b.evt := rfl
@[simp] theorem Block.modCtx_seqs (b : Block) (k : Nat) (f : CtxRec → CtxRec) :
    (b.modCtx k f).seqs = b.seqs := rfl
@[simp] theorem Block.modCtx_loader (b : Block) (k : Nat) (f : CtxRec → CtxRec) :
    (b.modCtx k f).loader = b.loader := rfl
@[simp] theorem Block.modCtx_tally (b : Block) (k : Nat) (f : CtxRec → CtxRec) :
    (b.modCtx k f).tally = b.tally := rfl
@[simp] theorem Block.modCtx_portal (b : Block) (k : Nat) (f : CtxRec → CtxRec) :
    (b.modCtx k f).portal = b.portal := rfl
@[simp] theorem Block.modCtx_mem (b : Block) (k : Nat) (f : CtxRec → CtxRec) :
    (b.modCtx k f).mem = b.mem := rfl
@[simp] theorem Block.modCtx_home (b : Block) (k : Nat) (f : CtxRec → CtxRec) :
    (b.modCtx k f).home = b.home := rfl
@[simp] theorem Block.modCtx_racks (b : Block) (k : Nat) (f : CtxRec → CtxRec) :
    (b.modCtx k f).racks = b.racks := rfl
@[simp] theorem Block.modCtx_press (b : Block) (k : Nat) (f : CtxRec → CtxRec) :
    (b.modCtx k f).press = b.press := rfl
@[simp] theorem Block.modCtx_ferry (b : Block) (k : Nat) (f : CtxRec → CtxRec) :
    (b.modCtx k f).ferry = b.ferry := rfl
@[simp] theorem Block.modCtx_xlat (b : Block) (k : Nat) (f : CtxRec → CtxRec) :
    (b.modCtx k f).xlat = b.xlat := rfl
@[simp] theorem Block.modCtx_keys (b : Block) (k : Nat) (f : CtxRec → CtxRec) :
    (b.modCtx k f).keys = b.keys := rfl
@[simp] theorem Block.modCtx_straits (b : Block) (k : Nat) (f : CtxRec → CtxRec) :
    (b.modCtx k f).straits = b.straits := rfl
@[simp] theorem Block.modCtx_egress (b : Block) (k : Nat) (f : CtxRec → CtxRec) :
    (b.modCtx k f).egress = b.egress := rfl
@[simp] theorem Block.modCtx_route (b : Block) (k : Nat) (f : CtxRec → CtxRec) :
    (b.modCtx k f).route = b.route := rfl
@[simp] theorem Block.modCtx_fm (b : Block) (k : Nat) (f : CtxRec → CtxRec) :
    (b.modCtx k f).fm = b.fm := rfl
@[simp] theorem Block.modCtx_sched (b : Block) (k : Nat) (f : CtxRec → CtxRec) :
    (b.modCtx k f).sched = b.sched := rfl
@[simp] theorem Block.modCtx_meters (b : Block) (k : Nat) (f : CtxRec → CtxRec) :
    (b.modCtx k f).meters = b.meters := rfl
@[simp] theorem Block.modCtx_tides (b : Block) (k : Nat) (f : CtxRec → CtxRec) :
    (b.modCtx k f).tides = b.tides := rfl
@[simp] theorem Block.modCtx_thief (b : Block) (k : Nat) (f : CtxRec → CtxRec) :
    (b.modCtx k f).thief = b.thief := rfl
@[simp] theorem Block.modCtx_util (b : Block) (k : Nat) (f : CtxRec → CtxRec) :
    (b.modCtx k f).util = b.util := rfl
@[simp] theorem Block.modCtx_maint (b : Block) (k : Nat) (f : CtxRec → CtxRec) :
    (b.modCtx k f).maint = b.maint := rfl

/-! ### modSeq -/

@[simp] theorem Block.modSeq_out (b : Block) (k : Nat) (f : Seq → Seq) :
    (b.modSeq k f).out = b.out := rfl
@[simp] theorem Block.modSeq_free (b : Block) (k : Nat) (f : Seq → Seq) :
    (b.modSeq k f).free = b.free := rfl
@[simp] theorem Block.modSeq_stopped (b : Block) (k : Nat) (f : Seq → Seq) :
    (b.modSeq k f).stopped = b.stopped := rfl
@[simp] theorem Block.modSeq_kicked (b : Block) (k : Nat) (f : Seq → Seq) :
    (b.modSeq k f).kicked = b.kicked := rfl
@[simp] theorem Block.modSeq_time (b : Block) (k : Nat) (f : Seq → Seq) :
    (b.modSeq k f).time = b.time := rfl
@[simp] theorem Block.modSeq_pwr (b : Block) (k : Nat) (f : Seq → Seq) :
    (b.modSeq k f).pwr = b.pwr := rfl
@[simp] theorem Block.modSeq_evt (b : Block) (k : Nat) (f : Seq → Seq) :
    (b.modSeq k f).evt = b.evt := rfl
@[simp] theorem Block.modSeq_ctxs (b : Block) (k : Nat) (f : Seq → Seq) :
    (b.modSeq k f).ctxs = b.ctxs := rfl
@[simp] theorem Block.modSeq_loader (b : Block) (k : Nat) (f : Seq → Seq) :
    (b.modSeq k f).loader = b.loader := rfl
@[simp] theorem Block.modSeq_tally (b : Block) (k : Nat) (f : Seq → Seq) :
    (b.modSeq k f).tally = b.tally := rfl
@[simp] theorem Block.modSeq_portal (b : Block) (k : Nat) (f : Seq → Seq) :
    (b.modSeq k f).portal = b.portal := rfl
@[simp] theorem Block.modSeq_mem (b : Block) (k : Nat) (f : Seq → Seq) :
    (b.modSeq k f).mem = b.mem := rfl
@[simp] theorem Block.modSeq_home (b : Block) (k : Nat) (f : Seq → Seq) :
    (b.modSeq k f).home = b.home := rfl
@[simp] theorem Block.modSeq_racks (b : Block) (k : Nat) (f : Seq → Seq) :
    (b.modSeq k f).racks = b.racks := rfl
@[simp] theorem Block.modSeq_press (b : Block) (k : Nat) (f : Seq → Seq) :
    (b.modSeq k f).press = b.press := rfl
@[simp] theorem Block.modSeq_ferry (b : Block) (k : Nat) (f : Seq → Seq) :
    (b.modSeq k f).ferry = b.ferry := rfl
@[simp] theorem Block.modSeq_xlat (b : Block) (k : Nat) (f : Seq → Seq) :
    (b.modSeq k f).xlat = b.xlat := rfl
@[simp] theorem Block.modSeq_keys (b : Block) (k : Nat) (f : Seq → Seq) :
    (b.modSeq k f).keys = b.keys := rfl
@[simp] theorem Block.modSeq_straits (b : Block) (k : Nat) (f : Seq → Seq) :
    (b.modSeq k f).straits = b.straits := rfl
@[simp] theorem Block.modSeq_egress (b : Block) (k : Nat) (f : Seq → Seq) :
    (b.modSeq k f).egress = b.egress := rfl
@[simp] theorem Block.modSeq_route (b : Block) (k : Nat) (f : Seq → Seq) :
    (b.modSeq k f).route = b.route := rfl
@[simp] theorem Block.modSeq_fm (b : Block) (k : Nat) (f : Seq → Seq) :
    (b.modSeq k f).fm = b.fm := rfl
@[simp] theorem Block.modSeq_sched (b : Block) (k : Nat) (f : Seq → Seq) :
    (b.modSeq k f).sched = b.sched := rfl
@[simp] theorem Block.modSeq_meters (b : Block) (k : Nat) (f : Seq → Seq) :
    (b.modSeq k f).meters = b.meters := rfl
@[simp] theorem Block.modSeq_tides (b : Block) (k : Nat) (f : Seq → Seq) :
    (b.modSeq k f).tides = b.tides := rfl
@[simp] theorem Block.modSeq_thief (b : Block) (k : Nat) (f : Seq → Seq) :
    (b.modSeq k f).thief = b.thief := rfl
@[simp] theorem Block.modSeq_util (b : Block) (k : Nat) (f : Seq → Seq) :
    (b.modSeq k f).util = b.util := rfl
@[simp] theorem Block.modSeq_maint (b : Block) (k : Nat) (f : Seq → Seq) :
    (b.modSeq k f).maint = b.maint := rfl

/-! ### modRack -/

@[simp] theorem Block.modRack_out (b : Block) (k : Nat) (f : Rack → Rack) :
    (b.modRack k f).out = b.out := rfl
@[simp] theorem Block.modRack_free (b : Block) (k : Nat) (f : Rack → Rack) :
    (b.modRack k f).free = b.free := rfl
@[simp] theorem Block.modRack_stopped (b : Block) (k : Nat) (f : Rack → Rack) :
    (b.modRack k f).stopped = b.stopped := rfl
@[simp] theorem Block.modRack_kicked (b : Block) (k : Nat) (f : Rack → Rack) :
    (b.modRack k f).kicked = b.kicked := rfl
@[simp] theorem Block.modRack_time (b : Block) (k : Nat) (f : Rack → Rack) :
    (b.modRack k f).time = b.time := rfl
@[simp] theorem Block.modRack_pwr (b : Block) (k : Nat) (f : Rack → Rack) :
    (b.modRack k f).pwr = b.pwr := rfl
@[simp] theorem Block.modRack_evt (b : Block) (k : Nat) (f : Rack → Rack) :
    (b.modRack k f).evt = b.evt := rfl
@[simp] theorem Block.modRack_ctxs (b : Block) (k : Nat) (f : Rack → Rack) :
    (b.modRack k f).ctxs = b.ctxs := rfl
@[simp] theorem Block.modRack_seqs (b : Block) (k : Nat) (f : Rack → Rack) :
    (b.modRack k f).seqs = b.seqs := rfl
@[simp] theorem Block.modRack_loader (b : Block) (k : Nat) (f : Rack → Rack) :
    (b.modRack k f).loader = b.loader := rfl
@[simp] theorem Block.modRack_tally (b : Block) (k : Nat) (f : Rack → Rack) :
    (b.modRack k f).tally = b.tally := rfl
@[simp] theorem Block.modRack_portal (b : Block) (k : Nat) (f : Rack → Rack) :
    (b.modRack k f).portal = b.portal := rfl
@[simp] theorem Block.modRack_mem (b : Block) (k : Nat) (f : Rack → Rack) :
    (b.modRack k f).mem = b.mem := rfl
@[simp] theorem Block.modRack_home (b : Block) (k : Nat) (f : Rack → Rack) :
    (b.modRack k f).home = b.home := rfl
@[simp] theorem Block.modRack_press (b : Block) (k : Nat) (f : Rack → Rack) :
    (b.modRack k f).press = b.press := rfl
@[simp] theorem Block.modRack_ferry (b : Block) (k : Nat) (f : Rack → Rack) :
    (b.modRack k f).ferry = b.ferry := rfl
@[simp] theorem Block.modRack_xlat (b : Block) (k : Nat) (f : Rack → Rack) :
    (b.modRack k f).xlat = b.xlat := rfl
@[simp] theorem Block.modRack_keys (b : Block) (k : Nat) (f : Rack → Rack) :
    (b.modRack k f).keys = b.keys := rfl
@[simp] theorem Block.modRack_straits (b : Block) (k : Nat) (f : Rack → Rack) :
    (b.modRack k f).straits = b.straits := rfl
@[simp] theorem Block.modRack_egress (b : Block) (k : Nat) (f : Rack → Rack) :
    (b.modRack k f).egress = b.egress := rfl
@[simp] theorem Block.modRack_route (b : Block) (k : Nat) (f : Rack → Rack) :
    (b.modRack k f).route = b.route := rfl
@[simp] theorem Block.modRack_fm (b : Block) (k : Nat) (f : Rack → Rack) :
    (b.modRack k f).fm = b.fm := rfl
@[simp] theorem Block.modRack_sched (b : Block) (k : Nat) (f : Rack → Rack) :
    (b.modRack k f).sched = b.sched := rfl
@[simp] theorem Block.modRack_meters (b : Block) (k : Nat) (f : Rack → Rack) :
    (b.modRack k f).meters = b.meters := rfl
@[simp] theorem Block.modRack_tides (b : Block) (k : Nat) (f : Rack → Rack) :
    (b.modRack k f).tides = b.tides := rfl
@[simp] theorem Block.modRack_thief (b : Block) (k : Nat) (f : Rack → Rack) :
    (b.modRack k f).thief = b.thief := rfl
@[simp] theorem Block.modRack_util (b : Block) (k : Nat) (f : Rack → Rack) :
    (b.modRack k f).util = b.util := rfl
@[simp] theorem Block.modRack_maint (b : Block) (k : Nat) (f : Rack → Rack) :
    (b.modRack k f).maint = b.maint := rfl

/-! ### modStrait -/

@[simp] theorem Block.modStrait_out (b : Block) (k : Nat) (f : Strait → Strait) :
    (b.modStrait k f).out = b.out := rfl
@[simp] theorem Block.modStrait_free (b : Block) (k : Nat) (f : Strait → Strait) :
    (b.modStrait k f).free = b.free := rfl
@[simp] theorem Block.modStrait_stopped (b : Block) (k : Nat) (f : Strait → Strait) :
    (b.modStrait k f).stopped = b.stopped := rfl
@[simp] theorem Block.modStrait_kicked (b : Block) (k : Nat) (f : Strait → Strait) :
    (b.modStrait k f).kicked = b.kicked := rfl
@[simp] theorem Block.modStrait_time (b : Block) (k : Nat) (f : Strait → Strait) :
    (b.modStrait k f).time = b.time := rfl
@[simp] theorem Block.modStrait_pwr (b : Block) (k : Nat) (f : Strait → Strait) :
    (b.modStrait k f).pwr = b.pwr := rfl
@[simp] theorem Block.modStrait_evt (b : Block) (k : Nat) (f : Strait → Strait) :
    (b.modStrait k f).evt = b.evt := rfl
@[simp] theorem Block.modStrait_ctxs (b : Block) (k : Nat) (f : Strait → Strait) :
    (b.modStrait k f).ctxs = b.ctxs := rfl
@[simp] theorem Block.modStrait_seqs (b : Block) (k : Nat) (f : Strait → Strait) :
    (b.modStrait k f).seqs = b.seqs := rfl
@[simp] theorem Block.modStrait_loader (b : Block) (k : Nat) (f : Strait → Strait) :
    (b.modStrait k f).loader = b.loader := rfl
@[simp] theorem Block.modStrait_tally (b : Block) (k : Nat) (f : Strait → Strait) :
    (b.modStrait k f).tally = b.tally := rfl
@[simp] theorem Block.modStrait_portal (b : Block) (k : Nat) (f : Strait → Strait) :
    (b.modStrait k f).portal = b.portal := rfl
@[simp] theorem Block.modStrait_mem (b : Block) (k : Nat) (f : Strait → Strait) :
    (b.modStrait k f).mem = b.mem := rfl
@[simp] theorem Block.modStrait_home (b : Block) (k : Nat) (f : Strait → Strait) :
    (b.modStrait k f).home = b.home := rfl
@[simp] theorem Block.modStrait_racks (b : Block) (k : Nat) (f : Strait → Strait) :
    (b.modStrait k f).racks = b.racks := rfl
@[simp] theorem Block.modStrait_press (b : Block) (k : Nat) (f : Strait → Strait) :
    (b.modStrait k f).press = b.press := rfl
@[simp] theorem Block.modStrait_ferry (b : Block) (k : Nat) (f : Strait → Strait) :
    (b.modStrait k f).ferry = b.ferry := rfl
@[simp] theorem Block.modStrait_xlat (b : Block) (k : Nat) (f : Strait → Strait) :
    (b.modStrait k f).xlat = b.xlat := rfl
@[simp] theorem Block.modStrait_keys (b : Block) (k : Nat) (f : Strait → Strait) :
    (b.modStrait k f).keys = b.keys := rfl
@[simp] theorem Block.modStrait_egress (b : Block) (k : Nat) (f : Strait → Strait) :
    (b.modStrait k f).egress = b.egress := rfl
@[simp] theorem Block.modStrait_route (b : Block) (k : Nat) (f : Strait → Strait) :
    (b.modStrait k f).route = b.route := rfl
@[simp] theorem Block.modStrait_fm (b : Block) (k : Nat) (f : Strait → Strait) :
    (b.modStrait k f).fm = b.fm := rfl
@[simp] theorem Block.modStrait_sched (b : Block) (k : Nat) (f : Strait → Strait) :
    (b.modStrait k f).sched = b.sched := rfl
@[simp] theorem Block.modStrait_meters (b : Block) (k : Nat) (f : Strait → Strait) :
    (b.modStrait k f).meters = b.meters := rfl
@[simp] theorem Block.modStrait_tides (b : Block) (k : Nat) (f : Strait → Strait) :
    (b.modStrait k f).tides = b.tides := rfl
@[simp] theorem Block.modStrait_thief (b : Block) (k : Nat) (f : Strait → Strait) :
    (b.modStrait k f).thief = b.thief := rfl
@[simp] theorem Block.modStrait_util (b : Block) (k : Nat) (f : Strait → Strait) :
    (b.modStrait k f).util = b.util := rfl
@[simp] theorem Block.modStrait_maint (b : Block) (k : Nat) (f : Strait → Strait) :
    (b.modStrait k f).maint = b.maint := rfl

/-! ### modEg -/

@[simp] theorem Block.modEg_out (b : Block) (k : Nat) (f : Egress → Egress) :
    (b.modEg k f).out = b.out := rfl
@[simp] theorem Block.modEg_free (b : Block) (k : Nat) (f : Egress → Egress) :
    (b.modEg k f).free = b.free := rfl
@[simp] theorem Block.modEg_stopped (b : Block) (k : Nat) (f : Egress → Egress) :
    (b.modEg k f).stopped = b.stopped := rfl
@[simp] theorem Block.modEg_kicked (b : Block) (k : Nat) (f : Egress → Egress) :
    (b.modEg k f).kicked = b.kicked := rfl
@[simp] theorem Block.modEg_time (b : Block) (k : Nat) (f : Egress → Egress) :
    (b.modEg k f).time = b.time := rfl
@[simp] theorem Block.modEg_pwr (b : Block) (k : Nat) (f : Egress → Egress) :
    (b.modEg k f).pwr = b.pwr := rfl
@[simp] theorem Block.modEg_evt (b : Block) (k : Nat) (f : Egress → Egress) :
    (b.modEg k f).evt = b.evt := rfl
@[simp] theorem Block.modEg_ctxs (b : Block) (k : Nat) (f : Egress → Egress) :
    (b.modEg k f).ctxs = b.ctxs := rfl
@[simp] theorem Block.modEg_seqs (b : Block) (k : Nat) (f : Egress → Egress) :
    (b.modEg k f).seqs = b.seqs := rfl
@[simp] theorem Block.modEg_loader (b : Block) (k : Nat) (f : Egress → Egress) :
    (b.modEg k f).loader = b.loader := rfl
@[simp] theorem Block.modEg_tally (b : Block) (k : Nat) (f : Egress → Egress) :
    (b.modEg k f).tally = b.tally := rfl
@[simp] theorem Block.modEg_portal (b : Block) (k : Nat) (f : Egress → Egress) :
    (b.modEg k f).portal = b.portal := rfl
@[simp] theorem Block.modEg_mem (b : Block) (k : Nat) (f : Egress → Egress) :
    (b.modEg k f).mem = b.mem := rfl
@[simp] theorem Block.modEg_home (b : Block) (k : Nat) (f : Egress → Egress) :
    (b.modEg k f).home = b.home := rfl
@[simp] theorem Block.modEg_racks (b : Block) (k : Nat) (f : Egress → Egress) :
    (b.modEg k f).racks = b.racks := rfl
@[simp] theorem Block.modEg_press (b : Block) (k : Nat) (f : Egress → Egress) :
    (b.modEg k f).press = b.press := rfl
@[simp] theorem Block.modEg_ferry (b : Block) (k : Nat) (f : Egress → Egress) :
    (b.modEg k f).ferry = b.ferry := rfl
@[simp] theorem Block.modEg_xlat (b : Block) (k : Nat) (f : Egress → Egress) :
    (b.modEg k f).xlat = b.xlat := rfl
@[simp] theorem Block.modEg_keys (b : Block) (k : Nat) (f : Egress → Egress) :
    (b.modEg k f).keys = b.keys := rfl
@[simp] theorem Block.modEg_straits (b : Block) (k : Nat) (f : Egress → Egress) :
    (b.modEg k f).straits = b.straits := rfl
@[simp] theorem Block.modEg_route (b : Block) (k : Nat) (f : Egress → Egress) :
    (b.modEg k f).route = b.route := rfl
@[simp] theorem Block.modEg_fm (b : Block) (k : Nat) (f : Egress → Egress) :
    (b.modEg k f).fm = b.fm := rfl
@[simp] theorem Block.modEg_sched (b : Block) (k : Nat) (f : Egress → Egress) :
    (b.modEg k f).sched = b.sched := rfl
@[simp] theorem Block.modEg_meters (b : Block) (k : Nat) (f : Egress → Egress) :
    (b.modEg k f).meters = b.meters := rfl
@[simp] theorem Block.modEg_tides (b : Block) (k : Nat) (f : Egress → Egress) :
    (b.modEg k f).tides = b.tides := rfl
@[simp] theorem Block.modEg_thief (b : Block) (k : Nat) (f : Egress → Egress) :
    (b.modEg k f).thief = b.thief := rfl
@[simp] theorem Block.modEg_util (b : Block) (k : Nat) (f : Egress → Egress) :
    (b.modEg k f).util = b.util := rfl
@[simp] theorem Block.modEg_maint (b : Block) (k : Nat) (f : Egress → Egress) :
    (b.modEg k f).maint = b.maint := rfl

/-! ### modMeter -/

@[simp] theorem Block.modMeter_out (b : Block) (k : Nat) (f : Meter → Meter) :
    (b.modMeter k f).out = b.out := rfl
@[simp] theorem Block.modMeter_free (b : Block) (k : Nat) (f : Meter → Meter) :
    (b.modMeter k f).free = b.free := rfl
@[simp] theorem Block.modMeter_stopped (b : Block) (k : Nat) (f : Meter → Meter) :
    (b.modMeter k f).stopped = b.stopped := rfl
@[simp] theorem Block.modMeter_kicked (b : Block) (k : Nat) (f : Meter → Meter) :
    (b.modMeter k f).kicked = b.kicked := rfl
@[simp] theorem Block.modMeter_time (b : Block) (k : Nat) (f : Meter → Meter) :
    (b.modMeter k f).time = b.time := rfl
@[simp] theorem Block.modMeter_pwr (b : Block) (k : Nat) (f : Meter → Meter) :
    (b.modMeter k f).pwr = b.pwr := rfl
@[simp] theorem Block.modMeter_evt (b : Block) (k : Nat) (f : Meter → Meter) :
    (b.modMeter k f).evt = b.evt := rfl
@[simp] theorem Block.modMeter_ctxs (b : Block) (k : Nat) (f : Meter → Meter) :
    (b.modMeter k f).ctxs = b.ctxs := rfl
@[simp] theorem Block.modMeter_seqs (b : Block) (k : Nat) (f : Meter → Meter) :
    (b.modMeter k f).seqs = b.seqs := rfl
@[simp] theorem Block.modMeter_loader (b : Block) (k : Nat) (f : Meter → Meter) :
    (b.modMeter k f).loader = b.loader := rfl
@[simp] theorem Block.modMeter_tally (b : Block) (k : Nat) (f : Meter → Meter) :
    (b.modMeter k f).tally = b.tally := rfl
@[simp] theorem Block.modMeter_portal (b : Block) (k : Nat) (f : Meter → Meter) :
    (b.modMeter k f).portal = b.portal := rfl
@[simp] theorem Block.modMeter_mem (b : Block) (k : Nat) (f : Meter → Meter) :
    (b.modMeter k f).mem = b.mem := rfl
@[simp] theorem Block.modMeter_home (b : Block) (k : Nat) (f : Meter → Meter) :
    (b.modMeter k f).home = b.home := rfl
@[simp] theorem Block.modMeter_racks (b : Block) (k : Nat) (f : Meter → Meter) :
    (b.modMeter k f).racks = b.racks := rfl
@[simp] theorem Block.modMeter_press (b : Block) (k : Nat) (f : Meter → Meter) :
    (b.modMeter k f).press = b.press := rfl
@[simp] theorem Block.modMeter_ferry (b : Block) (k : Nat) (f : Meter → Meter) :
    (b.modMeter k f).ferry = b.ferry := rfl
@[simp] theorem Block.modMeter_xlat (b : Block) (k : Nat) (f : Meter → Meter) :
    (b.modMeter k f).xlat = b.xlat := rfl
@[simp] theorem Block.modMeter_keys (b : Block) (k : Nat) (f : Meter → Meter) :
    (b.modMeter k f).keys = b.keys := rfl
@[simp] theorem Block.modMeter_straits (b : Block) (k : Nat) (f : Meter → Meter) :
    (b.modMeter k f).straits = b.straits := rfl
@[simp] theorem Block.modMeter_egress (b : Block) (k : Nat) (f : Meter → Meter) :
    (b.modMeter k f).egress = b.egress := rfl
@[simp] theorem Block.modMeter_route (b : Block) (k : Nat) (f : Meter → Meter) :
    (b.modMeter k f).route = b.route := rfl
@[simp] theorem Block.modMeter_fm (b : Block) (k : Nat) (f : Meter → Meter) :
    (b.modMeter k f).fm = b.fm := rfl
@[simp] theorem Block.modMeter_sched (b : Block) (k : Nat) (f : Meter → Meter) :
    (b.modMeter k f).sched = b.sched := rfl
@[simp] theorem Block.modMeter_tides (b : Block) (k : Nat) (f : Meter → Meter) :
    (b.modMeter k f).tides = b.tides := rfl
@[simp] theorem Block.modMeter_thief (b : Block) (k : Nat) (f : Meter → Meter) :
    (b.modMeter k f).thief = b.thief := rfl
@[simp] theorem Block.modMeter_util (b : Block) (k : Nat) (f : Meter → Meter) :
    (b.modMeter k f).util = b.util := rfl
@[simp] theorem Block.modMeter_maint (b : Block) (k : Nat) (f : Meter → Meter) :
    (b.modMeter k f).maint = b.maint := rfl

/-! ### modTide -/

@[simp] theorem Block.modTide_out (b : Block) (k : Nat) (f : Tide → Tide) :
    (b.modTide k f).out = b.out := rfl
@[simp] theorem Block.modTide_free (b : Block) (k : Nat) (f : Tide → Tide) :
    (b.modTide k f).free = b.free := rfl
@[simp] theorem Block.modTide_stopped (b : Block) (k : Nat) (f : Tide → Tide) :
    (b.modTide k f).stopped = b.stopped := rfl
@[simp] theorem Block.modTide_kicked (b : Block) (k : Nat) (f : Tide → Tide) :
    (b.modTide k f).kicked = b.kicked := rfl
@[simp] theorem Block.modTide_time (b : Block) (k : Nat) (f : Tide → Tide) :
    (b.modTide k f).time = b.time := rfl
@[simp] theorem Block.modTide_pwr (b : Block) (k : Nat) (f : Tide → Tide) :
    (b.modTide k f).pwr = b.pwr := rfl
@[simp] theorem Block.modTide_evt (b : Block) (k : Nat) (f : Tide → Tide) :
    (b.modTide k f).evt = b.evt := rfl
@[simp] theorem Block.modTide_ctxs (b : Block) (k : Nat) (f : Tide → Tide) :
    (b.modTide k f).ctxs = b.ctxs := rfl
@[simp] theorem Block.modTide_seqs (b : Block) (k : Nat) (f : Tide → Tide) :
    (b.modTide k f).seqs = b.seqs := rfl
@[simp] theorem Block.modTide_loader (b : Block) (k : Nat) (f : Tide → Tide) :
    (b.modTide k f).loader = b.loader := rfl
@[simp] theorem Block.modTide_tally (b : Block) (k : Nat) (f : Tide → Tide) :
    (b.modTide k f).tally = b.tally := rfl
@[simp] theorem Block.modTide_portal (b : Block) (k : Nat) (f : Tide → Tide) :
    (b.modTide k f).portal = b.portal := rfl
@[simp] theorem Block.modTide_mem (b : Block) (k : Nat) (f : Tide → Tide) :
    (b.modTide k f).mem = b.mem := rfl
@[simp] theorem Block.modTide_home (b : Block) (k : Nat) (f : Tide → Tide) :
    (b.modTide k f).home = b.home := rfl
@[simp] theorem Block.modTide_racks (b : Block) (k : Nat) (f : Tide → Tide) :
    (b.modTide k f).racks = b.racks := rfl
@[simp] theorem Block.modTide_press (b : Block) (k : Nat) (f : Tide → Tide) :
    (b.modTide k f).press = b.press := rfl
@[simp] theorem Block.modTide_ferry (b : Block) (k : Nat) (f : Tide → Tide) :
    (b.modTide k f).ferry = b.ferry := rfl
@[simp] theorem Block.modTide_xlat (b : Block) (k : Nat) (f : Tide → Tide) :
    (b.modTide k f).xlat = b.xlat := rfl
@[simp] theorem Block.modTide_keys (b : Block) (k : Nat) (f : Tide → Tide) :
    (b.modTide k f).keys = b.keys := rfl
@[simp] theorem Block.modTide_straits (b : Block) (k : Nat) (f : Tide → Tide) :
    (b.modTide k f).straits = b.straits := rfl
@[simp] theorem Block.modTide_egress (b : Block) (k : Nat) (f : Tide → Tide) :
    (b.modTide k f).egress = b.egress := rfl
@[simp] theorem Block.modTide_route (b : Block) (k : Nat) (f : Tide → Tide) :
    (b.modTide k f).route = b.route := rfl
@[simp] theorem Block.modTide_fm (b : Block) (k : Nat) (f : Tide → Tide) :
    (b.modTide k f).fm = b.fm := rfl
@[simp] theorem Block.modTide_sched (b : Block) (k : Nat) (f : Tide → Tide) :
    (b.modTide k f).sched = b.sched := rfl
@[simp] theorem Block.modTide_meters (b : Block) (k : Nat) (f : Tide → Tide) :
    (b.modTide k f).meters = b.meters := rfl
@[simp] theorem Block.modTide_thief (b : Block) (k : Nat) (f : Tide → Tide) :
    (b.modTide k f).thief = b.thief := rfl
@[simp] theorem Block.modTide_util (b : Block) (k : Nat) (f : Tide → Tide) :
    (b.modTide k f).util = b.util := rfl
@[simp] theorem Block.modTide_maint (b : Block) (k : Nat) (f : Tide → Tide) :
    (b.modTide k f).maint = b.maint := rfl

/-! ### modInst -/

@[simp] theorem Block.modInst_out (b : Block) (k : Nat) (f : Inst → Inst) :
    (b.modInst k f).out = b.out := rfl
@[simp] theorem Block.modInst_free (b : Block) (k : Nat) (f : Inst → Inst) :
    (b.modInst k f).free = b.free := rfl
@[simp] theorem Block.modInst_stopped (b : Block) (k : Nat) (f : Inst → Inst) :
    (b.modInst k f).stopped = b.stopped := rfl
@[simp] theorem Block.modInst_kicked (b : Block) (k : Nat) (f : Inst → Inst) :
    (b.modInst k f).kicked = b.kicked := rfl
@[simp] theorem Block.modInst_time (b : Block) (k : Nat) (f : Inst → Inst) :
    (b.modInst k f).time = b.time := rfl
@[simp] theorem Block.modInst_pwr (b : Block) (k : Nat) (f : Inst → Inst) :
    (b.modInst k f).pwr = b.pwr := rfl
@[simp] theorem Block.modInst_evt (b : Block) (k : Nat) (f : Inst → Inst) :
    (b.modInst k f).evt = b.evt := rfl
@[simp] theorem Block.modInst_ctxs (b : Block) (k : Nat) (f : Inst → Inst) :
    (b.modInst k f).ctxs = b.ctxs := rfl
@[simp] theorem Block.modInst_seqs (b : Block) (k : Nat) (f : Inst → Inst) :
    (b.modInst k f).seqs = b.seqs := rfl
@[simp] theorem Block.modInst_loader (b : Block) (k : Nat) (f : Inst → Inst) :
    (b.modInst k f).loader = b.loader := rfl
@[simp] theorem Block.modInst_tally (b : Block) (k : Nat) (f : Inst → Inst) :
    (b.modInst k f).tally = b.tally := rfl
@[simp] theorem Block.modInst_portal (b : Block) (k : Nat) (f : Inst → Inst) :
    (b.modInst k f).portal = b.portal := rfl
@[simp] theorem Block.modInst_mem (b : Block) (k : Nat) (f : Inst → Inst) :
    (b.modInst k f).mem = b.mem := rfl
@[simp] theorem Block.modInst_home (b : Block) (k : Nat) (f : Inst → Inst) :
    (b.modInst k f).home = b.home := rfl
@[simp] theorem Block.modInst_racks (b : Block) (k : Nat) (f : Inst → Inst) :
    (b.modInst k f).racks = b.racks := rfl
@[simp] theorem Block.modInst_ferry (b : Block) (k : Nat) (f : Inst → Inst) :
    (b.modInst k f).ferry = b.ferry := rfl
@[simp] theorem Block.modInst_xlat (b : Block) (k : Nat) (f : Inst → Inst) :
    (b.modInst k f).xlat = b.xlat := rfl
@[simp] theorem Block.modInst_keys (b : Block) (k : Nat) (f : Inst → Inst) :
    (b.modInst k f).keys = b.keys := rfl
@[simp] theorem Block.modInst_straits (b : Block) (k : Nat) (f : Inst → Inst) :
    (b.modInst k f).straits = b.straits := rfl
@[simp] theorem Block.modInst_egress (b : Block) (k : Nat) (f : Inst → Inst) :
    (b.modInst k f).egress = b.egress := rfl
@[simp] theorem Block.modInst_route (b : Block) (k : Nat) (f : Inst → Inst) :
    (b.modInst k f).route = b.route := rfl
@[simp] theorem Block.modInst_fm (b : Block) (k : Nat) (f : Inst → Inst) :
    (b.modInst k f).fm = b.fm := rfl
@[simp] theorem Block.modInst_sched (b : Block) (k : Nat) (f : Inst → Inst) :
    (b.modInst k f).sched = b.sched := rfl
@[simp] theorem Block.modInst_meters (b : Block) (k : Nat) (f : Inst → Inst) :
    (b.modInst k f).meters = b.meters := rfl
@[simp] theorem Block.modInst_tides (b : Block) (k : Nat) (f : Inst → Inst) :
    (b.modInst k f).tides = b.tides := rfl
@[simp] theorem Block.modInst_thief (b : Block) (k : Nat) (f : Inst → Inst) :
    (b.modInst k f).thief = b.thief := rfl
@[simp] theorem Block.modInst_util (b : Block) (k : Nat) (f : Inst → Inst) :
    (b.modInst k f).util = b.util := rfl
@[simp] theorem Block.modInst_maint (b : Block) (k : Nat) (f : Inst → Inst) :
    (b.modInst k f).maint = b.maint := rfl
@[simp] theorem Block.modInst_press_groupBase (b : Block) (k : Nat) (f : Inst → Inst) :
    (b.modInst k f).press.groupBase = b.press.groupBase := rfl
@[simp] theorem Block.modInst_press_permit (b : Block) (k : Nat) (f : Inst → Inst) :
    (b.modInst k f).press.permit = b.press.permit := rfl
@[simp] theorem Block.modInst_press_lentBy (b : Block) (k : Nat) (f : Inst → Inst) :
    (b.modInst k f).press.lentBy = b.press.lentBy := rfl
@[simp] theorem Block.modInst_press_elements (b : Block) (k : Nat) (f : Inst → Inst) :
    (b.modInst k f).press.elements = b.press.elements := rfl
@[simp] theorem Block.modInst_press_saturated (b : Block) (k : Nat) (f : Inst → Inst) :
    (b.modInst k f).press.saturated = b.press.saturated := rfl
@[simp] theorem Block.modInst_press_csumMismatch (b : Block) (k : Nat) (f : Inst → Inst) :
    (b.modInst k f).press.csumMismatch = b.press.csumMismatch := rfl
@[simp] theorem Block.modInst_press_diverged (b : Block) (k : Nat) (f : Inst → Inst) :
    (b.modInst k f).press.diverged = b.press.diverged := rfl
@[simp] theorem Block.modInst_press_discarded (b : Block) (k : Nat) (f : Inst → Inst) :
    (b.modInst k f).press.discarded = b.press.discarded := rfl
@[simp] theorem Block.modInst_press_ldSequence (b : Block) (k : Nat) (f : Inst → Inst) :
    (b.modInst k f).press.ldSequence = b.press.ldSequence := rfl
@[simp] theorem Block.modInst_press_ldGroup (b : Block) (k : Nat) (f : Inst → Inst) :
    (b.modInst k f).press.ldGroup = b.press.ldGroup := rfl
@[simp] theorem Block.modInst_press_ldCause (b : Block) (k : Nat) (f : Inst → Inst) :
    (b.modInst k f).press.ldCause = b.press.ldCause := rfl
@[simp] theorem Block.modInst_press_ldChunk (b : Block) (k : Nat) (f : Inst → Inst) :
    (b.modInst k f).press.ldChunk = b.press.ldChunk := rfl
@[simp] theorem Block.modInst_press_blocked (b : Block) (k : Nat) (f : Inst → Inst) :
    (b.modInst k f).press.blocked = b.press.blocked := rfl
@[simp] theorem Block.modInst_press_groups (b : Block) (k : Nat) (f : Inst → Inst) :
    (b.modInst k f).press.groups = b.press.groups := rfl
@[simp] theorem Block.modInst_press_arrivals (b : Block) (k : Nat) (f : Inst → Inst) :
    (b.modInst k f).press.arrivals = b.press.arrivals := rfl

/-! ### modSlot -/

@[simp] theorem Block.modSlot_out (b : Block) (k : Nat) (f : KeySlot → KeySlot) :
    (b.modSlot k f).out = b.out := rfl
@[simp] theorem Block.modSlot_free (b : Block) (k : Nat) (f : KeySlot → KeySlot) :
    (b.modSlot k f).free = b.free := rfl
@[simp] theorem Block.modSlot_stopped (b : Block) (k : Nat) (f : KeySlot → KeySlot) :
    (b.modSlot k f).stopped = b.stopped := rfl
@[simp] theorem Block.modSlot_kicked (b : Block) (k : Nat) (f : KeySlot → KeySlot) :
    (b.modSlot k f).kicked = b.kicked := rfl
@[simp] theorem Block.modSlot_time (b : Block) (k : Nat) (f : KeySlot → KeySlot) :
    (b.modSlot k f).time = b.time := rfl
@[simp] theorem Block.modSlot_pwr (b : Block) (k : Nat) (f : KeySlot → KeySlot) :
    (b.modSlot k f).pwr = b.pwr := rfl
@[simp] theorem Block.modSlot_evt (b : Block) (k : Nat) (f : KeySlot → KeySlot) :
    (b.modSlot k f).evt = b.evt := rfl
@[simp] theorem Block.modSlot_ctxs (b : Block) (k : Nat) (f : KeySlot → KeySlot) :
    (b.modSlot k f).ctxs = b.ctxs := rfl
@[simp] theorem Block.modSlot_seqs (b : Block) (k : Nat) (f : KeySlot → KeySlot) :
    (b.modSlot k f).seqs = b.seqs := rfl
@[simp] theorem Block.modSlot_loader (b : Block) (k : Nat) (f : KeySlot → KeySlot) :
    (b.modSlot k f).loader = b.loader := rfl
@[simp] theorem Block.modSlot_tally (b : Block) (k : Nat) (f : KeySlot → KeySlot) :
    (b.modSlot k f).tally = b.tally := rfl
@[simp] theorem Block.modSlot_portal (b : Block) (k : Nat) (f : KeySlot → KeySlot) :
    (b.modSlot k f).portal = b.portal := rfl
@[simp] theorem Block.modSlot_mem (b : Block) (k : Nat) (f : KeySlot → KeySlot) :
    (b.modSlot k f).mem = b.mem := rfl
@[simp] theorem Block.modSlot_home (b : Block) (k : Nat) (f : KeySlot → KeySlot) :
    (b.modSlot k f).home = b.home := rfl
@[simp] theorem Block.modSlot_racks (b : Block) (k : Nat) (f : KeySlot → KeySlot) :
    (b.modSlot k f).racks = b.racks := rfl
@[simp] theorem Block.modSlot_press (b : Block) (k : Nat) (f : KeySlot → KeySlot) :
    (b.modSlot k f).press = b.press := rfl
@[simp] theorem Block.modSlot_ferry (b : Block) (k : Nat) (f : KeySlot → KeySlot) :
    (b.modSlot k f).ferry = b.ferry := rfl
@[simp] theorem Block.modSlot_xlat (b : Block) (k : Nat) (f : KeySlot → KeySlot) :
    (b.modSlot k f).xlat = b.xlat := rfl
@[simp] theorem Block.modSlot_straits (b : Block) (k : Nat) (f : KeySlot → KeySlot) :
    (b.modSlot k f).straits = b.straits := rfl
@[simp] theorem Block.modSlot_egress (b : Block) (k : Nat) (f : KeySlot → KeySlot) :
    (b.modSlot k f).egress = b.egress := rfl
@[simp] theorem Block.modSlot_route (b : Block) (k : Nat) (f : KeySlot → KeySlot) :
    (b.modSlot k f).route = b.route := rfl
@[simp] theorem Block.modSlot_fm (b : Block) (k : Nat) (f : KeySlot → KeySlot) :
    (b.modSlot k f).fm = b.fm := rfl
@[simp] theorem Block.modSlot_sched (b : Block) (k : Nat) (f : KeySlot → KeySlot) :
    (b.modSlot k f).sched = b.sched := rfl
@[simp] theorem Block.modSlot_meters (b : Block) (k : Nat) (f : KeySlot → KeySlot) :
    (b.modSlot k f).meters = b.meters := rfl
@[simp] theorem Block.modSlot_tides (b : Block) (k : Nat) (f : KeySlot → KeySlot) :
    (b.modSlot k f).tides = b.tides := rfl
@[simp] theorem Block.modSlot_thief (b : Block) (k : Nat) (f : KeySlot → KeySlot) :
    (b.modSlot k f).thief = b.thief := rfl
@[simp] theorem Block.modSlot_util (b : Block) (k : Nat) (f : KeySlot → KeySlot) :
    (b.modSlot k f).util = b.util := rfl
@[simp] theorem Block.modSlot_maint (b : Block) (k : Nat) (f : KeySlot → KeySlot) :
    (b.modSlot k f).maint = b.maint := rfl
@[simp] theorem Block.modSlot_keys_arg0 (b : Block) (k : Nat) (f : KeySlot → KeySlot) :
    (b.modSlot k f).keys.arg0 = b.keys.arg0 := rfl
@[simp] theorem Block.modSlot_keys_arg1 (b : Block) (k : Nat) (f : KeySlot → KeySlot) :
    (b.modSlot k f).keys.arg1 = b.keys.arg1 := rfl
@[simp] theorem Block.modSlot_keys_arg2 (b : Block) (k : Nat) (f : KeySlot → KeySlot) :
    (b.modSlot k f).keys.arg2 = b.keys.arg2 := rfl
@[simp] theorem Block.modSlot_keys_key (b : Block) (k : Nat) (f : KeySlot → KeySlot) :
    (b.modSlot k f).keys.key = b.keys.key := rfl
@[simp] theorem Block.modSlot_keys_active (b : Block) (k : Nat) (f : KeySlot → KeySlot) :
    (b.modSlot k f).keys.active = b.keys.active := rfl
@[simp] theorem Block.modSlot_keys_resRefs (b : Block) (k : Nat) (f : KeySlot → KeySlot) :
    (b.modSlot k f).keys.resRefs = b.keys.resRefs := rfl
@[simp] theorem Block.modSlot_keys_resHolder (b : Block) (k : Nat) (f : KeySlot → KeySlot) :
    (b.modSlot k f).keys.resHolder = b.keys.resHolder := rfl
@[simp] theorem Block.modSlot_keys_resStatus (b : Block) (k : Nat) (f : KeySlot → KeySlot) :
    (b.modSlot k f).keys.resStatus = b.keys.resStatus := rfl
@[simp] theorem Block.modSlot_keys_highest (b : Block) (k : Nat) (f : KeySlot → KeySlot) :
    (b.modSlot k f).keys.highest = b.keys.highest := rfl
@[simp] theorem Block.modSlot_keys_ranges (b : Block) (k : Nat) (f : KeySlot → KeySlot) :
    (b.modSlot k f).keys.ranges = b.keys.ranges := rfl
@[simp] theorem Block.modSlot_keys_attGen (b : Block) (k : Nat) (f : KeySlot → KeySlot) :
    (b.modSlot k f).keys.attGen = b.keys.attGen := rfl
@[simp] theorem Block.modSlot_keys_attStatus (b : Block) (k : Nat) (f : KeySlot → KeySlot) :
    (b.modSlot k f).keys.attStatus = b.keys.attStatus := rfl
@[simp] theorem Block.modSlot_keys_attTag (b : Block) (k : Nat) (f : KeySlot → KeySlot) :
    (b.modSlot k f).keys.attTag = b.keys.attTag := rfl
@[simp] theorem Block.modSlot_keys_attTime (b : Block) (k : Nat) (f : KeySlot → KeySlot) :
    (b.modSlot k f).keys.attTime = b.keys.attTime := rfl
@[simp] theorem Block.modSlot_keys_attRun (b : Block) (k : Nat) (f : KeySlot → KeySlot) :
    (b.modSlot k f).keys.attRun = b.keys.attRun := rfl
@[simp] theorem Block.modSlot_keys_attStaged (b : Block) (k : Nat) (f : KeySlot → KeySlot) :
    (b.modSlot k f).keys.attStaged = b.keys.attStaged := rfl
@[simp] theorem Block.modSlot_keys_attConfig (b : Block) (k : Nat) (f : KeySlot → KeySlot) :
    (b.modSlot k f).keys.attConfig = b.keys.attConfig := rfl
@[simp] theorem Block.modSlot_keys_attStraps (b : Block) (k : Nat) (f : KeySlot → KeySlot) :
    (b.modSlot k f).keys.attStraps = b.keys.attStraps := rfl
@[simp] theorem Block.modSlot_keys_attScopes (b : Block) (k : Nat) (f : KeySlot → KeySlot) :
    (b.modSlot k f).keys.attScopes = b.keys.attScopes := rfl
@[simp] theorem Block.modSlot_keys_generation (b : Block) (k : Nat) (f : KeySlot → KeySlot) :
    (b.modSlot k f).keys.generation = b.keys.generation := rfl
@[simp] theorem Block.modSlot_keys_strangers (b : Block) (k : Nat) (f : KeySlot → KeySlot) :
    (b.modSlot k f).keys.strangers = b.keys.strangers := rfl
@[simp] theorem Block.modSlot_keys_lastKind (b : Block) (k : Nat) (f : KeySlot → KeySlot) :
    (b.modSlot k f).keys.lastKind = b.keys.lastKind := rfl
@[simp] theorem Block.modSlot_keys_lastPart (b : Block) (k : Nat) (f : KeySlot → KeySlot) :
    (b.modSlot k f).keys.lastPart = b.keys.lastPart := rfl
@[simp] theorem Block.modSlot_keys_lastNode (b : Block) (k : Nat) (f : KeySlot → KeySlot) :
    (b.modSlot k f).keys.lastNode = b.keys.lastNode := rfl
@[simp] theorem Block.modSlot_keys_strangerMark (b : Block) (k : Nat) (f : KeySlot → KeySlot) :
    (b.modSlot k f).keys.strangerMark = b.keys.strangerMark := rfl
@[simp] theorem Block.modSlot_keys_strangerMs (b : Block) (k : Nat) (f : KeySlot → KeySlot) :
    (b.modSlot k f).keys.strangerMs = b.keys.strangerMs := rfl

/-! ### modInv -/

@[simp] theorem Block.modInv_out (b : Block) (k : Nat) (f : Inv → Inv) :
    (b.modInv k f).out = b.out := rfl
@[simp] theorem Block.modInv_free (b : Block) (k : Nat) (f : Inv → Inv) :
    (b.modInv k f).free = b.free := rfl
@[simp] theorem Block.modInv_stopped (b : Block) (k : Nat) (f : Inv → Inv) :
    (b.modInv k f).stopped = b.stopped := rfl
@[simp] theorem Block.modInv_kicked (b : Block) (k : Nat) (f : Inv → Inv) :
    (b.modInv k f).kicked = b.kicked := rfl
@[simp] theorem Block.modInv_time (b : Block) (k : Nat) (f : Inv → Inv) :
    (b.modInv k f).time = b.time := rfl
@[simp] theorem Block.modInv_pwr (b : Block) (k : Nat) (f : Inv → Inv) :
    (b.modInv k f).pwr = b.pwr := rfl
@[simp] theorem Block.modInv_evt (b : Block) (k : Nat) (f : Inv → Inv) :
    (b.modInv k f).evt = b.evt := rfl
@[simp] theorem Block.modInv_ctxs (b : Block) (k : Nat) (f : Inv → Inv) :
    (b.modInv k f).ctxs = b.ctxs := rfl
@[simp] theorem Block.modInv_seqs (b : Block) (k : Nat) (f : Inv → Inv) :
    (b.modInv k f).seqs = b.seqs := rfl
@[simp] theorem Block.modInv_loader (b : Block) (k : Nat) (f : Inv → Inv) :
    (b.modInv k f).loader = b.loader := rfl
@[simp] theorem Block.modInv_tally (b : Block) (k : Nat) (f : Inv → Inv) :
    (b.modInv k f).tally = b.tally := rfl
@[simp] theorem Block.modInv_portal (b : Block) (k : Nat) (f : Inv → Inv) :
    (b.modInv k f).portal = b.portal := rfl
@[simp] theorem Block.modInv_mem (b : Block) (k : Nat) (f : Inv → Inv) :
    (b.modInv k f).mem = b.mem := rfl
@[simp] theorem Block.modInv_home (b : Block) (k : Nat) (f : Inv → Inv) :
    (b.modInv k f).home = b.home := rfl
@[simp] theorem Block.modInv_racks (b : Block) (k : Nat) (f : Inv → Inv) :
    (b.modInv k f).racks = b.racks := rfl
@[simp] theorem Block.modInv_press (b : Block) (k : Nat) (f : Inv → Inv) :
    (b.modInv k f).press = b.press := rfl
@[simp] theorem Block.modInv_ferry (b : Block) (k : Nat) (f : Inv → Inv) :
    (b.modInv k f).ferry = b.ferry := rfl
@[simp] theorem Block.modInv_keys (b : Block) (k : Nat) (f : Inv → Inv) :
    (b.modInv k f).keys = b.keys := rfl
@[simp] theorem Block.modInv_straits (b : Block) (k : Nat) (f : Inv → Inv) :
    (b.modInv k f).straits = b.straits := rfl
@[simp] theorem Block.modInv_egress (b : Block) (k : Nat) (f : Inv → Inv) :
    (b.modInv k f).egress = b.egress := rfl
@[simp] theorem Block.modInv_route (b : Block) (k : Nat) (f : Inv → Inv) :
    (b.modInv k f).route = b.route := rfl
@[simp] theorem Block.modInv_fm (b : Block) (k : Nat) (f : Inv → Inv) :
    (b.modInv k f).fm = b.fm := rfl
@[simp] theorem Block.modInv_sched (b : Block) (k : Nat) (f : Inv → Inv) :
    (b.modInv k f).sched = b.sched := rfl
@[simp] theorem Block.modInv_meters (b : Block) (k : Nat) (f : Inv → Inv) :
    (b.modInv k f).meters = b.meters := rfl
@[simp] theorem Block.modInv_tides (b : Block) (k : Nat) (f : Inv → Inv) :
    (b.modInv k f).tides = b.tides := rfl
@[simp] theorem Block.modInv_thief (b : Block) (k : Nat) (f : Inv → Inv) :
    (b.modInv k f).thief = b.thief := rfl
@[simp] theorem Block.modInv_util (b : Block) (k : Nat) (f : Inv → Inv) :
    (b.modInv k f).util = b.util := rfl
@[simp] theorem Block.modInv_maint (b : Block) (k : Nat) (f : Inv → Inv) :
    (b.modInv k f).maint = b.maint := rfl
@[simp] theorem Block.modInv_xlat_l1 (b : Block) (k : Nat) (f : Inv → Inv) :
    (b.modInv k f).xlat.l1 = b.xlat.l1 := rfl
@[simp] theorem Block.modInv_xlat_l2 (b : Block) (k : Nat) (f : Inv → Inv) :
    (b.modInv k f).xlat.l2 = b.xlat.l2 := rfl
@[simp] theorem Block.modInv_xlat_walks (b : Block) (k : Nat) (f : Inv → Inv) :
    (b.modInv k f).xlat.walks = b.xlat.walks := rfl
@[simp] theorem Block.modInv_xlat_nextWalk (b : Block) (k : Nat) (f : Inv → Inv) :
    (b.modInv k f).xlat.nextWalk = b.xlat.nextWalk := rfl
@[simp] theorem Block.modInv_xlat_uses (b : Block) (k : Nat) (f : Inv → Inv) :
    (b.modInv k f).xlat.uses = b.xlat.uses := rfl
@[simp] theorem Block.modInv_xlat_nextOrder (b : Block) (k : Nat) (f : Inv → Inv) :
    (b.modInv k f).xlat.nextOrder = b.xlat.nextOrder := rfl
@[simp] theorem Block.modInv_xlat_delayed (b : Block) (k : Nat) (f : Inv → Inv) :
    (b.modInv k f).xlat.delayed = b.xlat.delayed := rfl
@[simp] theorem Block.modInv_xlat_l1Misses (b : Block) (k : Nat) (f : Inv → Inv) :
    (b.modInv k f).xlat.l1Misses = b.xlat.l1Misses := rfl
@[simp] theorem Block.modInv_xlat_l2Misses (b : Block) (k : Nat) (f : Inv → Inv) :
    (b.modInv k f).xlat.l2Misses = b.xlat.l2Misses := rfl
@[simp] theorem Block.modInv_xlat_walkCount (b : Block) (k : Nat) (f : Inv → Inv) :
    (b.modInv k f).xlat.walkCount = b.xlat.walkCount := rfl
@[simp] theorem Block.modInv_xlat_coalesced (b : Block) (k : Nat) (f : Inv → Inv) :
    (b.modInv k f).xlat.coalesced = b.xlat.coalesced := rfl
@[simp] theorem Block.modInv_xlat_invalidations (b : Block) (k : Nat) (f : Inv → Inv) :
    (b.modInv k f).xlat.invalidations = b.xlat.invalidations := rfl

/-! ### modBank -/

@[simp] theorem Block.modBank_out (b : Block) (k : Nat) (f : Bank → Bank) :
    (b.modBank k f).out = b.out := rfl
@[simp] theorem Block.modBank_free (b : Block) (k : Nat) (f : Bank → Bank) :
    (b.modBank k f).free = b.free := rfl
@[simp] theorem Block.modBank_stopped (b : Block) (k : Nat) (f : Bank → Bank) :
    (b.modBank k f).stopped = b.stopped := rfl
@[simp] theorem Block.modBank_kicked (b : Block) (k : Nat) (f : Bank → Bank) :
    (b.modBank k f).kicked = b.kicked := rfl
@[simp] theorem Block.modBank_time (b : Block) (k : Nat) (f : Bank → Bank) :
    (b.modBank k f).time = b.time := rfl
@[simp] theorem Block.modBank_pwr (b : Block) (k : Nat) (f : Bank → Bank) :
    (b.modBank k f).pwr = b.pwr := rfl
@[simp] theorem Block.modBank_evt (b : Block) (k : Nat) (f : Bank → Bank) :
    (b.modBank k f).evt = b.evt := rfl
@[simp] theorem Block.modBank_ctxs (b : Block) (k : Nat) (f : Bank → Bank) :
    (b.modBank k f).ctxs = b.ctxs := rfl
@[simp] theorem Block.modBank_seqs (b : Block) (k : Nat) (f : Bank → Bank) :
    (b.modBank k f).seqs = b.seqs := rfl
@[simp] theorem Block.modBank_loader (b : Block) (k : Nat) (f : Bank → Bank) :
    (b.modBank k f).loader = b.loader := rfl
@[simp] theorem Block.modBank_tally (b : Block) (k : Nat) (f : Bank → Bank) :
    (b.modBank k f).tally = b.tally := rfl
@[simp] theorem Block.modBank_portal (b : Block) (k : Nat) (f : Bank → Bank) :
    (b.modBank k f).portal = b.portal := rfl
@[simp] theorem Block.modBank_mem (b : Block) (k : Nat) (f : Bank → Bank) :
    (b.modBank k f).mem = b.mem := rfl
@[simp] theorem Block.modBank_home (b : Block) (k : Nat) (f : Bank → Bank) :
    (b.modBank k f).home = b.home := rfl
@[simp] theorem Block.modBank_racks (b : Block) (k : Nat) (f : Bank → Bank) :
    (b.modBank k f).racks = b.racks := rfl
@[simp] theorem Block.modBank_press (b : Block) (k : Nat) (f : Bank → Bank) :
    (b.modBank k f).press = b.press := rfl
@[simp] theorem Block.modBank_ferry (b : Block) (k : Nat) (f : Bank → Bank) :
    (b.modBank k f).ferry = b.ferry := rfl
@[simp] theorem Block.modBank_xlat (b : Block) (k : Nat) (f : Bank → Bank) :
    (b.modBank k f).xlat = b.xlat := rfl
@[simp] theorem Block.modBank_keys (b : Block) (k : Nat) (f : Bank → Bank) :
    (b.modBank k f).keys = b.keys := rfl
@[simp] theorem Block.modBank_straits (b : Block) (k : Nat) (f : Bank → Bank) :
    (b.modBank k f).straits = b.straits := rfl
@[simp] theorem Block.modBank_egress (b : Block) (k : Nat) (f : Bank → Bank) :
    (b.modBank k f).egress = b.egress := rfl
@[simp] theorem Block.modBank_fm (b : Block) (k : Nat) (f : Bank → Bank) :
    (b.modBank k f).fm = b.fm := rfl
@[simp] theorem Block.modBank_sched (b : Block) (k : Nat) (f : Bank → Bank) :
    (b.modBank k f).sched = b.sched := rfl
@[simp] theorem Block.modBank_meters (b : Block) (k : Nat) (f : Bank → Bank) :
    (b.modBank k f).meters = b.meters := rfl
@[simp] theorem Block.modBank_tides (b : Block) (k : Nat) (f : Bank → Bank) :
    (b.modBank k f).tides = b.tides := rfl
@[simp] theorem Block.modBank_thief (b : Block) (k : Nat) (f : Bank → Bank) :
    (b.modBank k f).thief = b.thief := rfl
@[simp] theorem Block.modBank_util (b : Block) (k : Nat) (f : Bank → Bank) :
    (b.modBank k f).util = b.util := rfl
@[simp] theorem Block.modBank_maint (b : Block) (k : Nat) (f : Bank → Bank) :
    (b.modBank k f).maint = b.maint := rfl
@[simp] theorem Block.modBank_route_self (b : Block) (k : Nat) (f : Bank → Bank) :
    (b.modBank k f).route.self = b.route.self := rfl
@[simp] theorem Block.modBank_route_status (b : Block) (k : Nat) (f : Bank → Bank) :
    (b.modBank k f).route.status = b.route.status := rfl
@[simp] theorem Block.modBank_route_spillAt (b : Block) (k : Nat) (f : Bank → Bank) :
    (b.modBank k f).route.spillAt = b.route.spillAt := rfl
@[simp] theorem Block.modBank_route_staleEpoch (b : Block) (k : Nat) (f : Bank → Bank) :
    (b.modBank k f).route.staleEpoch = b.route.staleEpoch := rfl
@[simp] theorem Block.modBank_route_staleBit (b : Block) (k : Nat) (f : Bank → Bank) :
    (b.modBank k f).route.staleBit = b.route.staleBit := rfl
@[simp] theorem Block.modBank_route_staleNode (b : Block) (k : Nat) (f : Bank → Bank) :
    (b.modBank k f).route.staleNode = b.route.staleNode := rfl
@[simp] theorem Block.modBank_route_staleMark (b : Block) (k : Nat) (f : Bank → Bank) :
    (b.modBank k f).route.staleMark = b.route.staleMark := rfl
@[simp] theorem Block.modBank_route_staleMs (b : Block) (k : Nat) (f : Bank → Bank) :
    (b.modBank k f).route.staleMs = b.route.staleMs := rfl
@[simp] theorem Block.modBank_route_misdelivered (b : Block) (k : Nat) (f : Bank → Bank) :
    (b.modBank k f).route.misdelivered = b.route.misdelivered := rfl
@[simp] theorem Block.modBank_route_malformed (b : Block) (k : Nat) (f : Bank → Bank) :
    (b.modBank k f).route.malformed = b.route.malformed := rfl
@[simp] theorem Block.modBank_route_hopLimit (b : Block) (k : Nat) (f : Bank → Bank) :
    (b.modBank k f).route.hopLimit = b.route.hopLimit := rfl
@[simp] theorem Block.modBank_route_unreachable (b : Block) (k : Nat) (f : Bank → Bank) :
    (b.modBank k f).route.unreachable = b.route.unreachable := rfl
@[simp] theorem Block.modBank_route_noRouteWaits (b : Block) (k : Nat) (f : Bank → Bank) :
    (b.modBank k f).route.noRouteWaits = b.route.noRouteWaits := rfl
@[simp] theorem Block.modBank_route_forwarded (b : Block) (k : Nat) (f : Bank → Bank) :
    (b.modBank k f).route.forwarded = b.route.forwarded := rfl
@[simp] theorem Block.modBank_route_controlDrops (b : Block) (k : Nat) (f : Bank → Bank) :
    (b.modBank k f).route.controlDrops = b.route.controlDrops := rfl
@[simp] theorem Block.modBank_route_ptr (b : Block) (k : Nat) (f : Bank → Bank) :
    (b.modBank k f).route.ptr = b.route.ptr := rfl
@[simp] theorem Block.modBank_route_exhausted (b : Block) (k : Nat) (f : Bank → Bank) :
    (b.modBank k f).route.exhausted = b.route.exhausted := rfl
@[simp] theorem Block.modBank_route_waiting (b : Block) (k : Nat) (f : Bank → Bank) :
    (b.modBank k f).route.waiting = b.route.waiting := rfl
@[simp] theorem Block.modBank_route_left (b : Block) (k : Nat) (f : Bank → Bank) :
    (b.modBank k f).route.left = b.route.left := rfl

/-! ### modCompat -/

@[simp] theorem Block.modCompat_out (b : Block) (k : Nat) (f : Compat → Compat) :
    (b.modCompat k f).out = b.out := rfl
@[simp] theorem Block.modCompat_free (b : Block) (k : Nat) (f : Compat → Compat) :
    (b.modCompat k f).free = b.free := rfl
@[simp] theorem Block.modCompat_stopped (b : Block) (k : Nat) (f : Compat → Compat) :
    (b.modCompat k f).stopped = b.stopped := rfl
@[simp] theorem Block.modCompat_kicked (b : Block) (k : Nat) (f : Compat → Compat) :
    (b.modCompat k f).kicked = b.kicked := rfl
@[simp] theorem Block.modCompat_time (b : Block) (k : Nat) (f : Compat → Compat) :
    (b.modCompat k f).time = b.time := rfl
@[simp] theorem Block.modCompat_pwr (b : Block) (k : Nat) (f : Compat → Compat) :
    (b.modCompat k f).pwr = b.pwr := rfl
@[simp] theorem Block.modCompat_evt (b : Block) (k : Nat) (f : Compat → Compat) :
    (b.modCompat k f).evt = b.evt := rfl
@[simp] theorem Block.modCompat_ctxs (b : Block) (k : Nat) (f : Compat → Compat) :
    (b.modCompat k f).ctxs = b.ctxs := rfl
@[simp] theorem Block.modCompat_seqs (b : Block) (k : Nat) (f : Compat → Compat) :
    (b.modCompat k f).seqs = b.seqs := rfl
@[simp] theorem Block.modCompat_loader (b : Block) (k : Nat) (f : Compat → Compat) :
    (b.modCompat k f).loader = b.loader := rfl
@[simp] theorem Block.modCompat_tally (b : Block) (k : Nat) (f : Compat → Compat) :
    (b.modCompat k f).tally = b.tally := rfl
@[simp] theorem Block.modCompat_portal (b : Block) (k : Nat) (f : Compat → Compat) :
    (b.modCompat k f).portal = b.portal := rfl
@[simp] theorem Block.modCompat_mem (b : Block) (k : Nat) (f : Compat → Compat) :
    (b.modCompat k f).mem = b.mem := rfl
@[simp] theorem Block.modCompat_home (b : Block) (k : Nat) (f : Compat → Compat) :
    (b.modCompat k f).home = b.home := rfl
@[simp] theorem Block.modCompat_racks (b : Block) (k : Nat) (f : Compat → Compat) :
    (b.modCompat k f).racks = b.racks := rfl
@[simp] theorem Block.modCompat_press (b : Block) (k : Nat) (f : Compat → Compat) :
    (b.modCompat k f).press = b.press := rfl
@[simp] theorem Block.modCompat_ferry (b : Block) (k : Nat) (f : Compat → Compat) :
    (b.modCompat k f).ferry = b.ferry := rfl
@[simp] theorem Block.modCompat_xlat (b : Block) (k : Nat) (f : Compat → Compat) :
    (b.modCompat k f).xlat = b.xlat := rfl
@[simp] theorem Block.modCompat_keys (b : Block) (k : Nat) (f : Compat → Compat) :
    (b.modCompat k f).keys = b.keys := rfl
@[simp] theorem Block.modCompat_straits (b : Block) (k : Nat) (f : Compat → Compat) :
    (b.modCompat k f).straits = b.straits := rfl
@[simp] theorem Block.modCompat_egress (b : Block) (k : Nat) (f : Compat → Compat) :
    (b.modCompat k f).egress = b.egress := rfl
@[simp] theorem Block.modCompat_route (b : Block) (k : Nat) (f : Compat → Compat) :
    (b.modCompat k f).route = b.route := rfl
@[simp] theorem Block.modCompat_fm (b : Block) (k : Nat) (f : Compat → Compat) :
    (b.modCompat k f).fm = b.fm := rfl
@[simp] theorem Block.modCompat_sched (b : Block) (k : Nat) (f : Compat → Compat) :
    (b.modCompat k f).sched = b.sched := rfl
@[simp] theorem Block.modCompat_meters (b : Block) (k : Nat) (f : Compat → Compat) :
    (b.modCompat k f).meters = b.meters := rfl
@[simp] theorem Block.modCompat_tides (b : Block) (k : Nat) (f : Compat → Compat) :
    (b.modCompat k f).tides = b.tides := rfl
@[simp] theorem Block.modCompat_util (b : Block) (k : Nat) (f : Compat → Compat) :
    (b.modCompat k f).util = b.util := rfl
@[simp] theorem Block.modCompat_maint (b : Block) (k : Nat) (f : Compat → Compat) :
    (b.modCompat k f).maint = b.maint := rfl
@[simp] theorem Block.modCompat_thief_ctrl (b : Block) (k : Nat) (f : Compat → Compat) :
    (b.modCompat k f).thief.ctrl = b.thief.ctrl := rfl
@[simp] theorem Block.modCompat_thief_ringBase (b : Block) (k : Nat) (f : Compat → Compat) :
    (b.modCompat k f).thief.ringBase = b.thief.ringBase := rfl
@[simp] theorem Block.modCompat_thief_ringSize (b : Block) (k : Nat) (f : Compat → Compat) :
    (b.modCompat k f).thief.ringSize = b.thief.ringSize := rfl
@[simp] theorem Block.modCompat_thief_head (b : Block) (k : Nat) (f : Compat → Compat) :
    (b.modCompat k f).thief.head = b.thief.head := rfl
@[simp] theorem Block.modCompat_thief_tail (b : Block) (k : Nat) (f : Compat → Compat) :
    (b.modCompat k f).thief.tail = b.thief.tail := rfl
@[simp] theorem Block.modCompat_thief_samplePeriod (b : Block) (k : Nat) (f : Compat → Compat) :
    (b.modCompat k f).thief.samplePeriod = b.thief.samplePeriod := rfl
@[simp] theorem Block.modCompat_thief_pcPeriod (b : Block) (k : Nat) (f : Compat → Compat) :
    (b.modCompat k f).thief.pcPeriod = b.thief.pcPeriod := rfl
@[simp] theorem Block.modCompat_thief_pcMask (b : Block) (k : Nat) (f : Compat → Compat) :
    (b.modCompat k f).thief.pcMask = b.thief.pcMask := rfl
@[simp] theorem Block.modCompat_thief_traceCtrl (b : Block) (k : Nat) (f : Compat → Compat) :
    (b.modCompat k f).thief.traceCtrl = b.thief.traceCtrl := rfl
@[simp] theorem Block.modCompat_thief_matchShift (b : Block) (k : Nat) (f : Compat → Compat) :
    (b.modCompat k f).thief.matchShift = b.thief.matchShift := rfl
@[simp] theorem Block.modCompat_thief_records (b : Block) (k : Nat) (f : Compat → Compat) :
    (b.modCompat k f).thief.records = b.thief.records := rfl
@[simp] theorem Block.modCompat_thief_dropped (b : Block) (k : Nat) (f : Compat → Compat) :
    (b.modCompat k f).thief.dropped = b.thief.dropped := rfl
@[simp] theorem Block.modCompat_thief_watchBase (b : Block) (k : Nat) (f : Compat → Compat) :
    (b.modCompat k f).thief.watchBase = b.thief.watchBase := rfl
@[simp] theorem Block.modCompat_thief_watchSize (b : Block) (k : Nat) (f : Compat → Compat) :
    (b.modCompat k f).thief.watchSize = b.thief.watchSize := rfl
@[simp] theorem Block.modCompat_thief_watchHead (b : Block) (k : Nat) (f : Compat → Compat) :
    (b.modCompat k f).thief.watchHead = b.thief.watchHead := rfl
@[simp] theorem Block.modCompat_thief_watchTail (b : Block) (k : Nat) (f : Compat → Compat) :
    (b.modCompat k f).thief.watchTail = b.thief.watchTail := rfl
@[simp] theorem Block.modCompat_thief_seq (b : Block) (k : Nat) (f : Compat → Compat) :
    (b.modCompat k f).thief.seq = b.thief.seq := rfl
@[simp] theorem Block.modCompat_thief_above (b : Block) (k : Nat) (f : Compat → Compat) :
    (b.modCompat k f).thief.above = b.thief.above := rfl
@[simp] theorem Block.modCompat_thief_staged (b : Block) (k : Nat) (f : Compat → Compat) :
    (b.modCompat k f).thief.staged = b.thief.staged := rfl
@[simp] theorem Block.modCompat_thief_nextSerial (b : Block) (k : Nat) (f : Compat → Compat) :
    (b.modCompat k f).thief.nextSerial = b.thief.nextSerial := rfl
@[simp] theorem Block.modCompat_thief_watches (b : Block) (k : Nat) (f : Compat → Compat) :
    (b.modCompat k f).thief.watches = b.thief.watches := rfl
@[simp] theorem Block.modCompat_thief_list (b : Block) (k : Nat) (f : Compat → Compat) :
    (b.modCompat k f).thief.list = b.thief.list := rfl
@[simp] theorem Block.modCompat_thief_copies (b : Block) (k : Nat) (f : Compat → Compat) :
    (b.modCompat k f).thief.copies = b.thief.copies := rfl
@[simp] theorem Block.modCompat_thief_nextCopy (b : Block) (k : Nat) (f : Compat → Compat) :
    (b.modCompat k f).thief.nextCopy = b.thief.nextCopy := rfl

/-! ### modCellarer -/

@[simp] theorem Block.modCellarer_out (b : Block) (k : Nat) (f : Cellarer → Cellarer) :
    (b.modCellarer k f).out = b.out := rfl
@[simp] theorem Block.modCellarer_free (b : Block) (k : Nat) (f : Cellarer → Cellarer) :
    (b.modCellarer k f).free = b.free := rfl
@[simp] theorem Block.modCellarer_stopped (b : Block) (k : Nat) (f : Cellarer → Cellarer) :
    (b.modCellarer k f).stopped = b.stopped := rfl
@[simp] theorem Block.modCellarer_kicked (b : Block) (k : Nat) (f : Cellarer → Cellarer) :
    (b.modCellarer k f).kicked = b.kicked := rfl
@[simp] theorem Block.modCellarer_time (b : Block) (k : Nat) (f : Cellarer → Cellarer) :
    (b.modCellarer k f).time = b.time := rfl
@[simp] theorem Block.modCellarer_pwr (b : Block) (k : Nat) (f : Cellarer → Cellarer) :
    (b.modCellarer k f).pwr = b.pwr := rfl
@[simp] theorem Block.modCellarer_evt (b : Block) (k : Nat) (f : Cellarer → Cellarer) :
    (b.modCellarer k f).evt = b.evt := rfl
@[simp] theorem Block.modCellarer_ctxs (b : Block) (k : Nat) (f : Cellarer → Cellarer) :
    (b.modCellarer k f).ctxs = b.ctxs := rfl
@[simp] theorem Block.modCellarer_seqs (b : Block) (k : Nat) (f : Cellarer → Cellarer) :
    (b.modCellarer k f).seqs = b.seqs := rfl
@[simp] theorem Block.modCellarer_loader (b : Block) (k : Nat) (f : Cellarer → Cellarer) :
    (b.modCellarer k f).loader = b.loader := rfl
@[simp] theorem Block.modCellarer_tally (b : Block) (k : Nat) (f : Cellarer → Cellarer) :
    (b.modCellarer k f).tally = b.tally := rfl
@[simp] theorem Block.modCellarer_portal (b : Block) (k : Nat) (f : Cellarer → Cellarer) :
    (b.modCellarer k f).portal = b.portal := rfl
@[simp] theorem Block.modCellarer_mem (b : Block) (k : Nat) (f : Cellarer → Cellarer) :
    (b.modCellarer k f).mem = b.mem := rfl
@[simp] theorem Block.modCellarer_home (b : Block) (k : Nat) (f : Cellarer → Cellarer) :
    (b.modCellarer k f).home = b.home := rfl
@[simp] theorem Block.modCellarer_racks (b : Block) (k : Nat) (f : Cellarer → Cellarer) :
    (b.modCellarer k f).racks = b.racks := rfl
@[simp] theorem Block.modCellarer_press (b : Block) (k : Nat) (f : Cellarer → Cellarer) :
    (b.modCellarer k f).press = b.press := rfl
@[simp] theorem Block.modCellarer_ferry (b : Block) (k : Nat) (f : Cellarer → Cellarer) :
    (b.modCellarer k f).ferry = b.ferry := rfl
@[simp] theorem Block.modCellarer_xlat (b : Block) (k : Nat) (f : Cellarer → Cellarer) :
    (b.modCellarer k f).xlat = b.xlat := rfl
@[simp] theorem Block.modCellarer_keys (b : Block) (k : Nat) (f : Cellarer → Cellarer) :
    (b.modCellarer k f).keys = b.keys := rfl
@[simp] theorem Block.modCellarer_straits (b : Block) (k : Nat) (f : Cellarer → Cellarer) :
    (b.modCellarer k f).straits = b.straits := rfl
@[simp] theorem Block.modCellarer_egress (b : Block) (k : Nat) (f : Cellarer → Cellarer) :
    (b.modCellarer k f).egress = b.egress := rfl
@[simp] theorem Block.modCellarer_route (b : Block) (k : Nat) (f : Cellarer → Cellarer) :
    (b.modCellarer k f).route = b.route := rfl
@[simp] theorem Block.modCellarer_fm (b : Block) (k : Nat) (f : Cellarer → Cellarer) :
    (b.modCellarer k f).fm = b.fm := rfl
@[simp] theorem Block.modCellarer_sched (b : Block) (k : Nat) (f : Cellarer → Cellarer) :
    (b.modCellarer k f).sched = b.sched := rfl
@[simp] theorem Block.modCellarer_meters (b : Block) (k : Nat) (f : Cellarer → Cellarer) :
    (b.modCellarer k f).meters = b.meters := rfl
@[simp] theorem Block.modCellarer_tides (b : Block) (k : Nat) (f : Cellarer → Cellarer) :
    (b.modCellarer k f).tides = b.tides := rfl
@[simp] theorem Block.modCellarer_thief (b : Block) (k : Nat) (f : Cellarer → Cellarer) :
    (b.modCellarer k f).thief = b.thief := rfl
@[simp] theorem Block.modCellarer_util (b : Block) (k : Nat) (f : Cellarer → Cellarer) :
    (b.modCellarer k f).util = b.util := rfl
@[simp] theorem Block.modCellarer_maint_frozen (b : Block) (k : Nat) (f : Cellarer → Cellarer) :
    (b.modCellarer k f).maint.frozen = b.maint.frozen := rfl
@[simp] theorem Block.modCellarer_maint_status (b : Block) (k : Nat) (f : Cellarer → Cellarer) :
    (b.modCellarer k f).maint.status = b.maint.status := rfl
@[simp] theorem Block.modCellarer_maint_block (b : Block) (k : Nat) (f : Cellarer → Cellarer) :
    (b.modCellarer k f).maint.block = b.maint.block := rfl
@[simp] theorem Block.modCellarer_maint_cause (b : Block) (k : Nat) (f : Cellarer → Cellarer) :
    (b.modCellarer k f).maint.cause = b.maint.cause := rfl
@[simp] theorem Block.modCellarer_maint_blockResets (b : Block) (k : Nat) (f : Cellarer → Cellarer) :
    (b.modCellarer k f).maint.blockResets = b.maint.blockResets := rfl
@[simp] theorem Block.modCellarer_maint_parts (b : Block) (k : Nat) (f : Cellarer → Cellarer) :
    (b.modCellarer k f).maint.parts = b.maint.parts := rfl
@[simp] theorem Block.modCellarer_maint_engines (b : Block) (k : Nat) (f : Cellarer → Cellarer) :
    (b.modCellarer k f).maint.engines = b.maint.engines := rfl
@[simp] theorem Block.modCellarer_maint_failovers (b : Block) (k : Nat) (f : Cellarer → Cellarer) :
    (b.modCellarer k f).maint.failovers = b.maint.failovers := rfl
@[simp] theorem Block.modCellarer_maint_restarting (b : Block) (k : Nat) (f : Cellarer → Cellarer) :
    (b.modCellarer k f).maint.restarting = b.maint.restarting := rfl
@[simp] theorem Block.modCellarer_maint_lost (b : Block) (k : Nat) (f : Cellarer → Cellarer) :
    (b.modCellarer k f).maint.lost = b.maint.lost := rfl
@[simp] theorem Block.modCellarer_maint_tokens (b : Block) (k : Nat) (f : Cellarer → Cellarer) :
    (b.modCellarer k f).maint.tokens = b.maint.tokens := rfl
@[simp] theorem Block.modCellarer_maint_mstatus (b : Block) (k : Nat) (f : Cellarer → Cellarer) :
    (b.modCellarer k f).maint.mstatus = b.maint.mstatus := rfl
@[simp] theorem Block.modCellarer_maint_bistErrors (b : Block) (k : Nat) (f : Cellarer → Cellarer) :
    (b.modCellarer k f).maint.bistErrors = b.maint.bistErrors := rfl
@[simp] theorem Block.modCellarer_maint_bistFirst (b : Block) (k : Nat) (f : Cellarer → Cellarer) :
    (b.modCellarer k f).maint.bistFirst = b.maint.bistFirst := rfl
@[simp] theorem Block.modCellarer_maint_bistState (b : Block) (k : Nat) (f : Cellarer → Cellarer) :
    (b.modCellarer k f).maint.bistState = b.maint.bistState := rfl
@[simp] theorem Block.modCellarer_maint_bistStatus (b : Block) (k : Nat) (f : Cellarer → Cellarer) :
    (b.modCellarer k f).maint.bistStatus = b.maint.bistStatus := rfl
@[simp] theorem Block.modCellarer_maint_bistHolder (b : Block) (k : Nat) (f : Cellarer → Cellarer) :
    (b.modCellarer k f).maint.bistHolder = b.maint.bistHolder := rfl
@[simp] theorem Block.modCellarer_maint_bistWaiting (b : Block) (k : Nat) (f : Cellarer → Cellarer) :
    (b.modCellarer k f).maint.bistWaiting = b.maint.bistWaiting := rfl
@[simp] theorem Block.modCellarer_maint_runVersion (b : Block) (k : Nat) (f : Cellarer → Cellarer) :
    (b.modCellarer k f).maint.runVersion = b.maint.runVersion := rfl
@[simp] theorem Block.modCellarer_maint_runImage (b : Block) (k : Nat) (f : Cellarer → Cellarer) :
    (b.modCellarer k f).maint.runImage = b.maint.runImage := rfl
@[simp] theorem Block.modCellarer_maint_bState (b : Block) (k : Nat) (f : Cellarer → Cellarer) :
    (b.modCellarer k f).maint.bState = b.maint.bState := rfl
@[simp] theorem Block.modCellarer_maint_fwStatus (b : Block) (k : Nat) (f : Cellarer → Cellarer) :
    (b.modCellarer k f).maint.fwStatus = b.maint.fwStatus := rfl
@[simp] theorem Block.modCellarer_maint_stagedVersion (b : Block) (k : Nat) (f : Cellarer → Cellarer) :
    (b.modCellarer k f).maint.stagedVersion = b.maint.stagedVersion := rfl
@[simp] theorem Block.modCellarer_maint_settingsDiscarded (b : Block) (k : Nat) (f : Cellarer → Cellarer) :
    (b.modCellarer k f).maint.settingsDiscarded = b.maint.settingsDiscarded := rfl
@[simp] theorem Block.modCellarer_maint_pages (b : Block) (k : Nat) (f : Cellarer → Cellarer) :
    (b.modCellarer k f).maint.pages = b.maint.pages := rfl
@[simp] theorem Block.modCellarer_maint_imageLen (b : Block) (k : Nat) (f : Cellarer → Cellarer) :
    (b.modCellarer k f).maint.imageLen = b.maint.imageLen := rfl
@[simp] theorem Block.modCellarer_maint_activating (b : Block) (k : Nat) (f : Cellarer → Cellarer) :
    (b.modCellarer k f).maint.activating = b.maint.activating := rfl
@[simp] theorem Block.modCellarer_maint_actHolder (b : Block) (k : Nat) (f : Cellarer → Cellarer) :
    (b.modCellarer k f).maint.actHolder = b.maint.actHolder := rfl
@[simp] theorem Block.modCellarer_maint_verified (b : Block) (k : Nat) (f : Cellarer → Cellarer) :
    (b.modCellarer k f).maint.verified = b.maint.verified := rfl
@[simp] theorem Block.modCellarer_maint_svcLast (b : Block) (k : Nat) (f : Cellarer → Cellarer) :
    (b.modCellarer k f).maint.svcLast = b.maint.svcLast := rfl
@[simp] theorem Block.modCellarer_maint_svcBusy (b : Block) (k : Nat) (f : Cellarer → Cellarer) :
    (b.modCellarer k f).maint.svcBusy = b.maint.svcBusy := rfl
@[simp] theorem Block.modCellarer_maint_mbox (b : Block) (k : Nat) (f : Cellarer → Cellarer) :
    (b.modCellarer k f).maint.mbox = b.maint.mbox := rfl
@[simp] theorem Block.modCellarer_maint_mboxQueue (b : Block) (k : Nat) (f : Cellarer → Cellarer) :
    (b.modCellarer k f).maint.mboxQueue = b.maint.mboxQueue := rfl
@[simp] theorem Block.modCellarer_maint_boot (b : Block) (k : Nat) (f : Cellarer → Cellarer) :
    (b.modCellarer k f).maint.boot = b.maint.boot := rfl
@[simp] theorem Block.modCellarer_maint_cold (b : Block) (k : Nat) (f : Cellarer → Cellarer) :
    (b.modCellarer k f).maint.cold = b.maint.cold := rfl
@[simp] theorem Block.modCellarer_maint_settings (b : Block) (k : Nat) (f : Cellarer → Cellarer) :
    (b.modCellarer k f).maint.settings = b.maint.settings := rfl
@[simp] theorem Block.modCellarer_maint_straps (b : Block) (k : Nat) (f : Cellarer → Cellarer) :
    (b.modCellarer k f).maint.straps = b.maint.straps := rfl
@[simp] theorem Block.modCellarer_maint_quarStatus (b : Block) (k : Nat) (f : Cellarer → Cellarer) :
    (b.modCellarer k f).maint.quarStatus = b.maint.quarStatus := rfl
@[simp] theorem Block.modCellarer_maint_quarEntered (b : Block) (k : Nat) (f : Cellarer → Cellarer) :
    (b.modCellarer k f).maint.quarEntered = b.maint.quarEntered := rfl

/-! ### emit, setTally, fresh, enqueueIncr, askPermit -/

@[simp] theorem Block.emit_free (b : Block) (p : PortOut) :
    (b.emit p).free = b.free := rfl
@[simp] theorem Block.emit_stopped (b : Block) (p : PortOut) :
    (b.emit p).stopped = b.stopped := rfl
@[simp] theorem Block.emit_kicked (b : Block) (p : PortOut) :
    (b.emit p).kicked = b.kicked := rfl
@[simp] theorem Block.emit_time (b : Block) (p : PortOut) :
    (b.emit p).time = b.time := rfl
@[simp] theorem Block.emit_pwr (b : Block) (p : PortOut) :
    (b.emit p).pwr = b.pwr := rfl
@[simp] theorem Block.emit_evt (b : Block) (p : PortOut) :
    (b.emit p).evt = b.evt := rfl
@[simp] theorem Block.emit_ctxs (b : Block) (p : PortOut) :
    (b.emit p).ctxs = b.ctxs := rfl
@[simp] theorem Block.emit_seqs (b : Block) (p : PortOut) :
    (b.emit p).seqs = b.seqs := rfl
@[simp] theorem Block.emit_loader (b : Block) (p : PortOut) :
    (b.emit p).loader = b.loader := rfl
@[simp] theorem Block.emit_tally (b : Block) (p : PortOut) :
    (b.emit p).tally = b.tally := rfl
@[simp] theorem Block.emit_portal (b : Block) (p : PortOut) :
    (b.emit p).portal = b.portal := rfl
@[simp] theorem Block.emit_mem (b : Block) (p : PortOut) :
    (b.emit p).mem = b.mem := rfl
@[simp] theorem Block.emit_home (b : Block) (p : PortOut) :
    (b.emit p).home = b.home := rfl
@[simp] theorem Block.emit_racks (b : Block) (p : PortOut) :
    (b.emit p).racks = b.racks := rfl
@[simp] theorem Block.emit_press (b : Block) (p : PortOut) :
    (b.emit p).press = b.press := rfl
@[simp] theorem Block.emit_ferry (b : Block) (p : PortOut) :
    (b.emit p).ferry = b.ferry := rfl
@[simp] theorem Block.emit_xlat (b : Block) (p : PortOut) :
    (b.emit p).xlat = b.xlat := rfl
@[simp] theorem Block.emit_keys (b : Block) (p : PortOut) :
    (b.emit p).keys = b.keys := rfl
@[simp] theorem Block.emit_straits (b : Block) (p : PortOut) :
    (b.emit p).straits = b.straits := rfl
@[simp] theorem Block.emit_egress (b : Block) (p : PortOut) :
    (b.emit p).egress = b.egress := rfl
@[simp] theorem Block.emit_route (b : Block) (p : PortOut) :
    (b.emit p).route = b.route := rfl
@[simp] theorem Block.emit_fm (b : Block) (p : PortOut) :
    (b.emit p).fm = b.fm := rfl
@[simp] theorem Block.emit_sched (b : Block) (p : PortOut) :
    (b.emit p).sched = b.sched := rfl
@[simp] theorem Block.emit_meters (b : Block) (p : PortOut) :
    (b.emit p).meters = b.meters := rfl
@[simp] theorem Block.emit_tides (b : Block) (p : PortOut) :
    (b.emit p).tides = b.tides := rfl
@[simp] theorem Block.emit_thief (b : Block) (p : PortOut) :
    (b.emit p).thief = b.thief := rfl
@[simp] theorem Block.emit_util (b : Block) (p : PortOut) :
    (b.emit p).util = b.util := rfl
@[simp] theorem Block.emit_maint (b : Block) (p : PortOut) :
    (b.emit p).maint = b.maint := rfl
@[simp] theorem Block.setTally_out (b : Block) (c n : Nat) (v : Word) :
    (b.setTally c n v).out = b.out := rfl
@[simp] theorem Block.setTally_free (b : Block) (c n : Nat) (v : Word) :
    (b.setTally c n v).free = b.free := rfl
@[simp] theorem Block.setTally_stopped (b : Block) (c n : Nat) (v : Word) :
    (b.setTally c n v).stopped = b.stopped := rfl
@[simp] theorem Block.setTally_kicked (b : Block) (c n : Nat) (v : Word) :
    (b.setTally c n v).kicked = b.kicked := rfl
@[simp] theorem Block.setTally_time (b : Block) (c n : Nat) (v : Word) :
    (b.setTally c n v).time = b.time := rfl
@[simp] theorem Block.setTally_pwr (b : Block) (c n : Nat) (v : Word) :
    (b.setTally c n v).pwr = b.pwr := rfl
@[simp] theorem Block.setTally_evt (b : Block) (c n : Nat) (v : Word) :
    (b.setTally c n v).evt = b.evt := rfl
@[simp] theorem Block.setTally_ctxs (b : Block) (c n : Nat) (v : Word) :
    (b.setTally c n v).ctxs = b.ctxs := rfl
@[simp] theorem Block.setTally_seqs (b : Block) (c n : Nat) (v : Word) :
    (b.setTally c n v).seqs = b.seqs := rfl
@[simp] theorem Block.setTally_loader (b : Block) (c n : Nat) (v : Word) :
    (b.setTally c n v).loader = b.loader := rfl
@[simp] theorem Block.setTally_portal (b : Block) (c n : Nat) (v : Word) :
    (b.setTally c n v).portal = b.portal := rfl
@[simp] theorem Block.setTally_mem (b : Block) (c n : Nat) (v : Word) :
    (b.setTally c n v).mem = b.mem := rfl
@[simp] theorem Block.setTally_home (b : Block) (c n : Nat) (v : Word) :
    (b.setTally c n v).home = b.home := rfl
@[simp] theorem Block.setTally_racks (b : Block) (c n : Nat) (v : Word) :
    (b.setTally c n v).racks = b.racks := rfl
@[simp] theorem Block.setTally_press (b : Block) (c n : Nat) (v : Word) :
    (b.setTally c n v).press = b.press := rfl
@[simp] theorem Block.setTally_ferry (b : Block) (c n : Nat) (v : Word) :
    (b.setTally c n v).ferry = b.ferry := rfl
@[simp] theorem Block.setTally_xlat (b : Block) (c n : Nat) (v : Word) :
    (b.setTally c n v).xlat = b.xlat := rfl
@[simp] theorem Block.setTally_keys (b : Block) (c n : Nat) (v : Word) :
    (b.setTally c n v).keys = b.keys := rfl
@[simp] theorem Block.setTally_straits (b : Block) (c n : Nat) (v : Word) :
    (b.setTally c n v).straits = b.straits := rfl
@[simp] theorem Block.setTally_egress (b : Block) (c n : Nat) (v : Word) :
    (b.setTally c n v).egress = b.egress := rfl
@[simp] theorem Block.setTally_route (b : Block) (c n : Nat) (v : Word) :
    (b.setTally c n v).route = b.route := rfl
@[simp] theorem Block.setTally_fm (b : Block) (c n : Nat) (v : Word) :
    (b.setTally c n v).fm = b.fm := rfl
@[simp] theorem Block.setTally_sched (b : Block) (c n : Nat) (v : Word) :
    (b.setTally c n v).sched = b.sched := rfl
@[simp] theorem Block.setTally_meters (b : Block) (c n : Nat) (v : Word) :
    (b.setTally c n v).meters = b.meters := rfl
@[simp] theorem Block.setTally_tides (b : Block) (c n : Nat) (v : Word) :
    (b.setTally c n v).tides = b.tides := rfl
@[simp] theorem Block.setTally_thief (b : Block) (c n : Nat) (v : Word) :
    (b.setTally c n v).thief = b.thief := rfl
@[simp] theorem Block.setTally_util (b : Block) (c n : Nat) (v : Word) :
    (b.setTally c n v).util = b.util := rfl
@[simp] theorem Block.setTally_maint (b : Block) (c n : Nat) (v : Word) :
    (b.setTally c n v).maint = b.maint := rfl
@[simp] theorem Block.setTally_tally_incs (b : Block) (c n : Nat) (v : Word) :
    (b.setTally c n v).tally.incs = b.tally.incs := rfl
@[simp] theorem Block.fresh_out (b : Block) :
    b.fresh.2.out = b.out := rfl
@[simp] theorem Block.fresh_stopped (b : Block) :
    b.fresh.2.stopped = b.stopped := rfl
@[simp] theorem Block.fresh_kicked (b : Block) :
    b.fresh.2.kicked = b.kicked := rfl
@[simp] theorem Block.fresh_time (b : Block) :
    b.fresh.2.time = b.time := rfl
@[simp] theorem Block.fresh_pwr (b : Block) :
    b.fresh.2.pwr = b.pwr := rfl
@[simp] theorem Block.fresh_evt (b : Block) :
    b.fresh.2.evt = b.evt := rfl
@[simp] theorem Block.fresh_ctxs (b : Block) :
    b.fresh.2.ctxs = b.ctxs := rfl
@[simp] theorem Block.fresh_seqs (b : Block) :
    b.fresh.2.seqs = b.seqs := rfl
@[simp] theorem Block.fresh_loader (b : Block) :
    b.fresh.2.loader = b.loader := rfl
@[simp] theorem Block.fresh_tally (b : Block) :
    b.fresh.2.tally = b.tally := rfl
@[simp] theorem Block.fresh_portal (b : Block) :
    b.fresh.2.portal = b.portal := rfl
@[simp] theorem Block.fresh_mem (b : Block) :
    b.fresh.2.mem = b.mem := rfl
@[simp] theorem Block.fresh_home (b : Block) :
    b.fresh.2.home = b.home := rfl
@[simp] theorem Block.fresh_racks (b : Block) :
    b.fresh.2.racks = b.racks := rfl
@[simp] theorem Block.fresh_press (b : Block) :
    b.fresh.2.press = b.press := rfl
@[simp] theorem Block.fresh_ferry (b : Block) :
    b.fresh.2.ferry = b.ferry := rfl
@[simp] theorem Block.fresh_xlat (b : Block) :
    b.fresh.2.xlat = b.xlat := rfl
@[simp] theorem Block.fresh_keys (b : Block) :
    b.fresh.2.keys = b.keys := rfl
@[simp] theorem Block.fresh_straits (b : Block) :
    b.fresh.2.straits = b.straits := rfl
@[simp] theorem Block.fresh_egress (b : Block) :
    b.fresh.2.egress = b.egress := rfl
@[simp] theorem Block.fresh_route (b : Block) :
    b.fresh.2.route = b.route := rfl
@[simp] theorem Block.fresh_fm (b : Block) :
    b.fresh.2.fm = b.fm := rfl
@[simp] theorem Block.fresh_sched (b : Block) :
    b.fresh.2.sched = b.sched := rfl
@[simp] theorem Block.fresh_meters (b : Block) :
    b.fresh.2.meters = b.meters := rfl
@[simp] theorem Block.fresh_tides (b : Block) :
    b.fresh.2.tides = b.tides := rfl
@[simp] theorem Block.fresh_thief (b : Block) :
    b.fresh.2.thief = b.thief := rfl
@[simp] theorem Block.fresh_util (b : Block) :
    b.fresh.2.util = b.util := rfl
@[simp] theorem Block.fresh_maint (b : Block) :
    b.fresh.2.maint = b.maint := rfl
@[simp] theorem enqueueIncr_out (i : Incr) (b : Block) :
    (enqueueIncr i b).out = b.out := rfl
@[simp] theorem enqueueIncr_free (i : Incr) (b : Block) :
    (enqueueIncr i b).free = b.free := rfl
@[simp] theorem enqueueIncr_stopped (i : Incr) (b : Block) :
    (enqueueIncr i b).stopped = b.stopped := rfl
@[simp] theorem enqueueIncr_kicked (i : Incr) (b : Block) :
    (enqueueIncr i b).kicked = b.kicked := rfl
@[simp] theorem enqueueIncr_time (i : Incr) (b : Block) :
    (enqueueIncr i b).time = b.time := rfl
@[simp] theorem enqueueIncr_pwr (i : Incr) (b : Block) :
    (enqueueIncr i b).pwr = b.pwr := rfl
@[simp] theorem enqueueIncr_evt (i : Incr) (b : Block) :
    (enqueueIncr i b).evt = b.evt := rfl
@[simp] theorem enqueueIncr_ctxs (i : Incr) (b : Block) :
    (enqueueIncr i b).ctxs = b.ctxs := rfl
@[simp] theorem enqueueIncr_seqs (i : Incr) (b : Block) :
    (enqueueIncr i b).seqs = b.seqs := rfl
@[simp] theorem enqueueIncr_loader (i : Incr) (b : Block) :
    (enqueueIncr i b).loader = b.loader := rfl
@[simp] theorem enqueueIncr_portal (i : Incr) (b : Block) :
    (enqueueIncr i b).portal = b.portal := rfl
@[simp] theorem enqueueIncr_mem (i : Incr) (b : Block) :
    (enqueueIncr i b).mem = b.mem := rfl
@[simp] theorem enqueueIncr_home (i : Incr) (b : Block) :
    (enqueueIncr i b).home = b.home := rfl
@[simp] theorem enqueueIncr_racks (i : Incr) (b : Block) :
    (enqueueIncr i b).racks = b.racks := rfl
@[simp] theorem enqueueIncr_press (i : Incr) (b : Block) :
    (enqueueIncr i b).press = b.press := rfl
@[simp] theorem enqueueIncr_ferry (i : Incr) (b : Block) :
    (enqueueIncr i b).ferry = b.ferry := rfl
@[simp] theorem enqueueIncr_xlat (i : Incr) (b : Block) :
    (enqueueIncr i b).xlat = b.xlat := rfl
@[simp] theorem enqueueIncr_keys (i : Incr) (b : Block) :
    (enqueueIncr i b).keys = b.keys := rfl
@[simp] theorem enqueueIncr_straits (i : Incr) (b : Block) :
    (enqueueIncr i b).straits = b.straits := rfl
@[simp] theorem enqueueIncr_egress (i : Incr) (b : Block) :
    (enqueueIncr i b).egress = b.egress := rfl
@[simp] theorem enqueueIncr_route (i : Incr) (b : Block) :
    (enqueueIncr i b).route = b.route := rfl
@[simp] theorem enqueueIncr_fm (i : Incr) (b : Block) :
    (enqueueIncr i b).fm = b.fm := rfl
@[simp] theorem enqueueIncr_sched (i : Incr) (b : Block) :
    (enqueueIncr i b).sched = b.sched := rfl
@[simp] theorem enqueueIncr_meters (i : Incr) (b : Block) :
    (enqueueIncr i b).meters = b.meters := rfl
@[simp] theorem enqueueIncr_tides (i : Incr) (b : Block) :
    (enqueueIncr i b).tides = b.tides := rfl
@[simp] theorem enqueueIncr_thief (i : Incr) (b : Block) :
    (enqueueIncr i b).thief = b.thief := rfl
@[simp] theorem enqueueIncr_util (i : Incr) (b : Block) :
    (enqueueIncr i b).util = b.util := rfl
@[simp] theorem enqueueIncr_maint (i : Incr) (b : Block) :
    (enqueueIncr i b).maint = b.maint := rfl
@[simp] theorem enqueueIncr_tallies (i : Incr) (b : Block) :
    (enqueueIncr i b).tally.tallies = b.tally.tallies := rfl
@[simp] theorem enqueueIncr_incs (i : Incr) (b : Block) :
    (enqueueIncr i b).tally.incs = b.tally.incs ++ [i] := rfl
@[simp] theorem askPermit_out (w : PermitWho) (u : Nat) (b : Block) :
    (askPermit w u b).out = b.out := rfl
@[simp] theorem askPermit_free (w : PermitWho) (u : Nat) (b : Block) :
    (askPermit w u b).free = b.free := rfl
@[simp] theorem askPermit_stopped (w : PermitWho) (u : Nat) (b : Block) :
    (askPermit w u b).stopped = b.stopped := rfl
@[simp] theorem askPermit_kicked (w : PermitWho) (u : Nat) (b : Block) :
    (askPermit w u b).kicked = b.kicked := rfl
@[simp] theorem askPermit_time (w : PermitWho) (u : Nat) (b : Block) :
    (askPermit w u b).time = b.time := rfl
@[simp] theorem askPermit_evt (w : PermitWho) (u : Nat) (b : Block) :
    (askPermit w u b).evt = b.evt := rfl
@[simp] theorem askPermit_ctxs (w : PermitWho) (u : Nat) (b : Block) :
    (askPermit w u b).ctxs = b.ctxs := rfl
@[simp] theorem askPermit_seqs (w : PermitWho) (u : Nat) (b : Block) :
    (askPermit w u b).seqs = b.seqs := rfl
@[simp] theorem askPermit_loader (w : PermitWho) (u : Nat) (b : Block) :
    (askPermit w u b).loader = b.loader := rfl
@[simp] theorem askPermit_tally (w : PermitWho) (u : Nat) (b : Block) :
    (askPermit w u b).tally = b.tally := rfl
@[simp] theorem askPermit_portal (w : PermitWho) (u : Nat) (b : Block) :
    (askPermit w u b).portal = b.portal := rfl
@[simp] theorem askPermit_mem (w : PermitWho) (u : Nat) (b : Block) :
    (askPermit w u b).mem = b.mem := rfl
@[simp] theorem askPermit_home (w : PermitWho) (u : Nat) (b : Block) :
    (askPermit w u b).home = b.home := rfl
@[simp] theorem askPermit_racks (w : PermitWho) (u : Nat) (b : Block) :
    (askPermit w u b).racks = b.racks := rfl
@[simp] theorem askPermit_press (w : PermitWho) (u : Nat) (b : Block) :
    (askPermit w u b).press = b.press := rfl
@[simp] theorem askPermit_ferry (w : PermitWho) (u : Nat) (b : Block) :
    (askPermit w u b).ferry = b.ferry := rfl
@[simp] theorem askPermit_xlat (w : PermitWho) (u : Nat) (b : Block) :
    (askPermit w u b).xlat = b.xlat := rfl
@[simp] theorem askPermit_keys (w : PermitWho) (u : Nat) (b : Block) :
    (askPermit w u b).keys = b.keys := rfl
@[simp] theorem askPermit_straits (w : PermitWho) (u : Nat) (b : Block) :
    (askPermit w u b).straits = b.straits := rfl
@[simp] theorem askPermit_egress (w : PermitWho) (u : Nat) (b : Block) :
    (askPermit w u b).egress = b.egress := rfl
@[simp] theorem askPermit_route (w : PermitWho) (u : Nat) (b : Block) :
    (askPermit w u b).route = b.route := rfl
@[simp] theorem askPermit_fm (w : PermitWho) (u : Nat) (b : Block) :
    (askPermit w u b).fm = b.fm := rfl
@[simp] theorem askPermit_sched (w : PermitWho) (u : Nat) (b : Block) :
    (askPermit w u b).sched = b.sched := rfl
@[simp] theorem askPermit_meters (w : PermitWho) (u : Nat) (b : Block) :
    (askPermit w u b).meters = b.meters := rfl
@[simp] theorem askPermit_tides (w : PermitWho) (u : Nat) (b : Block) :
    (askPermit w u b).tides = b.tides := rfl
@[simp] theorem askPermit_thief (w : PermitWho) (u : Nat) (b : Block) :
    (askPermit w u b).thief = b.thief := rfl
@[simp] theorem askPermit_util (w : PermitWho) (u : Nat) (b : Block) :
    (askPermit w u b).util = b.util := rfl
@[simp] theorem askPermit_maint (w : PermitWho) (u : Nat) (b : Block) :
    (askPermit w u b).maint = b.maint := rfl

/-! ### A command as a whole -/

/-- No command touches the queue of those that wait. -/
@[simp] theorem State.run_pending (f : Block → Block) (s : State) : (s.run f).pending = s.pending := rfl
/-- No lees write is left over when a command has ended. -/
@[simp] theorem State.run_leesOps (f : Block → Block) (s : State) : (s.run f).blk.evt.leesOps = [] := rfl
@[simp] theorem State.run_out (f : Block → Block) (s : State) :
    (s.run f).blk.out = (f { s.blk with out := [] }).out := rfl
@[simp] theorem State.run_free (f : Block → Block) (s : State) :
    (s.run f).blk.free = (f { s.blk with out := [] }).free := rfl
@[simp] theorem State.run_stopped (f : Block → Block) (s : State) :
    (s.run f).blk.stopped = (f { s.blk with out := [] }).stopped := rfl
@[simp] theorem State.run_kicked (f : Block → Block) (s : State) :
    (s.run f).blk.kicked = (f { s.blk with out := [] }).kicked := rfl
@[simp] theorem State.run_time (f : Block → Block) (s : State) :
    (s.run f).blk.time = (f { s.blk with out := [] }).time := rfl
@[simp] theorem State.run_pwr (f : Block → Block) (s : State) :
    (s.run f).blk.pwr = (f { s.blk with out := [] }).pwr := rfl
@[simp] theorem State.run_ctxs (f : Block → Block) (s : State) :
    (s.run f).blk.ctxs = (f { s.blk with out := [] }).ctxs := rfl
@[simp] theorem State.run_seqs (f : Block → Block) (s : State) :
    (s.run f).blk.seqs = (f { s.blk with out := [] }).seqs := rfl
@[simp] theorem State.run_loader (f : Block → Block) (s : State) :
    (s.run f).blk.loader = (f { s.blk with out := [] }).loader := rfl
@[simp] theorem State.run_tally (f : Block → Block) (s : State) :
    (s.run f).blk.tally = (f { s.blk with out := [] }).tally := rfl
@[simp] theorem State.run_portal (f : Block → Block) (s : State) :
    (s.run f).blk.portal = (f { s.blk with out := [] }).portal := rfl
@[simp] theorem State.run_mem (f : Block → Block) (s : State) :
    (s.run f).blk.mem = (f { s.blk with out := [] }).mem := rfl
@[simp] theorem State.run_home (f : Block → Block) (s : State) :
    (s.run f).blk.home = (f { s.blk with out := [] }).home := rfl
@[simp] theorem State.run_racks (f : Block → Block) (s : State) :
    (s.run f).blk.racks = (f { s.blk with out := [] }).racks := rfl
@[simp] theorem State.run_press (f : Block → Block) (s : State) :
    (s.run f).blk.press = (f { s.blk with out := [] }).press := rfl
@[simp] theorem State.run_ferry (f : Block → Block) (s : State) :
    (s.run f).blk.ferry = (f { s.blk with out := [] }).ferry := rfl
@[simp] theorem State.run_xlat (f : Block → Block) (s : State) :
    (s.run f).blk.xlat = (f { s.blk with out := [] }).xlat := rfl
@[simp] theorem State.run_keys (f : Block → Block) (s : State) :
    (s.run f).blk.keys = (f { s.blk with out := [] }).keys := rfl
@[simp] theorem State.run_straits (f : Block → Block) (s : State) :
    (s.run f).blk.straits = (f { s.blk with out := [] }).straits := rfl
@[simp] theorem State.run_egress (f : Block → Block) (s : State) :
    (s.run f).blk.egress = (f { s.blk with out := [] }).egress := rfl
@[simp] theorem State.run_route (f : Block → Block) (s : State) :
    (s.run f).blk.route = (f { s.blk with out := [] }).route := rfl
@[simp] theorem State.run_fm (f : Block → Block) (s : State) :
    (s.run f).blk.fm = (f { s.blk with out := [] }).fm := rfl
@[simp] theorem State.run_sched (f : Block → Block) (s : State) :
    (s.run f).blk.sched = (f { s.blk with out := [] }).sched := rfl
@[simp] theorem State.run_meters (f : Block → Block) (s : State) :
    (s.run f).blk.meters = (f { s.blk with out := [] }).meters := rfl
@[simp] theorem State.run_tides (f : Block → Block) (s : State) :
    (s.run f).blk.tides = (f { s.blk with out := [] }).tides := rfl
@[simp] theorem State.run_thief (f : Block → Block) (s : State) :
    (s.run f).blk.thief = (f { s.blk with out := [] }).thief := rfl
@[simp] theorem State.run_util (f : Block → Block) (s : State) :
    (s.run f).blk.util = (f { s.blk with out := [] }).util := rfl
@[simp] theorem State.run_maint (f : Block → Block) (s : State) :
    (s.run f).blk.maint = (f { s.blk with out := [] }).maint := rfl

end Sys2Proof.Machine
end

