-- ==== Sys2Proof/Laws/Act.lean ====
section
/-!
SUPPORT. What is common to all commands: `State.act` and `State.after`, the block as a command finds it, what follows a
command on a quiet block (`settle`), a register write (`busWrite`), and the command of a DXI word (`dxi`).
-/

namespace Sys2Proof.Machine

/-! ### The block as a command finds it -/

@[simp] theorem State.start_out (s : State) : s.start.out = [] := rfl
@[simp] theorem State.start_free (s : State) : s.start.free = s.blk.free := rfl
@[simp] theorem State.start_stopped (s : State) : s.start.stopped = none := rfl
@[simp] theorem State.start_time (s : State) : s.start.time = s.blk.time := rfl
@[simp] theorem State.start_pwr (s : State) : s.start.pwr = s.blk.pwr := rfl
@[simp] theorem State.start_evt (s : State) : s.start.evt = s.blk.evt := rfl
@[simp] theorem State.start_ctxs (s : State) : s.start.ctxs = s.blk.ctxs := rfl
@[simp] theorem State.start_seqs (s : State) : s.start.seqs = s.blk.seqs := rfl
@[simp] theorem State.start_loader (s : State) : s.start.loader = s.blk.loader := rfl
@[simp] theorem State.start_tally (s : State) : s.start.tally = s.blk.tally := rfl
@[simp] theorem State.start_portal (s : State) : s.start.portal = s.blk.portal := rfl
@[simp] theorem State.start_mem (s : State) : s.start.mem = s.blk.mem := rfl
@[simp] theorem State.start_home (s : State) : s.start.home = s.blk.home := rfl
@[simp] theorem State.start_racks (s : State) : s.start.racks = s.blk.racks := rfl
@[simp] theorem State.start_press (s : State) : s.start.press = s.blk.press := rfl
@[simp] theorem State.start_ferry (s : State) : s.start.ferry = s.blk.ferry := rfl
@[simp] theorem State.start_xlat (s : State) : s.start.xlat = s.blk.xlat := rfl
@[simp] theorem State.start_keys (s : State) : s.start.keys = s.blk.keys := rfl
@[simp] theorem State.start_straits (s : State) : s.start.straits = s.blk.straits := rfl
@[simp] theorem State.start_egress (s : State) : s.start.egress = s.blk.egress := rfl
@[simp] theorem State.start_route (s : State) : s.start.route = s.blk.route := rfl
@[simp] theorem State.start_fm (s : State) : s.start.fm = s.blk.fm := rfl
@[simp] theorem State.start_sched (s : State) : s.start.sched = s.blk.sched := rfl
@[simp] theorem State.start_meters (s : State) : s.start.meters = s.blk.meters := rfl
@[simp] theorem State.start_tides (s : State) : s.start.tides = s.blk.tides := rfl
@[simp] theorem State.start_thief_ctrl (s : State) : s.start.thief.ctrl = s.blk.thief.ctrl := rfl
@[simp] theorem State.start_thief_ringBase (s : State) : s.start.thief.ringBase = s.blk.thief.ringBase := rfl
@[simp] theorem State.start_thief_ringSize (s : State) : s.start.thief.ringSize = s.blk.thief.ringSize := rfl
@[simp] theorem State.start_thief_head (s : State) : s.start.thief.head = s.blk.thief.head := rfl
@[simp] theorem State.start_thief_tail (s : State) : s.start.thief.tail = s.blk.thief.tail := rfl
@[simp] theorem State.start_thief_samplePeriod (s : State) : s.start.thief.samplePeriod = s.blk.thief.samplePeriod := rfl
@[simp] theorem State.start_thief_pcPeriod (s : State) : s.start.thief.pcPeriod = s.blk.thief.pcPeriod := rfl
@[simp] theorem State.start_thief_pcMask (s : State) : s.start.thief.pcMask = s.blk.thief.pcMask := rfl
@[simp] theorem State.start_thief_traceCtrl (s : State) : s.start.thief.traceCtrl = s.blk.thief.traceCtrl := rfl
@[simp] theorem State.start_thief_matchShift (s : State) : s.start.thief.matchShift = s.blk.thief.matchShift := rfl
@[simp] theorem State.start_thief_records (s : State) : s.start.thief.records = s.blk.thief.records := rfl
@[simp] theorem State.start_thief_dropped (s : State) : s.start.thief.dropped = s.blk.thief.dropped := rfl
@[simp] theorem State.start_thief_watchBase (s : State) : s.start.thief.watchBase = s.blk.thief.watchBase := rfl
@[simp] theorem State.start_thief_watchSize (s : State) : s.start.thief.watchSize = s.blk.thief.watchSize := rfl
@[simp] theorem State.start_thief_watchHead (s : State) : s.start.thief.watchHead = s.blk.thief.watchHead := rfl
@[simp] theorem State.start_thief_watchTail (s : State) : s.start.thief.watchTail = s.blk.thief.watchTail := rfl
@[simp] theorem State.start_thief_seq (s : State) : s.start.thief.seq = s.blk.thief.seq := rfl
@[simp] theorem State.start_thief_above (s : State) : s.start.thief.above = s.blk.thief.above := rfl
@[simp] theorem State.start_thief_staged (s : State) : s.start.thief.staged = s.blk.thief.staged := rfl
@[simp] theorem State.start_thief_nextSerial (s : State) : s.start.thief.nextSerial = s.blk.thief.nextSerial := rfl
@[simp] theorem State.start_thief_watches (s : State) : s.start.thief.watches = s.blk.thief.watches := rfl
@[simp] theorem State.start_thief_list (s : State) : s.start.thief.list = s.blk.thief.list := rfl
@[simp] theorem State.start_thief_copies (s : State) : s.start.thief.copies = s.blk.thief.copies := rfl
@[simp] theorem State.start_thief_nextCopy (s : State) : s.start.thief.nextCopy = s.blk.thief.nextCopy := rfl
@[simp] theorem State.start_util (s : State) : s.start.util = s.blk.util := rfl
@[simp] theorem State.start_maint (s : State) : s.start.maint = s.blk.maint := rfl
@[simp] theorem State.start_ctx (s : State) (k : Nat) : s.start.ctx k = s.blk.ctx k := rfl
@[simp] theorem State.start_seq (s : State) (k : Nat) : s.start.seq k = s.blk.seq k := rfl
@[simp] theorem State.start_rack (s : State) (k : Nat) : s.start.rack k = s.blk.rack k := rfl
@[simp] theorem State.start_strait (s : State) (k : Nat) : s.start.strait k = s.blk.strait k := rfl
@[simp] theorem State.start_eg (s : State) (k : Nat) : s.start.eg k = s.blk.eg k := rfl
@[simp] theorem State.start_meter (s : State) (k : Nat) : s.start.meter k = s.blk.meter k := rfl
@[simp] theorem State.start_tide (s : State) (k : Nat) : s.start.tide k = s.blk.tide k := rfl
@[simp] theorem State.start_inst (s : State) (k : Nat) : s.start.inst k = s.blk.inst k := rfl
@[simp] theorem State.start_slot (s : State) (k : Nat) : s.start.slot k = s.blk.slot k := rfl
@[simp] theorem State.start_inv (s : State) (k : Nat) : s.start.inv k = s.blk.inv k := rfl
@[simp] theorem State.start_bank (s : State) (k : Nat) : s.start.bank k = s.blk.bank k := rfl
@[simp] theorem State.start_cellarer (s : State) (k : Nat) : s.start.cellarer k = s.blk.cellarer k := rfl

/-! ### Commands -/

/-- A command's outcome is known from its own effect on the block as it finds it. -/
theorem act_eq {s : State} {f g : Block → Block} (h : f s.start = g s.start) : s.act f = .next (s.after g) := by
  show Host.Outcome.next (s.run _) = .next (s.run _)
  unfold State.run
  have h' : f (newCycle { s.blk with out := [] }) = g (newCycle { s.blk with out := [] }) := h
  simp only [h']

/-- No command touches the queue of those that wait. -/
@[simp] theorem State.after_pending (s : State) (f : Block → Block) : (s.after f).pending = s.pending := rfl

/-- Every command keeps the invariant. -/
theorem State.after_inv {s : State} (f : Block → Block) (h : s.Inv) : (s.after f).Inv := State.run_wf _ h.1

/-- A command answers a next state, with the queue as it was and the invariant kept. -/
theorem act_answers {s : State} (f : Block → Block) (h : Memory.wf s.lees = true) :
    ∃ t, s.act f = .next t ∧ t.pending = s.pending ∧ t.Inv := ⟨_, rfl, rfl, State.run_wf _ h⟩

/-- A command that may fall in the cycle of a boundary answers a next state. -/
theorem actInCycle_answers {s : State} (f : Block → Block) (h : Memory.wf s.lees = true) :
    ∃ t, s.actInCycle f = .next t ∧ t.pending = s.pending ∧ t.Inv := ⟨_, rfl, rfl, State.run_wf _ h⟩

/-- A START answers a next state. -/
theorem actAfterStop_answers {s : State} (f : Block → Block) (h : Memory.wf s.lees = true) :
    ∃ t, s.actAfterStop f = .next t ∧ t.pending = s.pending ∧ t.Inv := ⟨_, rfl, rfl, State.run_wf _ h⟩

/-! ### What follows a command -/

/-- With no packet queued at a strait, no queue's eligibility changes (R563). -/
theorem refreshAll_quiet {b : Block} (h : ∀ e ∈ b.egress, e.2.elig = [] ∧ ∀ q ∈ e.2.queues, q.2 = []) : refreshAll b = b := by
  have k : (b.egress.filter fun e => !e.2.elig.isEmpty || e.2.queues.any fun q => !q.2.isEmpty) = [] := by
    rw [List.filter_eq_nil_iff]
    intro e he
    obtain ⟨h1, h2⟩ := h e he
    simpa [h1] using h2
  unfold refreshAll
  rw [k]
  rfl

/-- With no packet left without an eligible strait, none is chosen again (R508). -/
theorem rechooseLeft_quiet {b : Block} (k : Nat) (h : b.route.left = []) : rechooseLeft k b = b := by
  cases k with
  | zero => rfl
  | succ k => simp [rechooseLeft, h]

/-- After a command that leaves the block quiet, only the count of measured changes follows (R415). -/
theorem settle_quiet {old b : Block} (h : b.Quiet) (hw : old.pwr.waiting = []) : settle old b = countMeasured old b := by
  obtain ⟨hl, hx, hm, hi, ha, hp, he, hn, hal⟩ := h
  have m : answerRefused b = b := by
    unfold answerRefused
    rw [hm]
    show ({ b with mem := { b.mem with refused := [] } } : Block) = b
    rw [← hm]
  have e : failAllExhausted b = b := by
    unfold failAllExhausted
    rw [hx]
    show ({ b with route := { b.route with exhausted := [] } } : Block) = b
    rw [← hx]
  have i : instSweep b = b := by
    unfold instSweep
    rw [hi]
    rfl
  have p : pressUnask b = b := by
    unfold pressUnask
    simp [hp]
  have o : orderNeeds old.pwr.waiting.length b = b := by
    unfold orderNeeds
    rw [hw, hn]
    show ({ b with pwr := { b.pwr with waiting := [] } } : Block) = b
    rw [← hn]
  have r := rechooseLeft_quiet 64 hl
  have w : bootWakes b = b := by simp [bootWakes, hal]
  unfold settle
  simp only [r, m, e, i, ha, List.isEmpty_nil, if_true, p, w, o, refreshAll_quiet he]

/-- The count of measured changes touches no part but SEC.ATT's generation. -/
theorem countMeasured_cases (old b : Block) : countMeasured old b = b ∨
    countMeasured old b = { b with keys := { b.keys with generation := b.keys.generation + 1 } } := by
  unfold countMeasured
  split <;> simp

/-- The state after a command that leaves the block quiet and the lees alone: only SEC.ATT's generation may follow. -/
theorem after_quiet {s : State} {f : Block → Block} (hw : s.blk.pwr.waiting = []) (hq : (f s.start).Quiet)
    (ho : (f s.start).evt.leesOps = []) :
    ∃ g, s.after f = { s with blk := { f s.start with keys := { (f s.start).keys with generation := g } } } := by
  have k : settle { s.blk with out := [] } (f s.start) = countMeasured { s.blk with out := [] } (f s.start) := settle_quiet hq hw
  have e : s.after f = s.run fun _ => countMeasured { s.blk with out := [] } (f s.start) := by
    show s.run _ = _
    unfold State.run
    show _ = _
    rw [← k]
    rfl
  rw [e]
  unfold State.run
  rcases countMeasured_cases { s.blk with out := [] } (f s.start) with h | h
  · refine ⟨(f s.start).keys.generation, ?_⟩
    simp only [h, ho, List.foldl_nil]
    rw [← ho]
  · refine ⟨(f s.start).keys.generation + 1, ?_⟩
    simp only [h, ho, List.foldl_nil]
    rw [← ho]

/-- The lees after a command that leaves the block quiet: its own writes, in order. -/
theorem after_lees {s : State} {f : Block → Block} (hw : s.blk.pwr.waiting = []) (hq : (f s.start).Quiet) :
    (s.after f).lees = (f s.start).evt.leesOps.foldl leesApply s.lees := by
  have k : settle { s.blk with out := [] } (f s.start) = countMeasured { s.blk with out := [] } (f s.start) := settle_quiet hq hw
  have e : s.after f = s.run fun _ => countMeasured { s.blk with out := [] } (f s.start) := by
    show s.run _ = _
    unfold State.run
    show _ = _
    rw [← k]
    rfl
  rw [e]
  show (countMeasured { s.blk with out := [] } (f s.start)).evt.leesOps.foldl leesApply s.lees = _
  rcases countMeasured_cases { s.blk with out := [] } (f s.start) with h | h <;> rw [h]

/-- The block after such a command: what the command made it, its writes to the lees done, and SEC.ATT's generation. -/
theorem after_blk {s : State} {f : Block → Block} (hw : s.blk.pwr.waiting = []) (hq : (f s.start).Quiet) :
    ∃ g, (s.after f).blk = { f s.start with
      evt := { (f s.start).evt with leesOps := [] }, keys := { (f s.start).keys with generation := g } } := by
  have k : settle { s.blk with out := [] } (f s.start) = countMeasured { s.blk with out := [] } (f s.start) := settle_quiet hq hw
  have e : s.after f = s.run fun _ => countMeasured { s.blk with out := [] } (f s.start) := by
    show s.run _ = _
    unfold State.run
    show _ = _
    rw [← k]
    rfl
  rw [e]
  unfold State.run
  rcases countMeasured_cases { s.blk with out := [] } (f s.start) with h | h
  · exact ⟨(f s.start).keys.generation, by rw [h]⟩
  · exact ⟨(f s.start).keys.generation + 1, by rw [h]⟩

/-- The outcome of a command that may lie in a boundary's cycle is known from its own effect. -/
theorem actInCycle_eq {s : State} {f g : Block → Block} (h : f { s.blk with out := [] } = g { s.blk with out := [] }) :
    s.actInCycle f = .next (s.afterInCycle g) := by
  show Host.Outcome.next (s.run _) = .next (s.run _)
  unfold State.run
  simp only [h]

/-! ### Register writes -/

/-- Everything that a register write on a path can do (R679, R683, R718, R43). -/
theorem busWrite_cases (p : Path) (off : Nat) (size8 : Bool) (v : Word) (lees : List Host.Cell) (b : Block) :
    busWrite p off size8 v lees b = b ∨ busWrite p off size8 v lees b = countIgnored b ∨
    (mustWait b off = true ∧ busWrite p off size8 v lees b = holdWrite p off v b) ∨
    (b.Writable p off ∧ busWrite p off size8 v lees b = (writeReg p lees (Reg.ofOffset off) v (kickAt off b)).2) := by
  unfold busWrite Block.Writable
  split
  · exact .inl rfl
  · split
    · exact .inr (.inl rfl)
    · split
      · exact .inl rfl
      · split
        · exact .inr (.inr (.inl ⟨‹_›, rfl⟩))
        · refine .inr (.inr (.inr ⟨⟨?_, ?_, ?_⟩, rfl⟩)) <;> simp_all

/-- A write that is taken at once. -/
theorem busWrite_now {p : Path} {off : Nat} {b : Block} (v : Word) (lees : List Host.Cell) (h : b.Writable p off)
    (ha : off % 8 = 0) : busWrite p off true v lees b = (writeReg p lees (Reg.ofOffset off) v (kickAt off b)).2 := by
  obtain ⟨h1, h2, h3⟩ := h
  simp [busWrite, h1, h2, h3, ha]

/-! ### DXI words -/

/-- Everything that the command of a DXI word can do (R99, R111): nothing, the word's own effect, or an advance. -/
theorem dxi_cases (op : Nat) (sub : Nat → Bool) (f : Nat → Quad → Block → Block) (q : SeqId) (b : Block) :
    dxi op sub f q b = b ∨ (∃ w, b.AtWord q w ∧ wOpcode w = op ∧
      (dxi op sub f q b = f (b.seq q).pc.toNat w b ∨
       (testHolds (b.seq q) w = false ∧ dxi op sub f q b = wordDone q (b.seq q).pc.toNat 1 b))) := by
  unfold dxi
  simp only
  split
  · exact .inl rfl
  · rename_i w hw
    split
    · exact .inl rfl
    · rename_i hc
      refine .inr ⟨w, ⟨?_, hw⟩, ?_, ?_⟩
      · simp_all
      · simp_all
      · split
        · exact .inl rfl
        · exact .inr ⟨by simp_all, rfl⟩

/-- A word that can issue and whose predicate holds takes effect. -/
theorem dxi_issues {op : Nat} {sub : Nat → Bool} {f : Nat → Quad → Block → Block} {q : SeqId} {b : Block} {w : Quad}
    (h : b.AtWord q w) (ho : wOpcode w = op) (hs : sub (bits w 115 112) = true)
    (ht : testHolds (b.seq q) w = true ∨ op = 0x05 ∨ op = 0x33) :
    dxi op sub f q b = f (b.seq q).pc.toNat w b := by
  obtain ⟨hc, hw⟩ := h
  unfold dxi
  simp only [hw, hc, ho, hs]
  rcases ht with ht | ht | ht <;> simp [ht]

/-- A word that can issue and whose predicate does not hold advances PC only (R99). -/
theorem dxi_skips {op : Nat} {sub : Nat → Bool} {f : Nat → Quad → Block → Block} {q : SeqId} {b : Block} {w : Quad}
    (h : b.AtWord q w) (ho : wOpcode w = op) (hs : sub (bits w 115 112) = true)
    (ht : testHolds (b.seq q) w = false) (h5 : op ≠ 0x05) (h33 : op ≠ 0x33) :
    dxi op sub f q b = wordDone q (b.seq q).pc.toNat 1 b := by
  obtain ⟨hc, hw⟩ := h
  unfold dxi
  simp [hw, hc, ho, hs, ht, h5, h33]

end Sys2Proof.Machine
end

