-- ==== Sys2Proof/Laws/Events.lean ====
section
/-!
SUPPORT. What records and events can change: a record or a trace event the thief alone, an event the event unit and the
port record.
-/

namespace Sys2Proof.Machine

/-- A record generated changes the thief alone. -/
theorem stageRecord_eq (ty n f : Nat) (time : Word) (body : List Byte) (b : Block) :
    ∃ t, stageRecord ty n f time body b = { b with thief := t } := by
  unfold stageRecord
  simp only
  split <;> exact ⟨_, rfl⟩

/-- A trace event changes the thief alone. -/
theorem traceEvent_eq (k c : Nat) (v r : Word) (q x st pc : Nat) (b : Block) :
    ∃ t, traceEvent k c v r q x st pc b = { b with thief := t } := by
  unfold traceEvent
  split
  · exact stageRecord_eq ..
  · exact ⟨b.thief, rfl⟩

/-- A message of a vector changes the event unit and the port record. -/
theorem msixFor_eq (v : Nat) (b : Block) : ∃ e o, msixFor v b = { b with evt := e, out := o } := by
  unfold msixFor
  simp only
  split <;> (split <;> exact ⟨_, _, rfl⟩)

/-- An entry offered to the ring changes the event unit and the port record. -/
theorem ringWrite_eq (e : EventEntry) (b : Block) : ∃ u o, ringWrite e b = { b with evt := u, out := o } := by
  unfold ringWrite
  split
  · split
    · exact ⟨_, b.out, rfl⟩
    · obtain ⟨u, o, h⟩ := msixFor_eq (if e.code = 0x20 then b.evt.completeVec.toNat else bits b.evt.faultVec 3 0)
        { b with
          evt := { b.evt with head := b.evt.head + 1 }
          out := b.out ++ [.event (b.evt.ringBase + w64 (b.evt.head.toNat % 2 ^ b.evt.log2.toNat * 64)) e
            ((b.evt.head.toNat >>> b.evt.log2.toNat) % 2 == 0)] }
      exact ⟨u, o, h⟩
  · exact ⟨b.evt, b.out, rfl⟩

/-- An event changes the event unit and the port record. -/
theorem raiseEvent_eq (code st c u : Nat) (a0 a1 : Word) (b : Block) :
    ∃ e o, raiseEvent code st c u a0 a1 b = { b with evt := e, out := o } := by
  unfold raiseEvent
  simp only
  obtain ⟨e, o, h⟩ := ringWrite_eq _ _
  exact ⟨e, o, h⟩

/-- An event while the event ring is off sets its alert, and unless it is COMPLETE goes to the log. -/
theorem raiseEvent_off (code st c u : Nat) (a0 a1 : Word) (b : Block) (h : b.evt.enable = false) :
    (raiseEvent code st c u a0 a1 b).evt.alerts = setBit b.evt.alerts code ∧
    (raiseEvent code st c u a0 a1 b).out = b.out := by
  unfold raiseEvent ringWrite
  simp only
  split <;> simp [h]

/-- A partition read after a trace event is as before. -/
theorem traceEvent_ctx (k c : Nat) (v r : Word) (q x st pc n : Nat) (b : Block) :
    (traceEvent k c v r q x st pc b).ctx n = b.ctx n := by
  obtain ⟨t, h⟩ := traceEvent_eq k c v r q x st pc b; rw [h]; rfl

/-- A sequencer read after a trace event is as before. -/
theorem traceEvent_seq (k c : Nat) (v r : Word) (q x st pc n : Nat) (b : Block) :
    (traceEvent k c v r q x st pc b).seq n = b.seq n := by
  obtain ⟨t, h⟩ := traceEvent_eq k c v r q x st pc b; rw [h]; rfl

end Sys2Proof.Machine
end

