-- ==== Sys2Proof/Laws/Fields.lean ====
section
/-!
SUPPORT. A field of a word that is packed from fields: it reads as it was put in, when the fields before it lie above it
and those after it below (Tables 11.1 and 11.3).
-/

namespace Sys2Proof.Machine

/-- Bits [hi:lo] of a word given as a number. -/
theorem bits_ofNat (w x hi lo : Nat) : bits (BitVec.ofNat w x) hi lo = x % 2 ^ w / 2 ^ lo % 2 ^ (hi + 1 - lo) := by
  unfold bits
  rw [BitVec.toNat_ofNat, Nat.shiftRight_eq_div_pow]

/-- One bit is a field of one bit. -/
theorem bitAt_eq_bits {n : Nat} (w : BitVec n) (i : Nat) : bitAt w i = decide (bits w i i = 1) := by
  unfold bitAt bits
  have h : i + 1 - i = 1 := by omega
  rw [BitVec.getLsbD, Nat.testBit_eq_decide_div_mod_eq, Nat.shiftRight_eq_div_pow]
  simp only [h, Nat.pow_one]

/-- Packing appends. -/
theorem packNat_append (a b : List (Nat × Nat)) : packNat (a ++ b) = packNat a + packNat b := by
  induction a with
  | nil => simp [packNat]
  | cons x a ih => simp only [List.cons_append, packNat, ih]; omega

/-- Fields that lie above a bit add up to a multiple of its weight. -/
theorem packNat_above (a : List (Nat × Nat)) (n : Nat) (h : ∀ f ∈ a, n ≤ f.1) : ∃ k, packNat a = 2 ^ n * k := by
  induction a with
  | nil => exact ⟨0, rfl⟩
  | cons x a ih =>
    obtain ⟨k, hk⟩ := ih fun f hf => h f (List.mem_cons_of_mem _ hf)
    refine ⟨x.2 * 2 ^ (x.1 - n) + k, ?_⟩
    have hx := h x List.mem_cons_self
    simp only [packNat, hk, Nat.shiftLeft_eq]
    rw [Nat.mul_add, Nat.mul_left_comm, ← Nat.pow_add, Nat.add_sub_cancel' hx]

/-- A field reads as it was put in. -/
theorem bits_quad (pre post : List (Nat × Nat)) {hi lo v : Nat} (h1 : ∀ f ∈ pre, hi + 1 ≤ f.1) (h2 : packNat post < 2 ^ lo)
    (h3 : v < 2 ^ (hi + 1 - lo)) (h4 : lo ≤ hi) (h5 : hi < 128) : bits (quad (pre ++ (lo, v) :: post)) hi lo = v := by
  obtain ⟨k, hk⟩ := packNat_above pre (hi + 1) h1
  unfold quad
  rw [bits_ofNat, packNat_append, hk]
  simp only [packNat, Nat.shiftLeft_eq]
  have e1 : 2 ^ 128 = 2 ^ lo * 2 ^ (128 - lo) := by rw [← Nat.pow_add]; congr 1; omega
  have e2 : 2 ^ (hi + 1) = 2 ^ lo * 2 ^ (hi + 1 - lo) := by rw [← Nat.pow_add]; congr 1; omega
  rw [e1, Nat.mod_mul_right_div_self, Nat.mod_mod_of_dvd _ (Nat.pow_dvd_pow 2 (by omega)), e2]
  rw [show 2 ^ lo * 2 ^ (hi + 1 - lo) * k + (v * 2 ^ lo + packNat post) = packNat post + 2 ^ lo * (v + 2 ^ (hi + 1 - lo) * k) by ring,
    Nat.add_mul_div_left _ _ (Nat.two_pow_pos lo), Nat.div_eq_of_lt h2, Nat.zero_add, Nat.add_mul_mod_self_left, Nat.mod_eq_of_lt h3]

/-- A one-bit field reads as it was put in. -/
theorem bitAt_quad (pre post : List (Nat × Nat)) {i : Nat} {v : Bool} (h1 : ∀ f ∈ pre, i + 1 ≤ f.1) (h2 : packNat post < 2 ^ i)
    (h5 : i < 128) : bitAt (quad (pre ++ (i, v.toNat) :: post)) i = v := by
  rw [bitAt_eq_bits, bits_quad pre post h1 h2 (by cases v <;> simp) (Nat.le_refl i) h5]
  cases v <;> rfl

end Sys2Proof.Machine
end

