-- ==== Sys2Proof/Laws/Regs.lean ====
section
/-!
SUPPORT. The register window (Table 18.1): the register that stands at an offset of each block of instances.
-/

namespace Sys2Proof.Machine

/-- A global register. -/
theorem ofOffset_glob {o : Nat} (h : o < 0x1000) : Reg.ofOffset (0x1000 + o) = .glob o := by
  unfold Reg.ofOffset; repeat rw [if_neg (by omega)]
  rw [if_pos (by omega)]; rw [Nat.add_sub_cancel_left]

/-- A strait register. -/
theorem ofOffset_strait {n o : Nat} (hn : n < 32) (h : o < 0x800) : Reg.ofOffset (0x10000 + 0x800 * n + o) = .strait n o := by
  unfold Reg.ofOffset; repeat rw [if_neg (by omega)]
  rw [if_pos (by omega)]; congr 1 <;> omega

/-- An entry of a route bank. -/
theorem ofOffset_route {k n : Nat} (hk : k < 2) (h : n < 0x2000) : Reg.ofOffset (0x20000 + 0x10000 * k + 8 * n) = .route k n := by
  unfold Reg.ofOffset; repeat rw [if_neg (by omega)]
  rw [if_pos (by omega)]; congr 1 <;> omega

/-- A context register. -/
theorem ofOffset_ctx {c o : Nat} (hc : c < 16) (h : o < 0x1000) : Reg.ofOffset (0x40000 + 0x1000 * c + o) = .ctx c o := by
  unfold Reg.ofOffset; repeat rw [if_neg (by omega)]
  rw [if_pos (by omega)]; congr 1 <;> omega

/-- A sequencer register. -/
theorem ofOffset_seq {q o : Nat} (hq : q < 64) (h : o < 0x400) : Reg.ofOffset (0x50000 + 0x400 * q + o) = .seq q o := by
  unfold Reg.ofOffset; repeat rw [if_neg (by omega)]
  rw [if_pos (by omega)]; congr 1 <;> omega

/-- An invalidation register. -/
theorem ofOffset_inv {a o : Nat} (ha : a < 4) (h : o < 0x40) : Reg.ofOffset (0x70400 + 0x40 * a + o) = .inv a o := by
  unfold Reg.ofOffset; repeat rw [if_neg (by omega)]
  rw [if_pos (by omega)]; congr 1 <;> omega

/-- A meter register. -/
theorem ofOffset_meter {m o : Nat} (hm : m < 64) (h : o < 0x40) : Reg.ofOffset (0x81000 + 0x40 * m + o) = .meter m o := by
  unfold Reg.ofOffset; repeat rw [if_neg (by omega)]
  rw [if_pos (by omega)]; congr 1 <;> omega

/-- A scheduler or tide register of a strait. -/
theorem ofOffset_chart {n o : Nat} (hn : n < 32) (h : o < 0x100) : Reg.ofOffset (0x82000 + 0x100 * n + o) = .chart n o := by
  unfold Reg.ofOffset; repeat rw [if_neg (by omega)]
  rw [if_pos (by omega)]; congr 1 <;> omega

/-- A thief register. -/
theorem ofOffset_thief {o : Nat} (h : o < 0x100) : Reg.ofOffset (0x90000 + o) = .thief o := by
  unfold Reg.ofOffset; repeat rw [if_neg (by omega)]
  rw [if_pos (by omega)]; rw [Nat.add_sub_cancel_left]

/-- A compatibility register. -/
theorem ofOffset_compat {k o : Nat} (hk : k < 8) (h : o < 0x100) : Reg.ofOffset (0x90800 + 0x100 * k + o) = .compat k o := by
  unfold Reg.ofOffset; repeat rw [if_neg (by omega)]
  rw [if_pos (by omega)]; congr 1 <;> omega

/-- A power register. -/
theorem ofOffset_pwr {o : Nat} (h : o < 0x10000) : Reg.ofOffset (0xA0000 + o) = .pwr o := by
  unfold Reg.ofOffset; repeat rw [if_neg (by omega)]
  rw [if_pos (by omega)]; rw [Nat.add_sub_cancel_left]

/-- A reset or maintenance register. -/
theorem ofOffset_rst {o : Nat} (h : o < 0x10000) : Reg.ofOffset (0xB0000 + o) = .rst o := by
  unfold Reg.ofOffset; repeat rw [if_neg (by omega)]
  rw [if_pos (by omega)]; rw [Nat.add_sub_cancel_left]

/-- A register of the security block. -/
theorem ofOffset_sec {o : Nat} (h : o < 0x10000) : Reg.ofOffset (0xC0000 + o) = .sec o := by
  unfold Reg.ofOffset; repeat rw [if_neg (by omega)]
  rw [if_pos (by omega)]; rw [Nat.add_sub_cancel_left]

/-- A write of a register outside the datapath is no start cause of its clock (R42). -/
theorem kickAt_plain {off : Nat} {b : Block} (h : (Reg.ofOffset off).dp = false) : kickAt off b = b := by simp [kickAt, h]

/-- A write of a datapath register is a start cause of the datapath clock (R42). -/
theorem kickAt_dp {off : Nat} {b : Block} (h : (Reg.ofOffset off).dp = true) (hk : (Reg.ofOffset off).known = true) :
    kickAt off b = kick b := by simp [kickAt, h, hk]

/-- A command that is a register write taken at once does what the write of that register does. -/
theorem regWrite_now {s : State} {p : Path} {off : Nat} {r : Reg} (v : Word) (g : Block → Block)
    (h : s.blk.Writable p off) (ha : off % 8 = 0) (hr : Reg.ofOffset off = r)
    (hg : (writeReg p s.lees r v (kickAt off s.start)).2 = g (kickAt off s.start)) :
    s.act (busWrite p off true v s.lees) = .next (s.afterWrite off g) := by
  refine act_eq ?_
  have h' : s.start.Writable p off := h
  rw [busWrite_now v s.lees h' ha, hr, hg]

/-- The same for a register outside the datapath. -/
theorem regWrite_plain {s : State} {p : Path} {off : Nat} {r : Reg} (v : Word) (g : Block → Block)
    (h : s.blk.Writable p off) (ha : off % 8 = 0) (hr : Reg.ofOffset off = r) (hd : r.dp = false)
    (hg : (writeReg p s.lees r v s.start).2 = g s.start) :
    s.act (busWrite p off true v s.lees) = .next (s.after g) := by
  refine act_eq ?_
  have h' : s.start.Writable p off := h
  rw [busWrite_now v s.lees h' ha, hr, kickAt_plain (by rw [hr]; exact hd), hg]

end Sys2Proof.Machine
end

