-- ==== Sys2Proof/Laws/Window.lean ====
section
/-!
SUPPORT. Offsets in the register window (18_registers.md R715, Table 18.3): an offset that is a multiple of 8 names a
register whose own offset is one.
-/

namespace Sys2Proof.Machine

/-- The offset of a register inside its block or instance. -/
def Reg.own : Reg → Nat
  | .ident o | .glob o | .strait _ o | .ctx _ o | .seq _ o | .rack _ o | .press o | .inst _ o | .ferry o | .xlat o | .inv _ o | .xctx _ o
  | .sched o | .queue _ o | .meter _ o | .chart _ o | .thief o | .watch _ o | .compat _ o | .utilS _ o | .util o | .pwr o | .rst o | .sec o => o
  | _ => 0
/-- The offsets that the strides of WATCH[i], XLAT.CTX[c] and COMPAT[k] leave. -/
def Reg.within : Reg → Prop
  | .watch _ o => o < 0x10
  | .xctx _ o => o < 0x100
  | .compat _ o => o < 0x100
  | _ => True
theorem ite_reg {P : Reg → Prop} {c : Prop} [Decidable c] {x y : Reg} (hx : P x) (hy : P y) : P (if c then x else y) := by split <;> assumption
/-- The own offset is a multiple of 8 and lies in the stride. -/
def Reg.aligned (r : Reg) : Prop := Reg.own r % 8 = 0 ∧ Reg.within r
theorem sub_mod8 (a k : Nat) (ha : a % 8 = 0) (hk : k % 8 = 0) : (a - k) % 8 = 0 := by omega
theorem mod_mod8 (a k : Nat) (ha : a % 8 = 0) (hk : k % 8 = 0) : (a % k) % 8 = 0 := by
  obtain ⟨j, rfl⟩ := Nat.dvd_of_mod_eq_zero hk
  rw [Nat.mod_mul_right_mod]; exact ha
theorem aligned_of {r : Reg} {x : Nat} (e : Reg.own r = x) (h : x % 8 = 0) (w : Reg.within r) : Reg.aligned r := ⟨by rw [e]; exact h, w⟩
theorem aligned_ident {x : Nat} (h : x % 8 = 0) : Reg.aligned (.ident x) := ⟨h, trivial⟩
theorem aligned_glob {x : Nat} (h : x % 8 = 0) : Reg.aligned (.glob x) := ⟨h, trivial⟩
theorem aligned_strait {n x : Nat} (h : x % 8 = 0) : Reg.aligned (.strait n x) := ⟨h, trivial⟩
theorem aligned_ctx {n x : Nat} (h : x % 8 = 0) : Reg.aligned (.ctx n x) := ⟨h, trivial⟩
theorem aligned_seq {n x : Nat} (h : x % 8 = 0) : Reg.aligned (.seq n x) := ⟨h, trivial⟩
theorem aligned_rack {n x : Nat} (h : x % 8 = 0) : Reg.aligned (.rack n x) := ⟨h, trivial⟩
theorem aligned_press {x : Nat} (h : x % 8 = 0) : Reg.aligned (.press x) := ⟨h, trivial⟩
theorem aligned_inst {n x : Nat} (h : x % 8 = 0) : Reg.aligned (.inst n x) := ⟨h, trivial⟩
theorem aligned_ferry {x : Nat} (h : x % 8 = 0) : Reg.aligned (.ferry x) := ⟨h, trivial⟩
theorem aligned_xlat {x : Nat} (h : x % 8 = 0) : Reg.aligned (.xlat x) := ⟨h, trivial⟩
theorem aligned_inv {n x : Nat} (h : x % 8 = 0) : Reg.aligned (.inv n x) := ⟨h, trivial⟩
theorem aligned_xctx {n x : Nat} (h : x % 8 = 0) (w : x < 0x100) : Reg.aligned (.xctx n x) := ⟨h, w⟩
theorem aligned_sched {x : Nat} (h : x % 8 = 0) : Reg.aligned (.sched x) := ⟨h, trivial⟩
theorem aligned_queue {n x : Nat} (h : x % 8 = 0) : Reg.aligned (.queue n x) := ⟨h, trivial⟩
theorem aligned_meter {n x : Nat} (h : x % 8 = 0) : Reg.aligned (.meter n x) := ⟨h, trivial⟩
theorem aligned_chart {n x : Nat} (h : x % 8 = 0) : Reg.aligned (.chart n x) := ⟨h, trivial⟩
theorem aligned_thief {x : Nat} (h : x % 8 = 0) : Reg.aligned (.thief x) := ⟨h, trivial⟩
theorem aligned_watch {n x : Nat} (h : x % 8 = 0) (w : x < 0x10) : Reg.aligned (.watch n x) := ⟨h, w⟩
theorem aligned_compat {n x : Nat} (h : x % 8 = 0) (w : x < 0x100) : Reg.aligned (.compat n x) := ⟨h, w⟩
theorem aligned_utilS {n x : Nat} (h : x % 8 = 0) : Reg.aligned (.utilS n x) := ⟨h, trivial⟩
theorem aligned_util {x : Nat} (h : x % 8 = 0) : Reg.aligned (.util x) := ⟨h, trivial⟩
theorem aligned_pwr {x : Nat} (h : x % 8 = 0) : Reg.aligned (.pwr x) := ⟨h, trivial⟩
theorem aligned_rst {x : Nat} (h : x % 8 = 0) : Reg.aligned (.rst x) := ⟨h, trivial⟩
theorem aligned_sec {x : Nat} (h : x % 8 = 0) : Reg.aligned (.sec x) := ⟨h, trivial⟩
/-- A register's own offset is a multiple of 8 when its offset in the window is. -/
theorem ofOffset_aligned (a : Nat) (ha : a % 8 = 0) : Reg.aligned (Reg.ofOffset a) := by
  unfold Reg.ofOffset
  refine ite_reg (P := Reg.aligned) (aligned_ident ha) ?_
  refine ite_reg (P := Reg.aligned) (aligned_glob (sub_mod8 a _ ha (by decide))) ?_
  refine ite_reg (P := Reg.aligned) ⟨Nat.zero_mod 8, trivial⟩ ?_
  refine ite_reg (P := Reg.aligned) ⟨Nat.zero_mod 8, trivial⟩ ?_
  refine ite_reg (P := Reg.aligned) ⟨Nat.zero_mod 8, trivial⟩ ?_
  refine ite_reg (P := Reg.aligned) (aligned_strait (mod_mod8 a _ ha (by decide))) ?_
  refine ite_reg (P := Reg.aligned) ⟨Nat.zero_mod 8, trivial⟩ ?_
  refine ite_reg (P := Reg.aligned) (aligned_ctx (mod_mod8 a _ ha (by decide))) ?_
  refine ite_reg (P := Reg.aligned) (aligned_seq (mod_mod8 a _ ha (by decide))) ?_
  refine ite_reg (P := Reg.aligned) (aligned_rack (mod_mod8 a _ ha (by decide))) ?_
  refine ite_reg (P := Reg.aligned) (aligned_press (sub_mod8 a _ ha (by decide))) ?_
  refine ite_reg (P := Reg.aligned) (aligned_inst (mod_mod8 a _ ha (by decide))) ?_
  refine ite_reg (P := Reg.aligned) (aligned_ferry (sub_mod8 a _ ha (by decide))) ?_
  refine ite_reg (P := Reg.aligned) (aligned_xlat (sub_mod8 a _ ha (by decide))) ?_
  refine ite_reg (P := Reg.aligned) (aligned_inv (mod_mod8 a _ ha (by decide))) ?_
  refine ite_reg (P := Reg.aligned) ⟨Nat.zero_mod 8, trivial⟩ ?_
  refine ite_reg (P := Reg.aligned) (aligned_xctx (mod_mod8 a _ ha (by decide)) (Nat.mod_lt _ (by decide))) ?_
  refine ite_reg (P := Reg.aligned) ⟨Nat.zero_mod 8, trivial⟩ ?_
  refine ite_reg (P := Reg.aligned) ⟨Nat.zero_mod 8, trivial⟩ ?_
  refine ite_reg (P := Reg.aligned) ⟨Nat.zero_mod 8, trivial⟩ ?_
  refine ite_reg (P := Reg.aligned) (aligned_sched (sub_mod8 a _ ha (by decide))) ?_
  refine ite_reg (P := Reg.aligned) (aligned_queue (mod_mod8 a _ ha (by decide))) ?_
  refine ite_reg (P := Reg.aligned) ⟨Nat.zero_mod 8, trivial⟩ ?_
  refine ite_reg (P := Reg.aligned) (aligned_meter (mod_mod8 a _ ha (by decide))) ?_
  refine ite_reg (P := Reg.aligned) (aligned_chart (mod_mod8 a _ ha (by decide))) ?_
  refine ite_reg (P := Reg.aligned) ⟨Nat.zero_mod 8, trivial⟩ ?_
  refine ite_reg (P := Reg.aligned) ⟨Nat.zero_mod 8, trivial⟩ ?_
  refine ite_reg (P := Reg.aligned) (aligned_thief (sub_mod8 a _ ha (by decide))) ?_
  refine ite_reg (P := Reg.aligned) (aligned_watch (mod_mod8 a _ ha (by decide)) (Nat.mod_lt _ (by decide))) ?_
  refine ite_reg (P := Reg.aligned) ⟨Nat.zero_mod 8, trivial⟩ ?_
  refine ite_reg (P := Reg.aligned) (aligned_compat (mod_mod8 a _ ha (by decide)) (Nat.mod_lt _ (by decide))) ?_
  refine ite_reg (P := Reg.aligned) ⟨Nat.zero_mod 8, trivial⟩ ?_
  refine ite_reg (P := Reg.aligned) ⟨Nat.zero_mod 8, trivial⟩ ?_
  refine ite_reg (P := Reg.aligned) (aligned_utilS (mod_mod8 a _ ha (by decide))) ?_
  refine ite_reg (P := Reg.aligned) ⟨Nat.zero_mod 8, trivial⟩ ?_
  refine ite_reg (P := Reg.aligned) (aligned_util (sub_mod8 a _ ha (by decide))) ?_
  refine ite_reg (P := Reg.aligned) (aligned_pwr (sub_mod8 a _ ha (by decide))) ?_
  refine ite_reg (P := Reg.aligned) (aligned_rst (sub_mod8 a _ ha (by decide))) ?_
  refine ite_reg (P := Reg.aligned) (aligned_sec (sub_mod8 a _ ha (by decide))) ?_
  refine ite_reg (P := Reg.aligned) ⟨Nat.zero_mod 8, trivial⟩ ?_
  refine ite_reg (P := Reg.aligned) ⟨Nat.zero_mod 8, trivial⟩ ?_
  refine ite_reg (P := Reg.aligned) ⟨Nat.zero_mod 8, trivial⟩ ?_
  refine ite_reg (P := Reg.aligned) ⟨Nat.zero_mod 8, trivial⟩ ?_
  exact aligned_of (x := 0) rfl (Nat.zero_mod 8) trivial

end Sys2Proof.Machine
end

