-- ==== Sys2Proof/Laws/Wire.lean ====
section
/-!
SUPPORT. Bytes and the numbers they spell (R10), and the bytes and trailer of a flit (10_straits_link_layer.md R429): what
is packed into the last eight bytes of an image is what the trailer reads.
-/

namespace Sys2Proof.Machine

/-- The bytes of a number spell it, up to the bytes taken. -/
theorem bytesNat_natBytes (k n : Nat) : bytesNat (natBytes k n) = n % 256 ^ k := by
  induction k generalizing n with
  | zero => simp [natBytes, bytesNat, Nat.mod_one]
  | succ k ih => rw [natBytes, bytesNat, ih, BitVec.toNat_ofNat, Nat.pow_succ' (n := k) (m := 256), Nat.mod_mul]

/-- The length of the bytes of a number. -/
@[simp] theorem natBytes_length (k n : Nat) : (natBytes k n).length = k := by
  induction k generalizing n with
  | zero => rfl
  | succ k ih => rw [natBytes, List.length_cons, ih]

/-- Bytes after bytes count from the first ones' length on. -/
theorem bytesNat_append (l r : List Byte) : bytesNat (l ++ r) = bytesNat l + 256 ^ l.length * bytesNat r := by
  induction l with
  | nil => simp [bytesNat]
  | cons b l ih => rw [List.cons_append, bytesNat, bytesNat, ih, List.length_cons, Nat.pow_succ']; ring

/-- The bytes of the number that bytes spell are those bytes. -/
theorem natBytes_bytesNat (l : List Byte) : natBytes l.length (bytesNat l) = l := by
  induction l with
  | nil => rfl
  | cons b l ih =>
    have hb := b.isLt
    rw [List.length_cons, bytesNat, natBytes, show (b.toNat + 256 * bytesNat l) / 256 = bytesNat l by omega, ih]
    congr 1
    apply BitVec.eq_of_toNat_eq
    rw [BitVec.toNat_ofNat]; omega

/-- Bytes spell a number below 256 to their count. -/
theorem bytesNat_lt (l : List Byte) : bytesNat l < 256 ^ l.length := by
  induction l with
  | nil => decide
  | cons b l ih =>
    have hb := b.isLt
    rw [bytesNat, List.length_cons, Nat.pow_succ' (n := l.length) (m := 256)]; omega

/-- The low bytes of a number are those of its remainder. -/
theorem natBytes_mod (k n : Nat) : natBytes k (n % 256 ^ k) = natBytes k n := by
  rw [← bytesNat_natBytes]
  have := natBytes_bytesNat (natBytes k n)
  rwa [natBytes_length] at this

/-- Bytes read from the most significant one on spell the number of the reversed bytes. -/
theorem foldl_bytes (l : List Byte) (a : Nat) :
    l.foldl (fun a b => 256 * a + b.toNat) a = bytesNat l.reverse + 256 ^ l.length * a := by
  induction l generalizing a with
  | nil => simp [bytesNat]
  | cons b l ih =>
    rw [List.foldl_cons, ih, List.reverse_cons, bytesNat_append, List.length_reverse, bytesNat, bytesNat, List.length_cons,
      Nat.pow_succ']; ring

/-- The bytes of a number, one by one. -/
theorem natBytes_range (k n : Nat) : natBytes k n = (List.range k).map fun i => BitVec.ofNat 8 (n >>> (8 * i)) := by
  induction k generalizing n with
  | zero => rfl
  | succ k ih =>
    rw [List.range_succ_eq_map, natBytes, ih]
    simp only [List.map_cons, List.map_map, Nat.mul_zero, Nat.shiftRight_zero]
    congr 1
    apply List.map_congr_left
    intro i _
    simp only [Function.comp]
    congr 1
    rw [show 8 * Nat.succ i = 8 + 8 * i by omega, Nat.shiftRight_add, Nat.shiftRight_eq_div_pow n 8]

/-- Bytes off to off + len of a flit are those of the number shifted down. -/
theorem flitBytes_eq (f : BitVec 1024) (off len : Nat) : flitBytes f off len = natBytes len (f.toNat / 2 ^ (8 * off)) := by
  rw [natBytes_range]
  unfold flitBytes
  apply List.map_congr_left
  intro i _
  unfold flitByte
  rw [Nat.mul_add, Nat.shiftRight_add, Nat.shiftRight_eq_div_pow f.toNat]

/-- The trailer of a flit whose last 8 bytes are those of h, then those of c, each most significant byte first (R429). -/
theorem flitTrailer_of (f : BitVec 1024) (h c : Nat) (hh : h < 2 ^ 32) (hc : c < 2 ^ 32)
    (hf : f.toNat / 2 ^ 960 = bytesNat ((natBytes 4 h).reverse ++ (natBytes 4 c).reverse)) :
    flitTrailer f = BitVec.ofNat 64 (h * 2 ^ 32 + c) := by
  have e : natBytes 8 (bytesNat ((natBytes 4 h).reverse ++ (natBytes 4 c).reverse)) = _ :=
    natBytes_bytesNat ((natBytes 4 h).reverse ++ (natBytes 4 c).reverse)
  unfold flitTrailer w64
  rw [flitBytes_eq, show 8 * 120 = 960 from rfl, hf, e, foldl_bytes, List.reverse_append, List.reverse_reverse, List.reverse_reverse,
    bytesNat_append, bytesNat_natBytes, bytesNat_natBytes, natBytes_length]
  congr 1
  omega

end Sys2Proof.Machine
end

