-- ==== Sys2Proof/Laws/Words.lean ====
section
/-!
SUPPORT. What the shared operations of sequencers leave alone: returns of permit units, the holdings of a sequencer, and
the end of a word (`setPc`, `advanceFrom`, `wordDone`).
-/

namespace Sys2Proof.Machine

/-- A power block whose needs and life are those of another: no need waits that did not, and it is alive as before. -/
def Power.SameNeeds (p p' : Power) : Prop := (p'.waiting = [] → p.waiting = []) ∧ p.alive = p'.alive

/-- A return of units touches the power block and the port record. -/
theorem returnUnits_eq (u : Nat) (b : Block) :
    ∃ p o, returnUnits u b = { b with pwr := p, out := o } ∧ p.SameNeeds b.pwr := by
  unfold returnUnits; split
  · exact ⟨b.pwr, b.out, rfl, id, rfl⟩
  · exact ⟨_, _, rfl, id, rfl⟩

/-- Dropping a sequencer's holding touches its hint, its permit, the power block and the port record. -/
theorem dropHolding_eq (q : Nat) (b : Block) :
    ∃ x y p o, dropHolding q b = { b.modSeq q (fun s =>
        { s with awake := none, permitHeld := 0, permitLent := x, permitOwed := y }) with pwr := p, out := o } ∧
      p.SameNeeds b.pwr := by
  unfold dropHolding cancelAcquire lowerHolding
  simp only
  generalize min (_ - 0) (_ - _) = u
  obtain ⟨p, o, h, hp⟩ := returnUnits_eq u
    ((b.modSeq q fun s => { s with awake := none }).modSeq q fun s => { s with
      permitHeld := s.permitHeld - (((b.modSeq q fun s => { s with awake := none }).seq q).permitHeld - 0)
      permitLent := s.permitLent - (((b.modSeq q fun s => { s with awake := none }).seq q).permitHeld - 0 - u)
      permitOwed := s.permitOwed + (((b.modSeq q fun s => { s with awake := none }).seq q).permitHeld - 0 - u) })
  rw [h]
  refine ⟨(b.seq q).permitLent - ((b.seq q).permitHeld - 0 - u), (b.seq q).permitOwed + ((b.seq q).permitHeld - 0 - u),
    (cancelPermits (fun w => w == PermitWho.seq q) { b with pwr := p }).pwr, o, ?_, ?_, hp.2⟩
  · simp only [cancelPermits, Block.modSeq_modSeq, Block.modSeq_seq]
    simp [Block.modSeq, tmod, Block.seq]
  · intro hw
    have hw' : p.waiting = [] := hp.1 hw
    show List.map _ p.waiting = []
    rw [hw']; rfl

/-- What a move of PC can change: the sequencer's PC, its state to HALTED, and what a halt clears. -/
theorem setPc_eq (q n : Nat) (b : Block) : ∃ pc st a h x y p o,
    setPc q n b = { b.modSeq q (fun s =>
      { s with pc, st, awake := a, permitHeld := h, permitLent := x, permitOwed := y }) with pwr := p, out := o } ∧
    ((st = (b.seq q).st ∧ a = (b.seq q).awake ∧ h = (b.seq q).permitHeld ∧ x = (b.seq q).permitLent ∧ y = (b.seq q).permitOwed) ∨
      st = .halted) ∧ p.SameNeeds b.pwr := by
  unfold setPc
  split
  · obtain ⟨x, y, p, o, e, hp⟩ := dropHolding_eq q (b.modSeq q fun s => { s with pc := 0, st := .halted })
    refine ⟨0, .halted, none, 0, x, y, p, o, ?_, .inr rfl, hp⟩
    rw [e]; simp only [Block.modSeq_modSeq]
  · refine ⟨BitVec.ofNat 11 n, (b.seq q).st, (b.seq q).awake, (b.seq q).permitHeld, (b.seq q).permitLent, (b.seq q).permitOwed,
      b.pwr, b.out, ?_, .inl ⟨rfl, rfl, rfl, rfl, rfl⟩, id, rfl⟩
    simp only [Block.modSeq, tmod, Block.seq]

/-- What the end of a word can change: the sequencer's PC, loop counters and, at the program's end, its state and what a
halt clears; the count of words. -/
theorem wordDone_eq (q e n : Nat) (b : Block) : ∃ pc l st a h x y p o,
    wordDone q e n b = { b.modSeq q (fun s =>
      { s with pc, l, st, awake := a, permitHeld := h, permitLent := x, permitOwed := y }) with
      pwr := p, out := o, util := { b.util with dxiWords := b.util.dxiWords + w64 n } } ∧
    ((st = (b.seq q).st ∧ a = (b.seq q).awake ∧ h = (b.seq q).permitHeld ∧ x = (b.seq q).permitLent ∧ y = (b.seq q).permitOwed) ∨
      st = .halted) ∧ p.SameNeeds b.pwr := by
  unfold wordDone advanceFrom
  simp only
  generalize loopBack _ _ _ = z
  obtain ⟨m, l⟩ := z
  obtain ⟨pc, st, a, h, x, y, p, o, e', hs, hp⟩ := setPc_eq q m ((countWords n b).modSeq q fun s => { s with l := l })
  refine ⟨pc, l, st, a, h, x, y, p, o, ?_, ?_, hp⟩
  · simp only [e', Block.modSeq_modSeq]; rfl
  · simp only [Block.modSeq_seq] at hs; exact hs

/-- A word that is done leaves contexts, tallies, memory and every other part alone. -/
theorem wordDone_ctx (q e n c : Nat) (b : Block) : (wordDone q e n b).ctx c = b.ctx c := by
  obtain ⟨_, _, _, _, _, _, _, _, _, h, -⟩ := wordDone_eq q e n b; rw [h]; rfl

/-- A word that is done leaves its sequencer's owner. -/
theorem wordDone_owner (q e n : Nat) (b : Block) : ((wordDone q e n b).seq q).owner = (b.seq q).owner := by
  obtain ⟨pc, l, st, a, hh, x, y, p, o, h, -⟩ := wordDone_eq q e n b; rw [h]
  simp [Block.seq, Block.modSeq]

/-- A word that is done leaves its sequencer's partition. -/
theorem wordDone_partOf (q e n : Nat) (b : Block) : partOf (wordDone q e n b) q = partOf b q := by
  unfold partOf ownerOf; rw [wordDone_ctx, wordDone_owner]

end Sys2Proof.Machine
end

