-- ==== Sys2Proof/WellFormed.lean ====
section
/-!
DEFINITION. When the operands of a command are ones that the spec gives the port or the table it
comes from. A command that is not well-formed is one that no sender of the spec can send.
-/

namespace Sys2Proof

/-- The flits that an error strikes are among the 35 that a packet can have (10_straits_link_layer.md R431: 48 B, at
most 4,096 B of payload and an extension of 8 B, in flits of 120 B). -/
def hitsOk (hits : List Nat) : Bool := hits.all fun i => decide (i < 35)

/-- What a strait receives fits it: codewords come on the SerDes straits (10_straits_link_layer.md R425), slots of
the 64-slot frame on causeways, straits 0 and 1 (R428). -/
def RxBits.fits (n : StraitId) : RxBits → Bool
  | .held => decide (2 ≤ n.val)
  | .codeword _ => decide (2 ≤ n.val)
  | .slot _ => decide (n.val < 2)

/-- The operands lie in the ranges of the spec: what a packet and a strait's receiver hold, the undefined opcodes of
SEC.CMD (Table 9.5), the straps of Table 17.4, the lees space of the service port (R703) and a settings
record with its header (Table 16.11). -/
def Instr.wellFormed : Instr → Bool
  | .packetRead x | .packetWrite x | .packetAtomic x | .packetSignal x | .packetForward x | .packetData x | .packetResp x
  | .packetColl x | .packetControl x | .malformedPacket x => hitsOk x.hits
  | .flitReceive n rx _ | .idleFlit n rx _ | .stateFlit n rx _ | .nak n rx _ | .query n rx _ | .dozeReq n rx _ | .dozeAck n rx _
  | .calReq n rx _ | .retrainReq n rx _ | .timeFlit n rx _ _ | .undefinedControlFlit n rx _ => rx.fits n
  | .secCmdUndefined op => decide (op = 0 ∨ 8 < op.toNat)
  | .porRelease straps => decide (straps &&& 0xFFFFFFF9 = 0)
  | .svcRead _ len => decide (len ≤ 0x200000)
  | .settingsRecord ws => decide (2 ≤ ws.length)
  | _ => true

end Sys2Proof
end

