-- ==== Sys2Proof/Tests/Slice0.lean ====
section
/-!
SUPPORT. The model's own tests: ill-formed operands, a witness for the hypotheses of each statement, clause by clause, and a
few commands with results worked out from the manual.
-/

open Sys2Proof Sys2Proof.Machine

-- One theorem at a time: each runs the kernel, and waiting ones would hold a stack each.
set_option Elab.async false

namespace Sys2Proof.Tests

/-! ### Small states -/

/-- A state with a block, nothing waiting. -/
def run (b : Block) : State := { pending := [], lees := [], blk := b }

/-- The block after a command. -/
def after (o : Host.Outcome State Fault Refusal) : Block :=
  match o with
  | .next t => t.blk
  | _ => {}

/-- The reset block with the datapath clock RUNNING. -/
def blockOn : Block := { Block.reset with pwr := { dp := .running } }

/-- Sequencer 0 of context 0 (bound to partition 0, whose CURRENT key is in slot 0), RUNNING at word 0. -/
def seqOn (x : Seq) (b : Block) : Block :=
  { b with
    ctxs := [(0, { valid := true, st := .running, engineMask := 1 })]
    keys := { slots := [(0, { st := .current, vintage := 1 })] }
    seqs := [(0, { x with ownerValid := true, owner := 0, st := .running, instances := 1, engines := [0] })] }

/-- That sequencer at the first of some words, with some G registers. -/
def seqAt (words : List Quad) (g : Tbl Word) : Block := seqOn { words, g } blockOn

/-- A DXI word: its opcode and its other fields. -/
def dxiWord (op : Nat) (fs : List (Nat × Nat)) : Quad := quad ((120, op) :: fs)

/-! ### Ill-formed operands -/

theorem test_wf_packet : (Instr.packetRead ⟨2, 1, [35], false⟩).wellFormed = false ∧ (Instr.packetRead ⟨2, 1, [0, 34], true⟩).wellFormed = true := by decide
theorem test_wf_flit : (Instr.idleFlit 2 (.slot 0) 0).wellFormed = false ∧ (Instr.idleFlit 1 (.slot 0) 0).wellFormed = true ∧
    (Instr.nak 1 .held 0).wellFormed = false ∧ (Instr.nak 2 .held 0).wellFormed = true := by decide
theorem test_wf_sec : (Instr.secCmdUndefined 8).wellFormed = false ∧ (Instr.secCmdUndefined 9).wellFormed = true ∧
    (Instr.secCmdUndefined 0).wellFormed = true := by decide
theorem test_wf_straps : (Instr.porRelease 1).wellFormed = false ∧ (Instr.porRelease 0xFFFFFFFF00000006).wellFormed = true := by decide
theorem test_wf_service : (Instr.svcRead 0 0x200001).wellFormed = false ∧ (Instr.svcRead 0 0x200000).wellFormed = true := by decide
theorem test_wf_settings : (Instr.settingsRecord [0]).wellFormed = false ∧ (Instr.settingsRecord [0, 0]).wellFormed = true := by decide

/-! ### The table gives no encoded words -/

theorem test_no_encoded_word : decodeTableWord 0 0 = none ∧ (State.reset.withFetchWord 0 0).pending = [] := by decide

/-! ### Witnesses: the block as a whole -/

theorem witness_EmptyQueueIsOneClockCycle : (run blockOn).pending = [] ∧ (run blockOn).Inv ∧ State.reset.pending = [] ∧ State.reset.Inv := by
  unfold State.Inv; decide
theorem witness_EveryCommandAnswersANextState : Memory.wf State.reset.lees = true ∧ Memory.wf [(0, 1), (0x1FFFFF, 255)] = true := by decide
theorem witness_EveryStepKeepsTheInvariant : ∃ t, (run blockOn).Inv ∧ Machine.step { run blockOn with pending := [.tallyUpdate] } = .next t :=
  ⟨_, by unfold State.Inv; decide, rfl⟩
theorem witness_NothingElseFollowsAQuietCommand : (run blockOn).Inv ∧ (run blockOn).blk.pwr.waiting = [] ∧ (id (run blockOn).start).Quiet ∧
    (id (run blockOn).start).evt.leesOps = [] := by
  unfold State.Inv Block.Quiet; decide
theorem witness_LeesBytesReadAsWritten : Memory.wf [(5, (1 : Byte))] = true ∧ 0x1FFFFF < leesBytes ∧ leesBytes ≤ 0x200000 := by decide

/-! ### Witnesses: words of the sequencers -/

/-- NOP, SET, ALU (SUB of G2 from G1 into G3), CMP (LTS of G1 and G2 into P1), BR to word 1 and LOOPs. -/
def nopWord : Quad := dxiWord 0x00 []
def setWord : Quad := dxiWord 0x01 [(108, 15), (0, 0xFFFFFFFFFFFFFFFF)]
def subWord : Quad := dxiWord 0x02 [(112, 1), (108, 3), (104, 1), (96, 2)]
def ltsWord : Quad := dxiWord 0x03 [(112, 4), (110, 1), (104, 1), (96, 2)]
def brWord : Quad := dxiWord 0x04 [(0, 1)]
def loopWord (count : Nat) : Quad := dxiWord 0x05 [(32, 1), (0, count)]
/-- A test of P0, which is 0. -/
def testP0 (w : Quad) : Quad := w ||| quad [(119, 1)]

theorem witness_RegisterWordsComplete :
    (seqAt [nopWord, 0] []).Issues 0 0x00 nopWord ∧ (seqAt [setWord, 0] []).Issues 0 0x01 setWord ∧
    (seqAt [subWord, 0] []).Issues 0 0x02 subWord ∧ (seqAt [ltsWord, 0] []).Issues 0 0x03 ltsWord := by
  unfold Block.Issues Block.AtWord; decide
theorem test_set : tget 0 ((after (Machine.exec (.set 0) (run (seqAt [setWord, 0] [])))).seq 0).g 15 = 0xFFFFFFFFFFFFFFFF := by decide
theorem test_alu_wraps : tget 0 ((after (Machine.exec (.alu 0) (run (seqAt [subWord, 0] [(1, 3), (2, 5)])))).seq 0).g 3 = 0xFFFFFFFFFFFFFFFE := by decide
theorem test_cmp_signed : ((after (Machine.exec (.cmp 0) (run (seqAt [ltsWord, 0] [(1, 0xFFFFFFFFFFFFFFFF), (2, 0)])))).seq 0).p = 2 := by decide

theorem witness_BranchesLoopsAndProgramCounter :
    (seqAt [brWord, 0] []).Issues 0 0x04 brWord ∧ (seqAt [loopWord 2, 0, 0] []).Issues 0 0x05 (loopWord 2) ∧
    (seqAt [loopWord 0, 0, 0] []).Issues 0 0x05 (loopWord 0) ∧
    (seqAt [testP0 (loopWord 2), 0, 0] []).AtWord 0 (testP0 (loopWord 2)) ∧ wOpcode (testP0 (loopWord 2)) = 0x05 ∧
    testHolds ((seqAt [testP0 (loopWord 2), 0, 0] []).seq 0) (testP0 (loopWord 2)) = false := by
  unfold Block.Issues Block.AtWord; decide
theorem witness_BranchesLoopsAndProgramCounter_next :
    let b (n : BitVec 32) := seqOn { words := [loopWord 2, 0, 0], l := [(0, n)] } blockOn
    loopsEnding ((b 0).seq 0).words 2 = [] ∧ 2 + 1 = ((b 0).seq 0).words.length ∧ loopsEnding ((b 0).seq 0).words 0 = [] ∧
    loopsEnding ((b 2).seq 0).words 1 = [(0, 0)] ∧ 1 < (tget 0 ((b 2).seq 0).l 0).toNat ∧ (tget 0 ((b 1).seq 0).l 0).toNat ≤ 1 ∧
    0 + 1 ≠ ((b 0).seq 0).words.length ∧ 1 + 1 ≠ ((b 0).seq 0).words.length := by decide
theorem test_loop_zero_skips : ((after (Machine.exec (.loop 0) (run (seqAt [loopWord 0, 0, 0] [])))).seq 0).pc = 2 := by decide
theorem test_br : ((after (Machine.exec (.br 0) (run (seqAt [brWord, 0] [])))).seq 0).pc = 1 := by decide

/-- GET of one word into G3, PUT of G4 and G5, ATOMIC ADD of INT32 with the old value asked for, all at G1. -/
def getWord : Quad := dxiWord 0x11 [(112, 0), (108, 3), (104, 1)]
def get8Word : Quad := dxiWord 0x11 [(112, 7), (108, 3), (104, 1)]
def putWord : Quad := dxiWord 0x12 [(112, 1), (108, 4), (104, 1), (103, 1), (90, 7)]
def atomicWord : Quad := dxiWord 0x13 [(112, 0), (108, 3), (104, 1), (100, 2), (93, 1)]

theorem witness_RemoteAccessWordsComplete :
    let b (w : Quad) (va : Word) := seqAt [w, 0] [(1, va)]
    seqTag (b getWord 0) 0 = some 12288 ∧ currentSlot (b getWord 0) (partOf (b getWord 0) 0) = some 0 ∧
    (b getWord 0x1FFFFFFFFFFFFF8).Issues 0 0x11 getWord ∧ (0x1FFFFFFFFFFFFF8 : Word).toNat < 2 ^ 57 ∧
    (b get8Word 64).Issues 0 0x11 get8Word ∧ (b putWord 48).Issues 0 0x12 putWord ∧ 48 % 64 + 8 * 2 ≤ 64 ∧
    (b atomicWord 60).Issues 0 0x13 atomicWord ∧ 60 % atomBytes 0 = 0 := by
  unfold Block.Issues Block.AtWord; decide

/-- SIGNAL of 5 to T9, of G2 to T9 of the node and context in G1; WAIT for T9 to reach G1, its ERROR into P2. -/
def signalWord : Quad := dxiWord 0x14 [(91, 9), (0, 5)]
def signalRegWord : Quad := dxiWord 0x14 [(112, 3), (108, 1), (104, 2), (91, 9)]
def waitWord : Quad := dxiWord 0x15 [(110, 2), (104, 1), (91, 9)]
def fenceWord (k : Nat) : Quad := dxiWord 0x16 [(112, k)]

/-- The block with a value in T9 of context 0. -/
def tally9 (v : Word) (b : Block) : Block := { b with tally := { tallies := [(9, v)] } }

/-- A PUT of sequencer 0 that is open, on a tag. -/
def openPut (tag : Nat) : PReq :=
  { tag, src := .seq 0 0, ctx := 0, part := 0, op := .write 0xFF 0, va := 0, hint := 0, dt := none, gd := 0, stage := .sent, key := some 0,
    weight := false, node := 1, off := 0, dctx := 0 }

theorem witness_SignalWaitAndFenceComplete_signal :
    (seqAt [signalWord, 0] []).Issues 0 0x14 signalWord ∧ bitAt signalWord 112 = false ∧ bits signalWord 31 0 ≠ 0 ∧
    (seqAt [signalRegWord, 0] [(1, 0xF1FFF), (2, 0)]).Issues 0 0x14 signalRegWord ∧ bitAt signalRegWord 112 = true ∧
    bits (0xF1FFF : Word) 63 20 = 0 ∧ bits (0xF1FFF : Word) 15 13 = 0 ∧ seqTag (seqAt [signalRegWord, 0] []) 0 = some 12288 := by
  unfold Block.Issues Block.AtWord; decide
theorem witness_SignalWaitAndFenceComplete_wait :
    let b (v : Word) (t : Word) := tally9 v (seqAt [waitWord, 0] [(1, t)])
    (b 5 5).Issues 0 0x15 waitWord ∧ ((((b 5 5).tallyOf 0 9).toNat % 2 ^ 63 : Int) - 5) % 2 ^ 63 < 2 ^ 62 ∧
    (b 4 5).Issues 0 0x15 waitWord ∧ 2 ^ 62 ≤ ((((b 4 5).tallyOf 0 9).toNat % 2 ^ 63 : Int) - 5) % 2 ^ 63 := by
  unfold Block.Issues Block.AtWord; decide
theorem witness_SignalWaitAndFenceComplete_fence :
    let b (k : Nat) (l : List PReq) := { seqAt [fenceWord k, 0] [] with portal := { reqs := l } }
    (b 1 []).Issues 0 0x16 (fenceWord 1) ∧ fenceClear (b 1 []) 0 (bits (fenceWord 1) 115 112) = true ∧
    (b 1 [openPut 12288]).Issues 0 0x16 (fenceWord 1) ∧ fenceClear (b 1 [openPut 12288]) 0 (bits (fenceWord 1) 115 112) = false ∧
    (let c := seqOn { words := [fenceWord 1, 0], hold := .fence, fenceKind := 1 } blockOn
     (c.seq 0).hold = .fence ∧ (c.seq 0).st = .running ∧ fenceClear c 0 (c.seq 0).fenceKind.toNat = true) := by
  unfold Block.Issues Block.AtWord; decide
theorem test_wait_error_bit : ((after (Machine.exec (.wait 0) (run (tally9 0x8000000000000005 (seqAt [waitWord, 0] [(1, 5)]))))).seq 0).p = 4 := by decide
theorem test_wait_waits : ((after (Machine.exec (.wait 0) (run (tally9 4 (seqAt [waitWord, 0] [(1, 5)]))))).seq 0).st = .waiting := by decide

theorem witness_RemoteAccessWordsFaultOrHold :
    let b (va : Word) := seqAt [getWord, 0] [(1, va)]
    (b 0x200000000000000).Issues 0 0x11 getWord ∧ ¬ (0x200000000000000 : Word).toNat < 2 ^ 57 ∧ (b 4).Issues 0 0x11 getWord ∧ ¬ 4 % 8 = 0 ∧
    (let full := { b 8 with portal := { reqs := (List.range 64).map fun i => openPut (12288 + i) } }
     full.Issues 0 0x11 getWord ∧ seqTag full 0 = none) ∧
    (let noKey := { b 8 with keys := {} }
     noKey.Issues 0 0x11 getWord ∧ (seqTag noKey 0).isSome = true ∧ currentSlot noKey (partOf noKey 0) = none) := by
  unfold Block.Issues Block.AtWord; decide

/-! ### Witnesses: MOVE, KEYSEL, COLL and FERRY -/

/-- MOVE of G3 bytes from G1 to G2 on engine 0, CT T9; KEYSEL CURRENT and WEIGHT 1. -/
def moveWord : Quad := dxiWord 0x10 [(112, 1), (108, 1), (104, 2), (100, 3), (69, 9)]
def keyselWord (k : Nat) : Quad := dxiWord 0x33 [(112, k), (0, 1)]

/-- A transfer of sequencer 0 with some bytes to go. -/
def xferOf (len : Nat) (key : Option Nat) : Xfer :=
  { seq := 0, ctx := 0, pc := 0, src := 0x10000, dst := 0x20000, len, dt := none, ct := none, hint := 0, rate := 0, weight := none, key,
    lent := 0, asked := 0, issued := 0, chunks := 0, errored := false, firstErr := 0, stopped := false, last := none, maint := none, serial := 1 }

theorem witness_MoveAndKeyselComplete_move :
    let b (len : Word) := seqAt [moveWord, 0] [(1, 0x1FFFFFFFFFFFFC0), (2, 64), (3, len)]
    let full := { b 64 with racks := [(0, { queue := List.replicate 4 (xferOf 64 none) })] }
    (b 0xFFFFFFFFC0).Issues 0 0x10 moveWord ∧ (0x1FFFFFFFFFFFFC0 : Word).toNat < 2 ^ 57 ∧ (0xFFFFFFFFC0 : Word).toNat < 2 ^ 40 ∧
    engineArg ((b 64).seq 0) moveWord = 0 ∧ ((b 64).rack 0).queue.length < 4 ∧ full.Issues 0 0x10 moveWord ∧ 4 ≤ (full.rack 0).queue.length ∧
    (b 0).Issues 0 0x10 moveWord ∧ bitAt moveWord 112 = true ∧ (b 65).Issues 0 0x10 moveWord ∧ ¬ 65 % 64 = 0 ∧
    (b 0x10000000000).Issues 0 0x10 moveWord ∧ ¬ (0x10000000000 : Word).toNat < 2 ^ 40 := by
  unfold Block.Issues Block.AtWord; decide
theorem witness_MoveAndKeyselComplete_keysel :
    let b (k : Nat) (v : Quad) := seqAt [keyselWord k, v, 0] [(1, 64)]
    let weight (pmask : BitVec 4) := { b 1 getWord with keys := { slots := [(0, { st := .current }), (13, { st := .weight, pmask })] } }
    (b 1 (testP0 getWord)).AtWord 0 (keyselWord 1) ∧ wOpcode (keyselWord 1) = 0x33 ∧
    ((b 1 (testP0 getWord)).seq 0).words[((b 1 (testP0 getWord)).seq 0).pc.toNat + 1]? = some (testP0 getWord) ∧
    testHolds ((b 1 (testP0 getWord)).seq 0) (testP0 getWord) = false ∧
    (weight 1).AtWord 0 (keyselWord 1) ∧ wOpcode getWord = 0x11 ∧ bits (keyselWord 1) 115 112 = 1 ∧ seqTag (weight 1) 0 = some 12288 ∧
    testHolds ((weight 1).seq 0) getWord = true ∧ weightHeld (weight 1) (partOf (weight 1) 0) (bits (keyselWord 1) 1 0) = true ∧
    (weight 2).AtWord 0 (keyselWord 1) ∧ weightHeld (weight 2) (partOf (weight 2) 0) (bits (keyselWord 1) 1 0) = false ∧
    (b 0 moveWord).AtWord 0 (keyselWord 0) ∧ wOpcode moveWord = 0x10 ∧ testHolds ((b 0 moveWord).seq 0) moveWord = true ∧
    (b 0 putWord).AtWord 0 (keyselWord 0) ∧ wOpcode putWord = 0x12 ∧ testHolds ((b 0 putWord).seq 0) putWord = true := by
  unfold Block.AtWord; decide
theorem test_move_queues_and_runs : ((after (Machine.exec (.move 0) (run (seqAt [moveWord, 0] [(1, 64), (2, 128), (3, 64)])))).rack 0).st = .permitWait := by
  decide

/-- A group of two nodes, this node being member 0, with one slot and one chunk position. -/
def groupOfTwo : Machine.Group :=
  { seq := 0, ctx := 0, shape := [2], path := [0], nodes := [0, 1], chunk := 12, window := 1, slots := 1, cls := 0, nextSeq := 0, credits := [],
    grants := [] }

/-- ALL_REDUCE (SUM of INT32) and BROADCAST in group 5: source G1, result G2, count G3, root G4; FERRY SUM of G1 and G2, and BARRIER. -/
def collWord (kind : Nat) : Quad := dxiWord 0x20 [(112, kind), (108, 1), (104, 2), (100, 3), (96, 4), (86, 5), (79, 1), (65, 9)]
def ferryWord (op : Nat) : Quad := dxiWord 0x21 [(112, op), (108, if op = 6 then 0 else 1), (106, if op = 6 then 0 else 1), (96, 5), (89, 3), (76, 9)]

/-- Sequencer 0 at a word of group 5. -/
def groupAt (w : Quad) (g : Tbl Word) : Block :=
  { seqOn { words := [w, 0], g, instSet := [0, 1] } blockOn with press := { groups := [(5, groupOfTwo)] } }

theorem witness_CollAndFerryComplete_coll :
    let b (kind : Nat) (count root : Word) := groupAt (collWord kind) [(1, 0x1000), (2, 0x2000), (3, count), (4, root)]
    (b 0 1 0).Issues 0 0x20 (collWord 0) ∧ groupOf (b 0 1 0) (bits (collWord 0) 95 86) = some groupOfTwo ∧ instRoom (b 0 1 0) 0 5 groupOfTwo = true ∧
    1 % tyBlock (bits (collWord 0) 83 79) = 0 ∧
    (let x : Machine.Inst := { gs := 0x1000, gd := 0x2000, count := 1, ty := bits (collWord 0) 83 79, op := 1 }
     let sums := { b 0 1 0 with ctxs := [(0, { csumLo := 0x2000, csumHi := 0x3000 })] }
     groupBlocked sums 5 = false ∧ collTiled sums groupOfTwo (collShape groupOfTwo x) = false ∧
     collTiled (b 0 1 0) groupOfTwo (collShape groupOfTwo x) = true) ∧ (b 3 2 1).Issues 0 0x20 (collWord 3) ∧ (1 : Nat) < groupOfTwo.n ∧ ¬ (2 : Nat) < groupOfTwo.n ∧
    (b 3 2 2).Issues 0 0x20 (collWord 3) ∧ (b 0 0 0).Issues 0 0x20 (collWord 0) ∧
    (let full := { b 0 1 0 with press := { groups := [(5, groupOfTwo)], insts := [(0, { st := .running, group := 5, issued := true })] } }
     full.Issues 0 0x20 (collWord 0) ∧ instRoom full 0 5 groupOfTwo = false) := by
  unfold Block.Issues Block.AtWord; decide
theorem witness_CollAndFerryComplete_ferry :
    let b (op : Nat) (va : Word) := groupAt (ferryWord op) [(3, va)]
    (b 0 48).Issues 0 0x21 (ferryWord 0) ∧ groupOf (b 0 48) (bits (ferryWord 0) 105 96) = some groupOfTwo ∧ bits (ferryWord 0) 115 112 ≠ opBarrier ∧
    48 % 64 + 8 * (bits (ferryWord 0) 107 106 + 1) ≤ 64 ∧ instRoom (b 0 48) 0 5 groupOfTwo = true ∧
    (b 6 0).Issues 0 0x21 (ferryWord 6) ∧ bits (ferryWord 6) 115 112 = opBarrier ∧ instRoom (b 6 0) 0 5 groupOfTwo = true ∧
    (b 0 56).Issues 0 0x21 (ferryWord 0) ∧ ¬ 56 % 64 + 8 * (bits (ferryWord 0) 107 106 + 1) ≤ 64 ∧
    (let full := { b 0 48 with press := { groups := [(5, groupOfTwo)], insts := [(0, { st := .running, group := 5, issued := true })] } }
     full.Issues 0 0x21 (ferryWord 0) ∧ instRoom full 0 5 groupOfTwo = false) := by
  unfold Block.Issues Block.AtWord; decide

/-! ### Witnesses: WATCH, MARK, COMPLETE, PERMIT and holds -/

/-- WATCH 3 of G2 bytes at G1, step 7; MARK 1; COMPLETE without and with HALT; ACQUIRE 5, RELEASE, AWAKE_SET of G1, AWAKE_CLEAR. -/
def watchWord : Quad := dxiWord 0x30 [(108, 1), (104, 2), (16, 3), (0, 7)]
def markWord : Quad := dxiWord 0x31 [(108, 1), (0, 1)]
def completeWord (sub : Nat) : Quad := dxiWord 0x3F [(112, sub), (108, 1), (0, 0xAB)]
def permitWord (sub units : Nat) : Quad := dxiWord 0x32 [(112, sub), (108, if sub = 2 then 1 else 0), (0, units)]

theorem witness_WatchMarkAndCompleteComplete :
    let b (len : Word) (ctrl : Word) := { seqAt [watchWord, 0] [(1, 64), (2, len)] with
      thief := { ctrl := 1, watches := [(3, { ctrl })] } }
    let armed := word [(63, 1), (56, 0), (32, 1), (16, 7), (0, 7)]
    (b 0x100000 armed).Issues 0 0x30 watchWord ∧ bits watchWord 21 16 = 3 ∧ bitAt armed 63 = true ∧ bits armed 15 0 ≤ 7 ∧ 7 ≤ bits armed 31 16 ∧
    bits armed 47 32 ≠ 0 ∧ (b 64 0).Issues 0 0x30 watchWord ∧ ¬ bitAt (0 : Word) 63 = true ∧ (b 0x100040 armed).Issues 0 0x30 watchWord ∧
    ¬ 0x100040 ≤ 2 ^ 20 ∧ (seqAt [markWord, 0] []).Issues 0 0x31 markWord ∧ bitAt (seqAt [markWord, 0] []).thief.ctrl 0 = false ∧
    (seqAt [completeWord 0, 0] []).Issues 0 0x3F (completeWord 0) ∧ bitAt (completeWord 0) 112 = false ∧
    (seqAt [completeWord 1] []).Issues 0 0x3F (completeWord 1) ∧ bitAt (completeWord 1) 112 = true ∧
    (seqOn { words := [completeWord 0, 0], recBusy := true } blockOn).Issues 0 0x3F (completeWord 0) := by
  unfold Block.Issues Block.AtWord; decide
theorem test_complete_halts_at_the_end :
    let x := (after (Machine.exec (.complete 0) (run (seqAt [completeWord 1] [])))).seq 0
    x.st = .halted ∧ x.pc = 0 ∧ x.cseq = 1 := by decide

theorem witness_PermitWordsComplete :
    let b (held lent sub units : Nat) := seqOn { words := [permitWord sub units, 0], permitHeld := held, permitLent := lent } blockOn
    (b 5 0 0 5).Issues 0 0x32 (permitWord 0 5) ∧ bits (permitWord 0 5) 115 112 = 0 ∧ bits (permitWord 0 5) 8 0 ≤ 5 ∧
    (b 4 5 0 5).Issues 0 0x32 (permitWord 0 5) ∧ (b 4 4 0 5).Issues 0 0x32 (permitWord 0 5) ∧ 4 < bits (permitWord 0 5) 8 0 ∧
    (b 4 0 1 0).Issues 0 0x32 (permitWord 1 0) ∧ bits (permitWord 1 0) 115 112 = 1 ∧ (b 0 0 2 0).Issues 0 0x32 (permitWord 2 0) ∧
    bits (permitWord 2 0) 115 112 = 2 ∧ (b 0 0 3 0).Issues 0 0x32 (permitWord 3 0) ∧ bits (permitWord 3 0) 115 112 = 3 := by
  unfold Block.Issues Block.AtWord; decide
theorem test_acquire_asks_the_rest :
    (after (Machine.exec (.permitAcquire 0) (run (seqOn { words := [permitWord 0 5, 0], permitHeld := 2 } blockOn)))).pwr.waiting.map (fun r => r.units) = [3] := by
  decide

theorem witness_HeldAndSkippedWords :
    let b (hold : Hold) (w : Quad) := seqOn { words := [w, 0], hold } blockOn
    (((b .tag getWord).seq 0).st = .running ∧ ((b .tag getWord).seq 0).hold = .tag ∧ ((b .tag getWord).seq 0).words[0]? = some getWord ∧ wOpcode getWord = 0x11) ∧
    (((b .engine moveWord).seq 0).hold = .engine ∧ ((b .engine moveWord).seq 0).words[0]? = some moveWord ∧ wOpcode moveWord = 0x10) ∧
    (((b .inst (collWord 0)).seq 0).hold = .inst ∧ ((b .inst (collWord 0)).seq 0).words[0]? = some (collWord 0) ∧ wOpcode (collWord 0) = 0x20) ∧
    (((b .record (completeWord 0)).seq 0).hold = .record ∧ ((b .record (completeWord 0)).seq 0).words[0]? = some (completeWord 0) ∧ wOpcode (completeWord 0) = 0x3F) ∧
    (let f := (seqOn { freezePending := true } blockOn).seq 0
     f.hold = .none ∧ f.st = .running ∧ f.freezePending = true) ∧
    (let f := (seqOn { stopPending := true } blockOn).seq 0
     f.hold = .none ∧ f.st = .running ∧ f.freezePending = false ∧ f.stopPending = true) := by decide
theorem witness_HeldAndSkippedWords_skip :
    ∀ i ∈ [(0x00, Instr.nop 0), (0x01, .set 0), (0x02, .alu 0), (0x03, .cmp 0), (0x04, .br 0), (0x10, .move 0), (0x11, .get 0),
      (0x12, .put 0), (0x13, .atomic 0), (0x14, .signal 0), (0x15, .wait 0), (0x16, .fence 0), (0x20, .coll 0),
      (0x21, .ferry 0), (0x30, .watch 0), (0x31, .mark 0), (0x3F, .complete 0)],
    let w := testP0 (dxiWord i.1 [])
    canIssue ((seqAt [w, 0] []).seq 0) = true ∧ ((seqAt [w, 0] []).seq 0).words[0]? = some w ∧ testHolds ((seqAt [w, 0] []).seq 0) w = false ∧
    wOpcode w = i.1 := by decide
theorem witness_RegisterWordsFrame : (run blockOn).Inv ∧ (run (seqAt [setWord, 0] [])).blk.Quiet ∧
    ∃ t, Instr.set 0 ∈ [Instr.nop 0, .set 0, .alu 0, .cmp 0, .br 0, .loop 0] ∧ Machine.exec (.set 0) (run (seqAt [setWord, 0] [])) = .next t := by
  refine ⟨by unfold State.Inv; decide, by unfold Block.Quiet; decide, ?_⟩
  exact ⟨_, by decide, rfl⟩

/-! ### Witnesses: register writes and sequencer control -/

theorem witness_RegisterWriteForms :
    let b (hold : Bool) (dp : DpState) := { Block.reset with pwr := { dp }, fm := { hostLock := hold } }
    inLatch 0x50000 = false ∧ startsSeq 0x50000 1 = false ∧ portsReady { Block.reset with maint := { boot := .powerUp } } = false ∧
    portsReady (b false .running) = true ∧ 0x50004 % 8 ≠ 0 ∧ inLatch 0x50004 = false ∧ startsSeq 0x50004 0 = false ∧
    mayWrite (b false .running) .control 0xC0000 = false ∧ mayWrite (b false .running) .rot 0xC0000 = true ∧
    mayWrite (b true .running) .control 0x20000 = false ∧ fmTarget 0x20000 = true ∧ (b true .running).fm.hostLock = true ∧
    (Reg.ofOffset 0x50000).dp = true ∧ (Reg.ofOffset 0x50000).known = true ∧ mayWrite (b false .stopped) .control 0x50000 = true ∧
    (b false .stopped).pwr.dp ≠ .running ∧ (b false .running).Writable .control 0x50000 ∧ (Reg.ofOffset 0x1020).dp = false := by
  unfold Block.Writable; decide

/-- Sequencer 0 in a state, with its owner's state. -/
def seqIn (x : Seq) (c : CtxSt) : Block :=
  { blockOn with ctxs := [(0, { valid := true, st := c })], seqs := [(0, x)] }

theorem witness_LoadsAreTakenAndEnd :
    let b (x : Seq) (c : CtxSt) (l : List Nat) := { seqIn x c with loader := { queue := l } }
    let own : Seq := { ownerValid := true, owner := 0 }
    (b own .running []).Writable .control (0x50010 + 0x400 * 0) ∧ (b own .running []).loader.queue = [] ∧ (b own .running [5]).loader.queue ≠ [] ∧
    ((b own .running []).ctx 0).st = .running ∧ ((b { own with st := .loaded } .running []).seq 0).st ≠ .idle ∧
    ((b {} .running []).seq 0).ownerValid = false ∧ ((b own .frozen []).ctx 0).st ≠ .running := by
  unfold Block.Writable; decide

/-- A memory image of a program of one word, read for sequencer 0: its header and the word. -/
def imageOf (magic : Granule) : Block :=
  { blockOn with
    ctxs := [(0, { valid := true, st := .running, engineMask := 1 })]
    seqs := [(0, { ownerValid := true, owner := 0, st := .loading })]
    loader := { queue := [0], asked := [0], grans := [(0, { data := magic, got := true })] } }

theorem witness_LoadsAreTakenAndEnd_refused :
    let b := imageOf 0
    b.loader.queue.head? = some 0 ∧ loadRead b 0 = true ∧ loadChecks b 0 = .refused 1 0 := by decide +kernel
theorem witness_LoadsAreTakenAndEnd_drained :
    let b := seqIn { ownerValid := true, st := .halted, draining := true } .running
    (b.seq 0).st = .halted ∧ (b.seq 0).draining = true ∧ programQuiet b 0 = true := by decide

theorem witness_StartStopAndUnload :
    let b (x : Seq) (c : CtxSt) := seqIn { x with ownerValid := true } c
    (b { st := .loaded } .running).Writable .control 0x50010 ∧ (b { st := .loaded } .running).stopped ≠ some (0 : SeqId) ∧
    ((b { st := .loaded } .running).seq 0).draining = false ∧ ((b { st := .halted, draining := true } .running).seq 0).draining = true ∧
    ((b { st := .running } .running).seq 0).st ≠ .loaded ∧ ((b { st := .frozen } .frozen).ctx 0).st = .frozen ∧
    ((b { st := .loaded } .resetting).ctx 0).st = .resetting ∧ ({ b { st := .halted } .running with stopped := some 0 }).stopped = some (0 : SeqId) ∧
    ((b { st := .waiting } .running).seq 0).hold ≠ .result ∧ ((b { st := .running, hold := .result } .running).seq 0).hold = .result ∧
    ((b { st := .running, hold := .watch } .running).seq 0).hold = .watch ∧ ((b { st := .idle } .running).seq 0).st ≠ .waiting := by
  unfold Block.Writable; decide
theorem test_stop_at_wait : ((after (Machine.exec (.seqStop .control 0) (run (seqIn { ownerValid := true, st := .waiting } .running)))).seq 0).st = .halted := by
  decide
theorem test_start_frozen_refused :
    ((after (Machine.exec (.seqStart .control 0) (run (seqIn { ownerValid := true, st := .loaded } .frozen)))).seq 0).ctrlStatus = 0x08 := by decide

def haltWord : Quad := dxiWord 0x3F [(112, 1), (108, 1), (0, 8)]
/-- The image of a program of one word (COMPLETE with HALT), for sequencer 0: level 1, one word, nothing reserved. -/
def goodImage : Block :=
  let b := imageOf 0
  let h : Granule := BitVec.ofNat 512 (0x5844 + 2 ^ 16 + 2 ^ 32)
  { b with loader := { b.loader with
      grans := [(0, { data := h, got := true }), (1, { data := haltWord.setWidth 512, got := true })]
      asked := [0, 1] } }
theorem witness_LoadsAreTakenAndEnd_fits :
    goodImage.loader.queue.head? = some 0 ∧ loadRead goodImage 0 = true ∧
    (match loadChecks goodImage 0 with
     | .fits ws _ _ _ => ws == [haltWord]
     | .refused _ _ => false) = true := by decide +kernel

/-! ### Witnesses: tallies and the portal -/

/-- Context c bound to partition 0 and RUNNING. -/
def ctxUp (c : Nat) (b : Block) : Block := { b with ctxs := tset b.ctxs c { valid := true, st := .running } }

theorem witness_TallyUpdateAppliesIncrements :
    let incr (c : Nat) (p : Option Nat) : Incr := { ctx := c, idx := 7, amount := 5, err := false, part := p, seq := none }
    let b := { ctxUp 0 blockOn with tally := { tallies := [], incs := [incr 0 (some 0), incr 1 none, incr 0 (some 1), incr 0 none] } }
    b.pwr.dp = .running ∧ (((b.tally.incs.filter fun i => !incrRefused b i).map incrKey).eraseDups).length ≤ 4 ∧
    incrRefused b (incr 1 none) = true ∧ incrRefused b (incr 0 (some 1)) = true ∧ Block.reset.pwr.dp ≠ .running := by decide
theorem test_increment_wraps : addIncr 0x7FFFFFFFFFFFFFFF { ctx := 0, idx := 7, amount := 2, err := true, part := none, seq := none } = 0x8000000000000001 := by
  decide

/-- A tile request's header: context 0, tile 3, at an address. -/
def hdrAt (va : BitVec 57) (hint : BitVec 2) : TileHdr := { txn := 9, ctx := 0, rid := 3, va, hint }
/-- A LOAD and a fence of that tile. -/
def loadAt (va : BitVec 57) (size : BitVec 3) : TileReq := { ch := 1, hdr := hdrAt va 0, kind := .load size }
def fenceReq : TileReq := { ch := 1, hdr := hdrAt 0 0, kind := .fenceRemote }
/-- Context 0 RUNNING, slot 0 CURRENT. -/
def tileOn : Block := { ctxUp 0 blockOn with keys := { slots := [(0, { st := .current, vintage := 1 })] } }
/-- A tile's PUT that is open on tag 0, and its remote fence on tag 1. -/
def tilePut (stage : Stage) : PReq := { openPut 0 with src := .tile 1 8 3, stage }
def tileFence : PReq := { openPut 1 with src := .tile 1 9 3, op := .fence true, stage := .fenced }

theorem witness_TileRequestsAreTaken :
    let held := { tileOn with portal := { heldReqs := [loadAt 64 3] } }
    let full := { tileOn with ctxs := [(0, { valid := true, st := .running, tagLimit := 1, tagsHeld := 1 })] }
    let bare := ctxUp 0 blockOn
    tileOn.pwr.dp = .running ∧ heldBefore held (loadAt 64 3) = true ∧ heldBefore tileOn (loadAt 64 3) = false ∧
    (tileOn.ctx 0).valid = true ∧ (tileOn.ctx 0).st = .running ∧ tagFree tileOn 0 = true ∧ tagFree full 0 = false ∧ (full.ctx 0).st = .running ∧
    (blockOn.ctx 0).valid = false ∧ tileBad (loadAt 64 6) = false ∧ currentSlot tileOn (tileOn.ctx 0).part.val = some 0 ∧
    heldBefore bare (loadAt 64 3) = false ∧ tagFree bare 0 = true ∧ currentSlot bare (bare.ctx 0).part.val = none ∧
    tileBad (loadAt 64 7) = true ∧ tileBad (loadAt 4 3) = true ∧ fenceReq.kind = .fenceRemote ∧ tileBad fenceReq = false ∧
    Block.reset.pwr.dp ≠ .running ∧ (Block.reset.portal.latched.any fun x => x.ch == 1) = false ∧
    (({ Block.reset with portal := { latched := [loadAt 64 3] } }).portal.latched.any fun x => x.ch == 1) = true ∧ Block.reset.pwr.dp = .stopped ∧
    (let b := { tileOn with portal := { reqs := [tilePut .fenced] } }
     b.req 0 = some (tilePut .fenced)) := by decide +kernel
theorem witness_TileRequestsAreTaken_meter :
    let e (node : Nat) : TlbEntry := { ctx := 0, level := 2, page := 0, gen := 0, leaf := word [(63, 1), (50, node), (1, 7), (0, 1)] }
    let b (node : Nat) (meters : Tbl Meter) : Block :=
      { tileOn with
        ctxs := [(0, { valid := true, st := .running, root := 1 })], xlat := { l1 := [(0, [e node])] }, meters
        route := { self := 1 }, fm := { members := [(0, 0x22)] }, portal := { reqs := [tilePut .fenced] } }
    let r := tilePut .fenced
    let full : Meter := { ctrl := word [(63, 1), (61, 1), (48, 1)] }
    let of (b : Block) : Metered := (meterPacket (ctxQueue r.ctx 0) (48 + (reqPacket r).2.2.length) b).1
    (b 5 []).req r.tag = some r ∧ knownHome (b 5 []) r = some 5 ∧ knownHome (b 1 []) r = some 1 ∧ (b 1 []).route.self.toNat = 1 ∧
    knownHome { b 5 [] with xlat := {} } r = none ∧ isFence r = false ∧ of (b 5 []) = .queue (ctxQueue 0 0) ∧
    of (b 5 [(3, full)]) = .red 3 := by decide +kernel
theorem test_tile_signal_zero :
    ((after (Machine.exec (.tileSignal 1 (hdrAt 0 0) 0 { dtv := true, dt := 7, units := false }) (run tileOn))).ctx 0).st = .frozen := by
  decide

theorem witness_HeldRequestsFencesAndResponses :
    let b := { tileOn with portal := { heldReqs := [loadAt 64 3] } }
    b.pwr.dp = .running ∧ b.portal.heldReqs = [] ++ loadAt 64 3 :: [] ∧ canAccept b (loadAt 64 3) = true ∧
    (b.portal.rr + 0) % 16 = (loadAt 64 3).hdr.ctx.val ∧
    (let r : PResp := { ch := 1, txn := 9, tag := some 0, status := .ok, data := 0 }
     [r].find? (fun x => x.ch == r.ch && x.txn == r.txn) = some r) ∧
    (let f := { tileOn with portal := { reqs := [tilePut .done, tileFence] } }
     f.req 1 = some tileFence ∧ isFence tileFence = true ∧ tileFence.stage ≠ .done ∧ fenceDone (run f).start tileFence = true) ∧
    tileFence.op = .fence true := by decide +kernel
theorem test_fence_waits : fenceDone { tileOn with portal := { reqs := [tilePut .sent, tileFence] } } tileFence = false := by decide

/-! ### Witnesses: packets that arrive -/

/-- This node is node 1; node 2 is a member of partition 0; bank 0 is CURRENT, of a torus or not. -/
def netOn (torus : Bool) (b : Block) : Block :=
  { b with
    route := { self := 1, banks := [(0, { st := .current, torus })] }
    fm := { members := [(0, 4)], sources := [(0, word [(63, 1), (0, 3)])] }
    keys := { slots := [(0, { st := .current, vintage := 1 })] } }

/-- The route word of a packet from node 2 to node 1, key 1. -/
def routeFrom (f : RouteFields → RouteFields) : Quad :=
  mkRoute (f { type := tyRead, dst := 1, src := 2, part := 0, weight := false, key := 1, poison := false, len := 0, dctx := 0, sctx := 0, inc := 0 })

/-- The only packet in an ingress buffer, on VC 1, all its flits accepted: its TYPE, payload, operation word and extension, its route word
changed by `f`, encrypted under a key. -/
def packetBy (key : Option (BitVec 256)) (ty : Nat) (payload : List Byte) (op : Quad) (ext : Option Word) (f : RouteFields → RouteFields) : InPkt :=
  let route := routeFrom fun r => f { r with type := ty, len := payload.length }
  let bytes := frameOf key { route, op, payload, ext }
  let need := ceilDiv bytes.length 120
  { id := 1, vc := 1, route, need, phy := 0, flits := (List.range need).map fun i => (BitVec.ofNat 960 (bytesNat (slice bytes (120 * i) 120)), false) }
/-- A packet with a payload of zeros and no extension, under the key of the slot. -/
def packetOf (ty len : Nat) (op : Quad) (f : RouteFields → RouteFields) : InPkt := packetBy (some 0) ty (List.replicate len 0) op none f
/-- The block with a packet next on VC 1 of strait 2. -/
def arrived (p : InPkt) (b : Block) : Block := { b with straits := [(2, { ingress := [p] })] }
/-- What the node reads of it. -/
def readOf (b : Block) (p : InPkt) : Arrival := readIn b 2 1 p [] false

theorem witness_PacketsAreCheckedInOrder :
    let b (torus : Bool) := netOn torus (ctxUp 0 blockOn)
    let ok := packetOf tyRead 0 0 id
    let here (p : InPkt) : Bool := !malformed p.route (readOf (b false) p).op && p.complete && nextIn (arrived p (b false)) 2 1 == some p &&
      decide (((b false).bank (rEpoch p.route).toNat).st ≠ .opened) && decide (rDst p.route = (b false).route.self.toNat) &&
      decide (rType p.route ≠ tyControl)
    nextIn (b false) 2 1 = none ∧ [0].contains 0 = true ∧ ([] : List Nat).contains 0 = false ∧
    (let odd := packetOf tyRead 1 0 id
     nextIn (arrived odd (b false)) 2 1 = some odd ∧ malformed odd.route (readOf (b false) odd).op = true) ∧
    typeOk (rType (packetOf 0x1F 0 0 id).route) = false ∧
    malformed ok.route (readOf (b false) ok).op = false ∧ (blockOn.bank (rEpoch ok.route).toNat).st = .opened ∧
    (let far := packetOf tyRead 0 0 fun r => { r with dst := 5 }
     malformed far.route (readOf (b true) far).op = false ∧ rDst far.route ≠ (b true).route.self.toNat ∧
     ((b true).bank (rEpoch far.route).toNat).torus = true ∧ ((b false).bank (rEpoch far.route).toNat).torus = false ∧
     ((b false).bank (rEpoch far.route).toNat).st ≠ .opened) ∧
    ({ ok with flits := [] }).complete = false ∧
    (let odd := packetOf tyRead 0 0 fun r => { r with src := 7 }
     here odd = true ∧ isMember (b false) (rPart odd.route) (rSrc odd.route) = false) ∧
    (let odd := packetOf tyRead 0 0 fun r => { r with key := 2 }
     here odd = true ∧ isMember (b false) (rPart odd.route) (rSrc odd.route) = true ∧
     matchSlot (b false) (rWeight odd.route) (rKey odd.route) (rPart odd.route) = none) ∧
    isMember (b false) (rPart ok.route) (rSrc ok.route) = true ∧ matchSlot (b false) (rWeight ok.route) (rKey ok.route) (rPart ok.route) = some 0 := by
  decide +kernel
theorem witness_PacketsAreCheckedInOrder_tags :
    let b := netOn false (ctxUp 0 blockOn)
    let odd := packetBy (some 1) tyRead [] 0 none id
    let long := packetBy (some 0) tyData (List.replicate 64 0) (quad [(45, 1)]) (some 0xFFFFFFFFFFFFFFFF) id
    (readOf b odd).tagOk = false ∧ (readOf b odd).psn = false ∧ matchSlot b (rWeight odd.route) (rKey odd.route) (rPart odd.route) = some 0 ∧
    opCsv (readOf b long).op = true ∧ (readOf b long).tagOk = true ∧ (readOf b long).psn = false ∧ extOk (readOf b long).ext = false ∧
    malformed long.route (readOf b long).op = false := by decide +kernel
/-- A packet with a good tag says what was sent. -/
theorem test_packet_opens :
    (readOf (netOn false blockOn) (packetBy (some 0) tyWrite [1, 2, 3, 4, 5, 6, 7, 8] 0 none id)).payload = [1, 2, 3, 4, 5, 6, 7, 8] := by decide +kernel
theorem witness_AcceptedPacketsTakeEffect :
    let b := netOn false (ctxUp 0 blockOn)
    ∀ p ∈ [packetOf tyRead 0 0 id, packetOf tyWrite 8 0 id, packetOf tyAtomic 16 0 id, packetOf tySignal 0 0 id, packetOf tyForward 32 0 id,
      packetOf tyData 64 0 id, packetOf tyColl 64 0 id, packetOf tyResp 8 0 id],
    nextIn (arrived p b) 2 1 = some p ∧ p.complete = true ∧ malformed p.route (readOf b p).op = false ∧
    (b.bank (rEpoch p.route).toNat).st ≠ .opened ∧ rDst p.route = b.route.self.toNat ∧
    isMember b (rPart p.route) (rSrc p.route) = true ∧ matchSlot b (rWeight p.route) (rKey p.route) (rPart p.route) = some 0 ∧
    (readOf b p).tagOk = true ∧ (readOf b p).psn = false ∧ extOk (readOf b p).ext = true := by decide +kernel
theorem witness_AcceptedPacketsTakeEffect_resp :
    let p := packetOf tyResp 8 0 id
    let b := netOn false (ctxUp 0 blockOn)
    let taken := releaseIngress 2 1 (matchPacket true 2 1 p.route p.phy (run (arrived p { b with portal := { reqs := [openPut 0] } })).start)
    respHeld taken p.route (readOf b p).op = true ∧ respHeld (run b).start p.route (readOf b p).op = false ∧ rType p.route = tyResp := by decide +kernel
/-- A REPORT_ACK of a node; node 3 may send control messages. -/
def reportAck (src : Nat) : InPkt :=
  packetBy none tyControl (List.replicate 15 0 ++ [5] ++ List.replicate 16 0) 0 none fun r => { r with src, key := 0 }
theorem witness_AcceptedPacketsTakeEffect_control :
    let b := netOn false blockOn
    let p := reportAck 3
    let a := readOf b p
    malformed p.route a.op = false ∧ rType p.route = tyControl ∧ a.psn = false ∧ (fmSources b).contains (rSrc p.route) = true ∧
    ctlZeros p.route a.op a.tag = true ∧ 32 ≤ rLen p.route ∧ ctlOk (ctlMsg a) (rLen p.route) = true ∧ b.fm.queue.length < 64 ∧
    64 ≤ ({ b with fm := { b.fm with queue := List.replicate 64 (ctlMsg a) } }).fm.queue.length ∧
    (fmSources b).contains (rSrc (reportAck 2).route) = false := by decide +kernel

/-- Context 0 with window 2 over its first 64 KiB, reads only. -/
def windowOn (rd : Bool) : Block :=
  { blockOn with ctxs := [(0, { valid := true, st := .running, windows := [(2, { valid := true, rd, wr := true, base := 0, limit := 1 })] })] }

theorem witness_HomeAccessesAreChecked :
    let b := windowOn true
    let guarded := { b with keys := { ranges := [(4, { valid := true, wslot := 1, base := 0, limit := 1 })] } }
    let bad := { b with home := { quar := [(7, some 0)] } }
    ((blockOn.ctx 0).valid = false) ∧ (b.ctx 0).valid = true ∧ (b.ctx 0).part.val = 0 ∧ (b.ctx 0).st = .running ∧
    windowFor b 0 0 0x10000 64 = none ∧ windowFor b 0 0 0xFFC0 64 = some 2 ∧ windowFor guarded 0 0 0 64 = some 2 ∧
    protectedBy guarded 0 64 none = some 4 ∧ protectedBy guarded 0 64 (some 13) = none ∧ protectedBy bad 0 64 none = none ∧ quarEntry bad 0 = some 7 ∧
    quarEntry b 0 = none ∧
    (let op := quad [(55, 64)]
     check10 b 0 0 0 0 (bits op 61 55) (some 0) none = .pass 2 ∧ check10 blockOn 0 0 0 0 (bits op 61 55) (some 0) none = .fail .access none) ∧
    bits (quad [(126, 2)]) 127 126 = 2 := by decide +kernel

theorem witness_RequestsCarryTheirFields :
    tyControl < 32 ∧ 0x1FFF < 2 ^ 13 ∧ 255 < 256 ∧ 4096 < 2 ^ 13 ∧ (openPut 16383).tag < 2 ^ 14 ∧ (openPut 0).dt = none ∧
    contiguous 0xFF = true ∧ contiguous 5 = false := by decide
theorem test_route_word :
    routeFrom (fun f =>
      { f with type := tyData, dst := 0x1FFF, src := 1, part := 3, weight := true, key := 0xA5, len := 4096, dctx := 15, sctx := 2, inc := 0x7F }) =
      0x300FFF8007D2A001E4FE000000000000 := by decide

/-! ### Witnesses: the memory port, chunks, collectives, cells -/

/-- A block with one request outstanding at the memory port, on slice 3 under tag 7. -/
def memOut (write : Bool) (why : MemWhy) : MemOut := { slice := 3, tag := 7, req := { write, addr := 5, hint := 0, mask := 0, data := 0, why } }
def memBlock (write : Bool) (why : MemWhy) : Block := { blockOn with mem := { outstanding := [memOut write why] } }

theorem witness_MemoryPortAnswersAreTaken :
    (∀ why ∈ [MemWhy.loader, .walk 1, .home 1, .collRead 1 0, .watchRead 1], memFind (memBlock false why) 3 7 false = some (memOut false why)) ∧
    (∀ why ∈ [MemWhy.home 1, .crec 0, .ferryWrite 1, .ackWord 0, .collWrite 1 0 64 0, .watchWrite 1, .thief 1],
      memFind (memBlock true why) 3 7 true = some (memOut true why)) ∧
    memFind (memBlock false .loader) 3 8 false = none ∧ memFind (memBlock false .loader) 3 7 true = none ∧
    (let o (what : HomeWhat) : HomeOp :=
      { id := 1, origin := .loop 0, what, dctx := 0, part := 0, off := 8, hint := 0, dt := none, window := 0, left := 1, grans := [], side := none,
        poison := false, started := false, old := 0 }
     let b (what : HomeWhat) := { blockOn with home := { ops := [o what] } }
     (b (.read 8)).homeOp 1 = some (o (.read 8)) ∧ (b .write).homeOp 1 = some (o .write) ∧ (o .write).left ≤ 1) := by decide +kernel

/-- Virtual address 0 of context 0 on a node, in the L1 of engines 0 to 7 and in that of the press. -/
def tlbOn (node : Nat) (b : Block) : Block :=
  let e : TlbEntry := { ctx := 0, level := 2, page := 0, gen := 0, leaf := word [(63, 1), (50, node), (1, 7), (0, 1)] }
  { b.modCtx 0 (fun x => { x with root := 1 }) with
    xlat := { l1 := [(2, [e]), (4, [e])] }, route := { self := 1 }, fm := { members := [(0, 6)] } }

/-- A state whose engine 0 runs a transfer of context 0. -/
def rackRuns (x : Xfer) : State :=
  run { ctxUp 0 blockOn with racks := [(0, { st := .running, run := some x })] }

/-- What a translation of the two ends of a chunk answers: 0 both, 1 waits, 2 fails, 4 both with a full engine buffer. -/
def endsOf (b : Block) : Nat :=
  match translateAll 0 0 [(0x10000, 0), (0x20000, 1)] b with
  | (.ok [f, t], b) => if f.node = 1 ∧ t.node = 1 ∧ bufferFits b 0 .locl 64 = true then 0 else 4
  | (.error none, _) => 1
  | (.error (some _), _) => 2
  | _ => 3

/-- The engine buffer of engine 0 full of LOCAL chunks. -/
def fullBuffer (b : Block) : Block :=
  let k (slot : Nat) : Chunk :=
    { slot, kind := .locl, srcVa := 0, dstVa := 0, len := 4096, srcNode := 1, srcOff := 0, srcCtx := 0, dstNode := 1, dstOff := 0, dstCtx := 0, cs := 0,
      sside := 0, dside := 0, grans := [], sum := 0, ingest := none }
  let o (slot : Nat) : HomeOp :=
    { id := slot, origin := .chunk 0 slot, what := .write, dctx := 0, part := 0, off := 0, hint := 0, dt := none, window := 64, left := 1, grans := [],
      side := none, poison := false, started := true, old := 0 }
  { b.modRack 0 (fun r => { r with inflight := (List.range 16).map k }) with home := { ops := (List.range 16).map o } }

theorem witness_ChunksAreIssuedByKind :
    let x := xferOf 64 (some 0)
    let s := rackRuns x
    let r := s.blk.rack 0
    r.run = some x ∧ r.st = .running ∧ x.stopped = false ∧ x.issued < x.len ∧ r.inflight.length < 128 ∧ x.key = some 0 ∧ 0 < 12 ∧ x.maint = none ∧
    chunkLen x.src.toNat x.dst.toNat x.issued x.len = 64 ∧ checksummed s.blk x.ctx 0x10000 64 = false ∧ checksummed s.blk x.ctx 0x20000 64 = false ∧
    x.src.toNat + x.issued = 0x10000 ∧ x.dst.toNat + x.issued = 0x20000 ∧ 64 ≤ paceNow s.blk.time.loc x.rate r ∧
    endsOf (run (tlbOn 1 s.blk)).start = 0 ∧ endsOf (run (fullBuffer (tlbOn 1 s.blk))).start = 4 ∧
    ((fullBuffer s.blk).rack 0).run = some x ∧ ((fullBuffer s.blk).rack 0).inflight.length < 128 ∧
    endsOf (run { s.blk with ctxs := [(0, { valid := true, st := .running, root := 1 })] }).start = 1 ∧ endsOf s.start = 2 ∧
    ¬ 64 ≤ paceNow 0 x.rate { r with paceLeft := 0 } ∧
    (let y := { xferOf 64 none with weight := some 1 }
     ((rackRuns y).blk.rack 0).run = some y ∧ y.weight.isSome = true ∧ y.key = none) ∧
    (blockOn.rack 0).run = none := by decide +kernel

/-- Instance 3 of group 5 under key slot 0, an ALL_REDUCE of 16 elements of INT32, no chunk begun. -/
def collInst (k : Nat) : Machine.Inst :=
  { st := .running, group := 5, issued := true, kind := k, gs := 0x1000, gd := 0x2000, count := 16, ty := 1, key := some 0, chunksTotal := 1 }
def collBlock (x : Machine.Inst) (member : Nat) (credits : List Credit) : Block :=
  let b := tlbOn 1 (ctxUp 0 blockOn)
  { b with press := { groups := [(5, { groupOfTwo with chunk := 16, path := [member], credits })], insts := [(3, x)] } }

/-- The start of the next chunk of an instance: its source is refused (0), is read (1), is all quarantined (2) or is empty (3). -/
def startOf (b : Block) (g : Machine.Group) (x : Machine.Inst) : Option Nat :=
  let src := sourceRange g x 0
  let dst := if x.kind = kBroadcast ∧ x.gd = x.gs ∧ g.rank = x.root then (0, 0) else resultRange g x 0
  let sr := byteRuns g x false 0 src.1 src.2 ++ sidecarRuns b x.ctx (byteRuns g x false 0 src.1 src.2)
  let dr := byteRuns g x true 0 dst.1 dst.2 ++ sidecarRuns b x.ctx (byteRuns g x true 0 dst.1 dst.2)
  match placePages 3 0 (pagesOf sr) b with
  | (.ok sp, b) =>
    match placePages 3 1 (pagesOf dr) b with
    | (.ok _, b) =>
      let opened := modChunk 3 0 (fun c => { c with src := sp, phase := .reading })
        ((openChunk 3 0 b).modInst 3 fun x => { x with next := x.next + 1 })
      let places := placeRuns sp sr
      let bad := runsPoison opened (opened.inst 3) 0 places
      let good := places.filter fun r => !bad.contains r
      if (runsRefused opened (opened.inst 3) 0 good).isSome then some 0
      else if places.isEmpty then some 3
      else if ((placedGrans good).filter fun a => !(placedGrans bad).contains a).isEmpty then some 2
      else some 1
    | _ => none
  | _ => none

theorem witness_CollectiveChunksStartAndPiecesGo_start :
    let x := collInst 0
    let b := collBlock x 0 []
    let root := collInst kBroadcast
    ∃ g, groupOf b x.group = some g ∧ instRuns x = true ∧ x.kind ≠ 7 ∧ x.next < x.chunksTotal ∧ windowFree x g x.next = true ∧ x.key.isSome = true ∧
      startOf (run b).start g x = some 1 ∧ startOf (run { b with home := { quar := [(7, some 0)] } }).start g x = some 2 ∧
      startOf (run { b with keys := { ranges := [(4, { valid := true, wslot := 1, base := 0, limit := 1 })] } }).start g x = some 0 ∧
      startOf (run (collBlock root 1 [])).start { g with path := [1] } root = some 3 ∧
      startOf (run { b with route := {} }).start g x = none :=
  ⟨{ groupOfTwo with chunk := 16, path := [0], credits := [] }, by decide +kernel⟩
theorem witness_CollectiveChunksStartAndPiecesGo_piece :
    let cr : Credit := { node := 1, slot := 0, pos := 0, level := 1 }
    let ct : Contrib := { level := 1, first := 0, vals := [], poison := [], own := false }
    let c : CollChunk := { newChunk 0 with phase := .reducing, contribs := [ct] }
    let x := { collInst 0 with chunks := [c] }
    let b (l : List Credit) := collBlock x 0 l
    ∃ g, groupOf (b [cr]) x.group = some g ∧ chunkOf x 0 = some c ∧ c.contribs.find? (fun ct => ct.level == 1) = some ct ∧ instRuns x = true ∧
      (g.others 1).contains 1 = true ∧ c.sent.contains (1, 1) = false ∧ g.peer 1 1 = 1 ∧ x.sequence % g.slots = 0 ∧ 0 % g.window = 0 ∧
      g.credits.contains cr = true ∧ ({ g with credits := [] }).credits.contains cr = false :=
  ⟨{ groupOfTwo with chunk := 16, path := [0], credits := [{ node := 1, slot := 0, pos := 0, level := 1 }] }, by decide +kernel⟩

/-- A cell of group 5 from one node to another, key 1, next on VC 0 of an ingress buffer, under the key of the slot or another. -/
def cellBy (key : BitVec 256) (kind src dst : Nat) : InPkt :=
  let c := sealCell key { hdr := quad [(126, kind), (103, src), (90, dst), (80, 5), (56, 1)], payload := 5 }
  { id := 1, vc := 0, route := c.hdr, need := 1, phy := 0, flits := [(BitVec.ofNat 960 (bytesNat (cellBytes c)), false)] }
/-- What a node reads of a cell that is next on strait 2. -/
def cellRead (b : Block) (p : InPkt) (hit : Bool) : Option CellIn := Machine.cellOf (arrived p b) 2 hit false
/-- Node n, 0 or 1, of that group, with a running ferry instance. -/
def cellNode (n : Nat) (torus : Bool) (x : Machine.Inst) : Block :=
  let b := netOn torus (ctxUp 0 blockOn)
  { b with
    route := { b.route with self := BitVec.ofNat 13 n }
    fm := { members := [(0, 3)] }
    press := { groups := [(5, { groupOfTwo with path := [n] })], insts := [(3, x)] } }

theorem witness_FerryCellsAreTaken :
    let x : Machine.Inst := { st := .running, group := 5, issued := true, kind := 7 }
    let b := cellNode 0 false x
    (∃ up down bad far, cellRead b (cellBy 0 0 1 0) false = some up ∧ cellRead b (cellBy 0 1 0 1) false = some down ∧
      cellRead b (cellBy 1 0 1 0) true = some bad ∧ cellRead b (cellBy 0 0 5 0) false = some far ∧
      cKind up.hdr = 0 ∧ cKind down.hdr = 1 ∧ (blockOn.bank (cEpoch up.hdr).toNat).st = .opened ∧ (b.bank (cEpoch up.hdr).toNat).st ≠ .opened ∧
      cDst down.hdr ≠ b.route.self.toNat ∧ ((cellNode 0 true x).bank 0).torus = true ∧ (b.bank 0).torus = false ∧
      isMember b (cPart far.hdr) (cSrc far.hdr) = false ∧ cellSlot { b with keys := {} } up.hdr = none ∧
      bad.tagOk = false ∧ cellInst b bad.hdr = some 3 ∧ fromNeighbour { groupOfTwo with path := [0] } bad.hdr = true ∧ (b.inst 3).st ≠ .ending ∧
      cellInst { b with press := { b.press with insts := [] } } bad.hdr = none ∧ cellEnded { groupOfTwo with ended := [0] } up.hdr = true) ∧
    (∀ n ∈ [0, 1], let b := cellNode n false x
      ∃ c, cellRead b (if n = 0 then cellBy 0 0 1 0 else cellBy 0 1 0 1) false = some c ∧ cDst c.hdr = b.route.self.toNat ∧
      isMember b (cPart c.hdr) (cSrc c.hdr) = true ∧ (cellSlot b c.hdr).isSome = true ∧ c.tagOk = true ∧ c.payload = 5 ∧
      groupOf b (cGroup c.hdr) = some { groupOfTwo with path := [n] } ∧ (b.ctx 0).part.val = cPart c.hdr ∧ ctxServes b 0 = true ∧
      fromNeighbour { groupOfTwo with path := [n] } c.hdr = true ∧ cellInst b c.hdr = some 3 ∧ (b.inst 3).st = .running ∧ (b.inst 3).issued = true ∧
      hadCell x c.hdr = false ∧ hadCell { x with fups := [1], fdown := true } c.hdr = true) := by
  constructor
  · exact ⟨_, _, _, _, rfl, rfl, rfl, rfl, by decide +kernel⟩
  · intro n hn
    obtain rfl | rfl : n = 0 ∨ n = 1 := by simpa using hn
    · exact ⟨_, rfl, by decide +kernel⟩
    · exact ⟨_, rfl, by decide +kernel⟩

/-! ### Witnesses: the link layer -/

/-- A flit with its body in the low 960 bits, and the trailer's fields [63:32]; the CRC of Table 10.2 is set. -/
def flitOf (body hi : Nat) : BitVec 1024 :=
  let be (v i : Nat) : Nat := (v >>> (8 * (3 - i)) % 256) <<< (8 * i)
  let raw := body + (be hi 0 + be hi 1 + be hi 2 + be hi 3) <<< 960
  let c := (crc32 (flitBytes (BitVec.ofNat 1024 raw) 0 124)).toNat
  BitVec.ofNat 1024 (raw + (be c 0 + be c 1 + be c 2 + be c 3) <<< 992)

/-- A control flit of a TYPE; a packet flit of KIND k with an FSEQ. -/
def ctlFlit (ty : Nat) : BitVec 1024 := flitOf ty (2 <<< 15)
def pktFlit (kind fseq : Nat) : BitVec 1024 := flitOf 0 (fseq <<< 20 + 1 <<< 17 + kind <<< 15)

/-- Strait 2 in a state. -/
def straitIn (x : Machine.Strait) : Block := { blockOn with straits := [(2, x)] }
/-- Causeway 0 in a state. -/
def causeIn (x : Machine.Strait) : Block := { blockOn with straits := [(0, x)] }
/-- A flit held for replay, FSEQ 4. -/
def heldFlit : HeldFlit := { fseq := 4, vc := 1, image := pktFlit 0 4, route := 0, last := true }

theorem witness_ControlFlitsAct :
    ∀ st ∈ [StraitSt.up, .drain], ((causeIn { st }).strait 0).st = st ∧
    ∀ ty ∈ [0, 1, 2, 3, 4, 5, 6, 7, 8, 9],
      let f := ctlFlit ty
      let x := (causeIn { st }).strait 0
      rxFlit 0 ⟨.slot f, 0⟩ x = some (f, false, causewaySlot f 0 x) ∧ (causewaySlot f 0 x).badRun < 8 ∧
      flitCrcOk f = true ∧ tKind (flitTrailer f) = 2 ∧ cfType f = ty := by decide +kernel
theorem test_nak_of_held_replays :
    let f := flitOf (2 + 4 <<< 16) (2 <<< 15)
    ((after (Machine.exec (.nak 0 (.slot f) 0) (run (causeIn { st := .up, replay := [heldFlit] })))).strait 0).replays = 1 := by decide +kernel
/-- The image that a strait sends is the one that Table 10.2 lays out. -/
theorem test_flit_image : flitImage 0 4 1 0 0 false false = pktFlit 0 4 := by decide +kernel

theorem witness_FlitsAreAcceptedOrRefused :
    let b (x : Machine.Strait) := (causeIn x).strait 0
    let got (f : BitVec 1024) : Prop := rxFlit 0 ⟨.slot f, 0⟩ (b { st := .up }) = some (f, false, causewaySlot f 0 (b { st := .up })) ∧
      (causewaySlot f 0 (b { st := .up })).badRun < 8
    (b { st := .detect }).st ≠ .up ∧ (b { st := .detect }).st ≠ .drain ∧ (b { st := .up }).st = .up ∧
    rxFlit 2 ⟨.held, 0⟩ { st := .up } = none ∧
    (let bad : RxSeg := { bad := true, len := 1024, bits := 0 }
     ((rxFlit 2 ⟨.held, 0⟩ { st := .up, badRun := 8, rxSegs := [bad] }).map fun r => (r.2.1, r.2.2.badRun)) = some (true, 8)) ∧
    got (pktFlit 0 0) ∧ flitCrcOk (pktFlit 0 0) = true ∧ tKind (flitTrailer (pktFlit 0 0)) = 0 ∧
    got (pktFlit 0 0 ^^^ 1) ∧ flitCrcOk (pktFlit 0 0 ^^^ 1) = false ∧ got (pktFlit 3 0) ∧ flitCrcOk (pktFlit 3 0) = true ∧
    tKind (flitTrailer (pktFlit 3 0)) = 3 ∧ tFseq (flitTrailer (pktFlit 0 0)) = (b { st := .up }).expected ∧
    tFseq (flitTrailer (pktFlit 0 3)) ≠ (b { st := .up }).expected ∧ vcHeld (b { st := .up }) (tVc (flitTrailer (pktFlit 0 0))) = 0 ∧
    (let p : InPkt := { id := 1, vc := 1, route := 0, need := 192, phy := 0, flits := List.replicate 192 (0, false) }
     let full := b { st := .up, ingress := [p] }
     clsBuffer full.cls ≤ vcHeld full (tVc (flitTrailer (pktFlit 0 0)))) ∧
    (b { nakWait := true }).nakWait = true ∧ (b {}).nakWait = false := by
  decide +kernel
/-- AES-256 of FIPS 197, appendix C.3, and AES-256-GCM of one block of zeros under a key of zeros, test case 14 of its authors (PRESUMED, log 98). -/
theorem test_aes_gcm :
    aesBlock (aesKeys (List.range 32)) ((List.range 16).map fun i => 17 * i) =
      [0x8E, 0xA2, 0xB7, 0xCA, 0x51, 0x67, 0x45, 0xBF, 0xEA, 0xFC, 0x49, 0x90, 0x4B, 0x49, 0x60, 0x89] ∧
    gcmText 0 (natBytes 12 0) (natBytes 16 0) = natBytes 16 0x189DF3BAD3C54E076E6B604D3D40A7CE ∧
    (gcmTag 0 (natBytes 12 0) [] (gcmText 0 (natBytes 12 0) (natBytes 16 0))).toNat = 0x19B98AD4B5985B26F06B9999A7C8D1D0 := by decide +kernel
/-- The generator of RS(544,514) has the coefficients that IEEE 802.3 prints (PRESUMED, log 99). -/
theorem test_rs_generator : rsGen.take 5 = [523, 834, 128, 158, 185] ∧ rsGen.drop 27 = [187, 552, 575, 1] := by decide +kernel

theorem witness_StraitTimersAct :
    let b (x : Machine.Strait) := (straitIn x).strait 2
    let h := heldFlit
    let ready := { (run (straitIn { st := .up, quiet := true })).start with tides := {} }
    (b { st := .up, nakWait := true }).nakWait = true ∧ (b { st := .up, replay := [h] }).replay = h :: [] ∧ (b {}).replay = [] ∧
    (b { st := .drain, txXoff := 2 }).txXoff ≠ 0 ∧ (b { st := .detect }).st ≠ .up ∧ dozeOk ready 2 = true ∧ dozeOk (run (straitIn {})).start 2 = false ∧
    (b { st := .up }).dozeSent = false ∧ (b { st := .up }).dozeGot = none ∧ (b { st := .up }).ctrl = [] ∧
    (b { dozeSent := true }).dozeSent = true ∧ (b { st := .qdoze }).wake = .none ∧
    (b { st := .ddoze, agreedOff := 5 }).agreedOff ≠ 0 ∧ (b { st := .ddoze }).agreedOff = 0 ∧ (b { st := .off }).st.dozing = true ∧
    (b { st := .up }).st.dozing = false ∧ (b { st := .qdoze, wake := .waking }).wake = .waking ∧
    (let x := b { laneSymbols := [(0, 5000001), (1, 5000000)] }
     x.laneAlarm.toNat < (tget 0 x.laneSymbols 0 - tget 0 x.laneMark 0).toNat ∧ (tget 0 x.laneSymbols 1 - tget 0 x.laneMark 1).toNat ≤ x.laneAlarm.toNat) := by
  decide +kernel

/-- What an attempt found: all lanes good but those given, the peer of class M, a round trip of 60 ns. -/
def trained (good : BitVec 5) (cls : BitVec 2) (rtt : BitVec 32) : TrainResult :=
  { good, moduleOk := true, role := false, node := 5, strait := 2, cls, epoch := 1, sawEpoch := 0, expected := 0, xoff := 0, rtt, buffer := 192, replay := 256, tuning := [] }

theorem witness_StraitsTrainAndFail :
    let b (x : Machine.Strait) := (straitIn x).strait 2
    blockOn.maint.lost = false ∧ (b { st := .detect }).oeReady = true ∧ (badLanes 0x0F).length < 2 ∧ 2 ≤ (badLanes 7).length ∧
    (b { st := .detect, oeReady := false }).oeReady = false ∧ (b { st := .train }).st = .train ∧ 2 ≤ (2 : StraitId).val ∧
    2 ≤ (badLanes (trained 7 0 60).good).length ∧ (badLanes (trained 0x1F 0 60).good).length < 2 ∧ (trained 0x1F 1 60).cls ≠ (b {}).cls ∧
    (trained 0x1F 0 60).cls = (b {}).cls ∧ bitAt (b {}).expect 63 = false ∧ clsRtt (b {}).cls < (trained 0x1F 0 61).rtt.toNat ∧
    (trained 0x1F 0 60).rtt.toNat ≤ clsRtt (b {}).cls ∧ (b { st := .retrain, attempts := 1 }).attempts < 2 ∧ 2 ≤ (b { attempts := 2 }).attempts ∧
    (b { st := .calibrate }).st = .calibrate ∧ (∀ k < 4, bitAt (0xF : BitVec 5) (bits (b {}).map (3 * k + 2) (3 * k)) = true) ∧
    bitAt (7 : BitVec 5) (bits (b {}).map (3 * 3 + 2) (3 * 3)) = false ∧
    (b { st := .drain, req := .calibrate }).replay = [] ∧ (b { st := .drain, req := .calibrate }).ctrl = [] ∧
    (ctl cfCalReq).type.toNat = cfCalReq ∧ ((straitIn { st := .drain }).eg 2).cur = none ∧ (b { st := .drain }).ingress = [] := by
  decide +kernel

/-! ### Witnesses: straits, packets that leave, banks, invalidations -/

theorem witness_StraitControlWrites :
    let b (x : Machine.Strait) := straitIn x
    let only := { b { st := .up, enable := true } with
      route := { banks := [(0, { st := .current, entries := [(5, word [(0, 4)])] })] } }
    let held := { b { st := .up, enable := true } with maint := { tokens := [(2, { holder := 1, explicit := true })] } }
    (b {}).Writable .control 0x11010 ∧ bitAt (b {}).maint.straps (32 + 2) = true ∧ ((b {}).strait 2).enable = false ∧ ((b {}).strait 2).st = .disabled ∧
    bitAt ({ b {} with maint := { straps := 0 } }).maint.straps (32 + 2) = false ∧ held.Writable .control 0x11010 ∧
    tokenBusy held 2 Path.control.holder = true ∧ tokenBusy (b {}) 2 Path.control.holder = false ∧
    (∀ st ∈ [StraitSt.disabled, .failed, .miswired, .detect, .up, .qdoze], (b { st, enable := true }).Writable .control 0x11010 ∧
      ((b { st, enable := true }).strait 2).enable = true) ∧
    StraitSt.up.carries = true ∧ StraitSt.qdoze.carries = true ∧ (b {}).maint.activating = false ∧
    ({ b {} with maint := { activating := true } }).maint.activating = true ∧ onlyPath (run only).start 2 = true ∧
    onlyPath (run (b { st := .up, enable := true })).start 2 = false := by unfold Block.Writable; decide +kernel

/-- A packet queued for a strait, in queue 3 of context 0, bound to bank 0. -/
def queued : QPkt :=
  { pkt := { route := routeFrom id, op := 0, payload := [], ext := none }, q := 3, vc := 1, slot := none, epoch := some false, use := .none,
    forwarded := false, inStrait := 0, since := 0, high := false, counted := false }

theorem witness_StraitsSendInOrder :
    let b (x : Machine.Strait) (e : Machine.Egress) := { straitIn x with egress := [(2, e)] }
    let t (x : Machine.Strait) (e : Machine.Egress) := (timeDue 2 (run (b x e)).start).strait 2
    let h := heldFlit
    ¬ ((t { st := .detect } {}).st = .up ∨ (t { st := .detect } {}).st = .drain) ∧
    (t { st := .up } {}).st = .up ∧ (b { st := .up } {}).dpRuns = true ∧
    (let asleep := t { st := .up, dozeSent := true, dozeGot := some (1, 2) } {}
     asleep.st = .up ∧ asleep.dozeSent = true ∧ asleep.dozeGot = some (1, 2)) ∧
    (let plain := t { st := .up } {}
     plain.dozeGot.isSome = false ∧ plain.nakDue = false ∧ plain.ctrl = []) ∧ (t { st := .up, nakDue := true } {}).nakDue = true ∧
    (t { st := .up, ctrl := [ctl cfQuery] } {}).ctrl = ctl cfQuery :: [] ∧
    (t { st := .up, replay := [h], replayPos := some 0 } {}).replayPos = some 0 ∧
    (t { st := .up, replay := [h], replayPos := some 0 } {}).replay[0]? = some h ∧
    (let full := t { st := .up, replay := List.replicate 256 h } {}
     clsReplay full.cls ≤ full.replay.length ∧ full.replayPos = none) ∧
    bitAt (b { st := .up } {}).time.due 2 = false ∧ (t { st := .up } {}).replayPos = none ∧
    (t { st := .up } {}).replay.length < clsReplay (t { st := .up } {}).cls ∧
    (let c : Machine.Cell := { hdr := 0, payload := 0 }
     ((b { st := .up } { cells := [c] }).eg 2).cells = c :: []) ∧
    bitAt (t { st := .up } {}).txXoff 0 = false ∧ (t { st := .up } {}).peerDrain = false ∧
    bitAt (t { st := .up, txXoff := 1 } {}).txXoff 0 = true ∧
    (let k : Cur := { qp := queued, sent := 1, flits := 1 }
     ((b { st := .up } { cur := some k }).eg 2).cur = some k) ∧ ((b { st := .up } {}).eg 2).cells = [] ∧ ((b { st := .up } {}).eg 2).cur = none ∧
    (let s := (run (b { st := .up } { queues := [(3, [queued])] })).start
     earliest ((refreshElig 2 s).eg 2) = some 3 ∧ queueOf (refreshElig 2 s) 2 3 = queued :: []) := by decide +kernel

theorem witness_RouteBanksActByState :
    let b (st : BankSt) := { blockOn with route := { banks := [(0, { st })] } }
    let drains := { b .old with egress := [(2, { queues := [(3, [queued])] })] }
    (∀ st ∈ [BankSt.opened, .ready, .current, .old], ((b st).bank 0).st = st ∧ (b st).Writable .control 0x1208 ∧
      (∀ t ∈ [BankTarget.entry 8191, .mode, .dateline, .torusDim], (b st).Writable .fm (bankOffset 0 t))) ∧
    drainCount (run drains).start 0 ≠ 0 ∧ drainCount (run (b .ready)).start 0 = 0 := by unfold Block.Writable; decide +kernel
theorem test_flip_makes_old :
    (after (Machine.exec (.routeFlip .control 1) (run { blockOn with route := { banks := [(0, { st := .current }), (1, { st := .ready })] } }))).bank 0 =
      { st := .old } := by decide

/-- A use of context 0 under generation 3, by engine 0; agent 1's register set with an invalidation of it. -/
def oldUse : Use := { who := .rack 0, sub := 0, ctx := 0, gen := 3 }
def invAt (i : Machine.Inv) (uses : List Use) : Block := { blockOn with xlat := { invs := [(1, i)], uses } }

theorem witness_InvalidationsDropAndWait :
    let b (i : Machine.Inv) (uses : List Use) := invAt i uses
    (b {} []).Writable .control (0x70418 + 0x40 * 1) ∧ ((b { active := true } []).inv 1).active = true ∧ ((b { units := 5 } []).inv 1).active = false ∧
    ((b { units := 5 } []).inv 1).units.toNat ≠ 0 ∧ ((b {} []).inv 1).units.toNat = 0 ∧ (0 : Ctx).val = 0 ∧ (15 : Ctx).val ≠ 0 ∧
    ((b { active := true } []).inv 1).acking = false ∧ invUses (run (b { active := true } [])).start 1 = [] ∧
    invBehind (run (b { active := true } [])).start 1 = false ∧
    invBehind (run { b { active := true, order := 2, ctxs := [3] } [] with xlat := { invs :=
      [(0, { active := true, order := 1, ctxs := [3] }), (1, { active := true, order := 2, ctxs := [3] })] } }).start 1 = true ∧ invUses (run (b { active := true, old := [oldUse] } [oldUse])).start 1 ≠ [] := by
  unfold Block.Writable; decide +kernel

/-! ### Witnesses: contexts and keys -/

theorem witness_ContextsBindFreezeAndReset :
    let b (st : CtxSt) := { blockOn with ctxs := [(0, { valid := true, st })] }
    let busy (x : Machine.Seq) := { b .running with seqs := [(0, { x with ownerValid := true, owner := 0 })] }
    (b .running).Writable .control 0x40000 ∧ (b .running).Writable .control 0x40028 ∧ seqsIdle (run (busy { st := .loaded })).start 0 = false ∧
    seqsIdle (run (b .running)).start 0 = true ∧ ({ b .running with maint := { bistState := 1 } }).maint.bistState = 1 ∧ (b .running).maint.bistState ≠ 1 ∧
    (∀ st ∈ [CtxSt.unbound, .running, .frozen, .resetting], ((b st).ctx 0).st = st) ∧ ((b .unbound).ctx 0).st ≠ .frozen ∧
    ({ b .running with maint := { block := true } }).maint.block = true ∧ (b .running).maint.block = false ∧
    (let loads := { b .resetting with seqs := [(0, { ownerValid := true, owner := 0, st := .loading })] }
     ((ownSeqs (run loads).start 0).any fun q => (loads.seq q).st == .loading) = true) ∧
    ((ownSeqs (run (b .resetting)).start 0).any fun q => ((b .resetting).seq q).st == .loading) = false := by unfold Block.Writable; decide +kernel
theorem witness_ContextCommandsComplete :
    let b (st : CtxSt) := { blockOn with ctxs := [(0, { valid := true, st })] }
    (b .running).Writable .control (0x40000 + 0x1000 * 0) ∧ seqsIdle (run (b .running)).start 0 = true ∧ (b .running).maint.bistState ≠ 1 ∧
    (b .running).Writable .control (0x40028 + 0x1000 * 0) ∧ ((b .running).ctx 0).st = .running ∧ ((b .frozen).ctx 0).st = .frozen ∧
    (b .frozen).Writable .control (0x40028 + 0x1000 * 0) ∧ ((b .resetting).ctx 0).st = .resetting ∧ ((b .resetting).seqs = []) ∧
    ((b .unbound).ctx 0).st = .unbound := by unfold Block.Writable; decide +kernel
theorem witness_ContextCommandsComplete_end : ∀ q, (({ blockOn with ctxs := [(0, { valid := true, st := .resetting })] } : Block).seq q).st ≠ .loading := by
  intro q; exact (by decide : ({} : Machine.Seq).st ≠ .loading)
theorem test_freeze_twice_does_nothing :
    (after (Machine.exec (.ctxFreeze .control 0) (run { blockOn with ctxs := [(0, { valid := true, st := .frozen, frzCause := 4 })] }))).ctx 0 =
      { valid := true, st := .frozen, frzCause := 4 } := by decide +kernel

/-- Key slots of partition 0 and weight slot 1 with the arguments of a command. -/
def keysAt (a0 a1 a2 : Word) (slots : Tbl KeySlot) : Block := { blockOn with keys := { arg0 := a0, arg1 := a1, arg2 := a2, slots } }
/-- The arguments of a command on vintage v of partition 0. -/
def vint (v : Nat) : Word := word [(32, v)]

theorem witness_KeyCommandsAct :
    let b := keysAt (vint 7) 0 0
    let taken := { b [] with maint := { tokens := [(resKeystore, { holder := 2, explicit := true })] } }
    let mine (f : KeySlot → Bool) (x : Block) : Bool := [0, 1, 2].any fun j => f (x.slot j)
    (b []).keys.active = false ∧ ({ b [] with keys := { active := true } }).keys.active = true ∧
    ({ b [] with keys := { active := true } }).Writable .rot 0xC0000 ∧ (b []).Writable .rot 0xC0000 ∧ taken.Writable .rot 0xC0000 ∧ tokenBusy taken resKeystore Path.rot.holder = true ∧
    tokenBusy (b []) resKeystore Path.rot.holder = false ∧ argPart (b []) = 0 ∧ argVintage (b []) = 7 ∧
    mine (fun x => x.st == .staged) (b [(1, { st := .staged })]) = true ∧ mine (fun x => x.st == .staged) (b []) = false ∧
    (argVintage (b [])).toNat ≤ (tget 0 ({ (b []).keys with highest := [(0, 7)] }).highest 0).toNat ∧
    bits ((b [(0, { st := .current, vintage := 0x107 })]).slot 0).vintage 7 0 = bits (argVintage (b [])) 7 0 ∧
    (tget 0 (b []).keys.highest 0).toNat < (argVintage (b [])).toNat ∧
    (let full := b [(0, { st := .current, vintage := 1 }), (1, { st := .previous, vintage := 2 }), (2, { st := .previous, vintage := 3 })]
     mine (fun x => x.st == .empty) full = false ∧ mine (fun x => x.st != .empty && bits x.vintage 7 0 == 7) full = false) ∧
    mine (fun x => x.st == .empty) (b []) = true ∧ (slotIn (b [(1, { st := .previous })]) 0 .previous).isSome = true ∧
    slotIn (b [(2, { st := .staged, vintage := 7 })]) 0 .previous = none ∧ slotIn (b []) 0 .staged = none ∧
    slotIn (b [(2, { st := .staged, vintage := 7 })]) 0 .staged = some 2 ∧ ((b [(2, { st := .staged, vintage := 7 })]).slot 2).vintage = argVintage (b []) ∧
    ((b [(2, { st := .staged, vintage := 8 })]).slot 2).vintage ≠ argVintage (b []) ∧ retireTarget (b []) = none ∧
    retireTarget (b [(0, { st := .current, vintage := 7 })]) = some 0 ∧ retireTarget (b [(1, { st := .previous, vintage := 7, refs := 2 })]) = some 1 ∧
    8 < (9 : Byte).toNat := by unfold Block.Writable; decide +kernel

theorem witness_WeightCommandsAndSnapshot :
    let slots (refs : Nat) (pmask : BitVec 4) : Tbl KeySlot := [(13, { st := .weight, setTag := 0x105, pmask, refs })]
    let grant := word [(16, 5), (12, 1), (4, 1)]
    let other := word [(16, 5), (12, 1), (4, 2)]
    let b := keysAt grant (word [(63, 1), (16, 4)]) (word [(16, 6)])
    let range (w : BitVec 2) (x : Block) := { x with keys := { x.keys with ranges := [(3, { valid := true, wslot := w, base := 5, limit := 9 })] } }
    (b []).Writable .rot 0xC0000 ∧ tokenBusy (b []) resKeystore Path.rot.holder = false ∧ argWslot (b []) = 13 ∧ ((b (slots 0 1)).slot 13).st ≠ .empty ∧
    ((b []).slot 13).st = .empty ∧ argWslot (keysAt other 0 0 (slots 0 1)) = 14 ∧
    bits ((keysAt other 0 0 (slots 0 1)).slot 13).setTag 7 0 = bits (argSetTag (keysAt other 0 0 [])) 7 0 ∧
    ((b (slots 2 3)).slot 13).pmask &&& ~~~(argPmask (b [])) ≠ 0 ∧ ((b (slots 2 3)).slot 13).refs ≠ 0 ∧
    ((b (slots 2 1)).slot 13).pmask &&& ~~~(argPmask (b [])) = 0 ∧ ((b (slots 0 3)).slot 13).refs = 0 ∧ bitAt (b []).keys.arg1 63 = true ∧
    bits (b []).keys.arg1 49 16 < bits (b []).keys.arg2 49 16 ∧ bits (keysAt grant (word [(63, 1), (16, 4)]) 0 []).keys.arg2 49 16 ≤ 4 ∧
    bitAt (keysAt grant 0 0 []).keys.arg1 63 = false ∧
    (tget ({} : WRange) (range 0 (b [])).keys.ranges 3).valid = true ∧ (tget ({} : WRange) (range 0 (b [])).keys.ranges 3).wslot ≠ BitVec.ofNat 2 (13 - 12) ∧
    (tget ({} : WRange) (range 0 (b [])).keys.ranges 3).base.toNat < bits (b []).keys.arg2 49 16 ∧
    snapshotNotReady (b []) = false ∧ snapshotNotReady { b [] with maint := { restarting := true } } = true := by unfold Block.Writable; decide +kernel

/-! ### Witnesses: power, meters, tides, the thief -/

/-- A request to the power manager. -/
def permit (id : Nat) (cancelled : Bool) : PermitReq := { id, who := .bist, units := 5, since := 0, cancelled }

theorem witness_PowerRequestsAndClock :
    let b (w : Machine.Power) := { blockOn with pwr := w }
    let all := (List.range 8).map fun i => permit i false
    (b { alive := false }).pwr.alive = false ∧ (b {}).pwr.outstanding = [] ∧
    ([permit 3 false].find? fun x => x.id == (3 : Fin 8).val) = some (permit 3 false) ∧ (permit 3 false).cancelled = false ∧ (permit 3 true).cancelled = true ∧
    (b {}).pwr.waiting = [] ∧ (∀ i < 8, ∃ r ∈ all, r.id = i) ∧ (∀ x ∈ [permit 0 false, permit 2 false], x.id ≠ 1) ∧
    (∀ j < 1, ∃ x ∈ [permit 0 false, permit 2 false], x.id = j) ∧ blockOn.dpRuns = true ∧ dpMayStop (run blockOn).start = true ∧
    blockOn.kicked = false ∧ ({ blockOn with kicked := true }).kicked = true ∧
    dpMayStop (run { blockOn with portal := { reqs := [openPut 0] } }).start = false ∧ (b { dp := .starting }).pwr.dp = .starting ∧ blockOn.pwr.dp ≠ .starting ∧
    blockOn.Writable .control 0xA0010 ∧ keep (0x100000000 : Word) 63 63 ||| keep (0x100000000 : Word) 31 0 = 0 ∧
    keep (4 : Word) 63 63 ||| keep (4 : Word) 31 0 ≠ 0 := by unfold Block.Writable; decide +kernel
theorem test_grant_adds_units : (after (Machine.exec (.pmGrant 3) (run { blockOn with
    pwr := { dp := .running, held := 7, outstanding := [permit 3 true] } }))).pwr.returnedUnused = 5 := by decide

theorem witness_MetersHoldAndRelease :
    let m (ctrl : Word) (tc te : Nat) : Machine.Meter :=
      { ctrl, rate := 0, size := word [(0, 1000), (32, 1000)], tc, te, hold := [queued] }
    let b (x : Machine.Meter) := { blockOn with meters := [(2, x)] }
    (blockOn.meter 2).hold = [] ∧ ((b (m 0 0 0)).meter 2).hold = queued :: [] ∧
    (meterRun (m 0 1000000 0) 0 (pktBytes queued.pkt)).1 = .green ∧ (meterRun (m 0 0 1000000) 0 (pktBytes queued.pkt)).1 = .yellow ∧
    (meterRun (m 0 0 0) 0 (pktBytes queued.pkt)).1 = .red ∧ bitAt (m 0 0 0).ctrl 61 = false ∧ bitAt (m (word [(61, 1)]) 0 0).ctrl 61 = true ∧
    (meterRun (m (word [(61, 1)]) 0 0) 0 (pktBytes queued.pkt)).1 = .red ∧ (b (m 0 0 0)).Writable .fm (0x81008 + 0x40 * 2) ∧
    (b (m 0 0 0)).Writable .fm (0x81010 + 0x40 * 2) ∧ (b (m 0 0 0)).Writable .fm (0x81000 + 0x40 * 2) ∧ bitAt (word [(63, 1)]) 63 = true ∧
    bitAt (word [(63, 1)]) 61 = false ∧ bitAt (word [(63, 1), (61, 1)]) 61 = true := by unfold Block.Writable; decide +kernel

theorem witness_TidesAndTimeAdvance :
    let good : Machine.Tide := { adminCycle := word [(32, 1), (0, 125)], admin := [(0, 125)] }
    let runs : Machine.Tide := { enable := true, operValid := true, operCycle := word [(32, 2), (0, 250)], oper := [(0, 125), (1, 125)], began := 0 }
    let b (t : Machine.Tide) := { blockOn with tides := [(2, t)] }
    let bad (t : Machine.Tide) : Bool :=
      decide (bits t.adminCycle 38 32 < 1 ∨ 64 < bits t.adminCycle 38 32 ∨ bits t.adminCycle 26 0 < 125 ∨ 125000000 < bits t.adminCycle 26 0) ||
        (List.range (bits t.adminCycle 38 32)).any fun j => tideBad (tget 0 t.admin j)
    (b good).Writable .control (0x82078 + 0x100 * 2) ∧ ((b { good with pending := true }).tide 2).pending = true ∧ good.pending = false ∧
    bad {} = true ∧ bad { good with admin := [] } = true ∧ bad good = false ∧ blockOn.time.net.toNat < (5 : Word).toNat ∧
    (0 : Word).toNat ≤ blockOn.time.net.toNat ∧ tideRuns good = false ∧ tideRuns runs = true ∧ (tideEnter 1000 runs).began ≠ runs.began ∧
    (tideEnter 0 runs).began = runs.began ∧ blockOn.maint.lost = false ∧ ({ blockOn with maint := { lost := true } }).maint.lost = true ∧
    (let at0 (net : Word) : Block := { blockOn with time := { net } }
     10 ≤ (at0 10010).time.net.toNat % max 1000 blockOn.sched.samplePeriod.toNat ∧
     (at0 20009).time.net.toNat % max 1000 blockOn.sched.samplePeriod.toNat < 10 ∧ blockOn.sched.sampled ≠ some 2 ∧
     ({ blockOn with sched := { sampled := some 2 } }).sched.sampled = some 2) := by
  unfold Block.Writable; decide +kernel

theorem witness_ThiefRecordsAndRing :
    let r (n : Nat) (issued : Bool) : Staged := { serial := n, grans := [0], issued, left := 1 }
    let b (t : Machine.Thief) := { blockOn with thief := t }
    thiefOn (b {}) 1 = false ∧ thiefOn (b { ctrl := 3 }) 1 = true ∧ thiefOn (b { ctrl := 8 }) 3 = false ∧ thiefOn (b { ctrl := 9 }) 3 = true ∧
    Block.reset.dpRuns = false ∧ blockOn.dpRuns = true ∧ (b { staged := [r 0 true, r 1 false] }).thief.staged = [r 0 true] ++ r 1 false :: [] ∧
    (∀ x ∈ [r 0 true], x.issued = true) ∧ (r 1 false).issued = false ∧ (b {}).Writable .control 0x90000 ∧ bitAt (b {}).thief.ctrl 0 = false ∧
    bitAt (b { ctrl := 1 }).thief.ctrl 0 = true ∧ portFree [0, 33] (run blockOn).start = true ∧
    portFree [5] (run { blockOn with mem := { waiting := [(memOut false .loader).req] } }).start = false := by unfold Block.Writable; decide +kernel

theorem witness_SetsLatchAndEventsFollow :
    let b (e : EventUnit) := { blockOn with evt := e }
    let vec (x : VecState) := tget ({} : VecState) (b { vecs := [(3, x)] }).evt.vecs 3
    (b {}).Writable .control (0x90800 + 0x100 * 7) ∧ (b {}).Writable .control (0x90808 + 0x100 * 7) ∧ (vec { sent := some 0, further := true }).further = true ∧
    ((b {}).evt.moderation.toNat ≤ (b {}).time.loc) ∧ (vec {}).further = false ∧ ¬ 0 + ({ (b {}).evt with moderation := 9 }).moderation.toNat ≤ (b {}).time.loc ∧
    (b {}).Writable .control 0x1020 ∧ ringSizeOk (b { log2 := 5 }).evt.log2.toNat = false ∧ ringSizeOk (b { log2 := 20 }).evt.log2.toNat = true ∧
    tget 0 blockOn.keys.strangers 0 + tget 0 blockOn.keys.strangers 1 + tget 0 blockOn.keys.strangers 2 = blockOn.keys.strangerMark ∧
    (1 : Word) ≠ blockOn.keys.strangerMark ∧ blockOn.route.staleEpoch = blockOn.route.staleMark ∧
    ({ blockOn.route with staleEpoch := 1 }).staleEpoch ≠ blockOn.route.staleMark ∧
    blockOn.keys.strangerMs ≠ some (blockOn.time.net.toNat / 1000000) ∧ blockOn.route.staleMs ≠ some (blockOn.time.net.toNat / 1000000) ∧
    ({ blockOn.route with staleMs := some 0 }).staleMs = some (blockOn.time.net.toNat / 1000000) := by unfold Block.Writable; decide +kernel

/-! ### Witnesses: control messages and resets -/

/-- A control message of a KIND with SEQUENCE 5 and one item: CODE, OFFSET 0x4000 and a value. -/
def message (kind code : Nat) : CtlMsg :=
  { src := 3, epoch := false, w0 := quad [(120, kind), (96, if kind < 4 then 1 else 0), (0, 5)], w1 := quad [(120, code), (0, if kind < 4 then 0x4000 else 0)]
    body := List.replicate 16 0 }
/-- A block with that message at the head of the control queue. -/
def asked (kind code : Nat) (b : Block) : Block := { b with fm := { queue := [message kind code] } }

theorem witness_ControlMessagesAct :
    let b (kind code : Nat) := asked kind code blockOn
    (∀ k ∈ [1, 2, 3, 4, 5], (b k 1).fm.queue = message k 1 :: [] ∧ mKind (message k 1) = k) ∧ blockOn.maint.lost = false ∧
    ({ blockOn with maint := { lost := true } }).maint.lost = true ∧
    (let dp : CtlMsg := { message 2 0 with w1 := quad [(0, 0x20000)] }
     itemsWait dp (run { Block.reset with fm := { queue := [dp] } }).start = true ∧ mKind dp = 2) ∧
    itemsWait (message 2 0) (run (b 2 0)).start = false ∧ copyOf (b 1 0) 5 = .fresh ∧
    copyOf { blockOn with fm := { record := [(5, 8, 2)] } } 5 = .duplicate 8 2 ∧ copyOf { blockOn with fm := { high := 1029 } } 5 = .tooOld ∧
    mCode (message 4 1) = 1 ∧ mCode (message 4 2) = 2 ∧ mCode (message 4 3) ≠ 1 ∧ mCode (message 4 3) ≠ 2 := by decide +kernel

theorem witness_EnginesAndPartitionsReset :
    let b (m : Machine.Maint) := { ctxUp 0 blockOn with maint := m }
    let held (x : Machine.Inst) := { b { engines := [.press] } with press := { insts := [(3, x)] } }
    (b {}).Writable .control 0xB0000 ∧ (b {}).Writable .control 0xB0008 ∧ (b { block := true }).Writable .control 0xB0000 ∧ (b {}).maint.block = false ∧
    EngUnit.press ∉ (b {}).maint.engines ∧ EngUnit.press ∈ (b { engines := [.press] }).maint.engines ∧
    ((held { st := .ending }).press.insts.any fun x => x.2.st == .ending && unitInst .press x.2) = true ∧
    ((held {}).press.insts.any fun x => x.2.st == .ending && unitInst .press x.2) = false ∧ EngUnit.xlat ∈ (b { engines := [.xlat] }).maint.engines ∧
    (let used := { b { engines := [.xlat] } with xlat := { invs := [(xlatReset, { old := [oldUse] })], uses := [oldUse] } }
     ((invUses (run used).start xlatReset).map fun u => u.ctx).eraseDups.filter (ctxRuns (run used).start) = [0]) ∧
    ((invUses (run (b {})).start xlatReset).map fun u => u.ctx).eraseDups.filter (ctxRuns (run (b {})).start) = [] ∧
    (0 ∉ (b {}).maint.parts) ∧ (0 ∈ (b { parts := [0] }).maint.parts) ∧ partBusy (run (b { parts := [0] })).start 0 = false ∧
    partHeld (run (b { parts := [0] })).start 0 = false ∧
    partBusy (run { blockOn with ctxs := [(0, { valid := true, st := .resetting })] }).start 0 = true ∧
    partHeld (run { blockOn with route := { waiting := [queued] } }).start 0 = true := by unfold Block.Writable; decide +kernel

theorem witness_BlockResetsAndPowerOn :
    let b (m : Machine.Maint) := { blockOn with maint := m }
    (b {}).Writable .rot 0xB0010 ∧ (b { block := true }).Writable .rot 0xB0010 ∧ (0xD1B2 : BitVec 16) ≠ 0xD1B3 ∧ bitAt (b {}).maint.straps 2 = false ∧
    bitAt (b { straps := 4 }).maint.straps 2 = true ∧ (b { straps := 4 }).maint.block = false ∧ (b { boot := .done }).maint.boot = .done ∧
    (∀ n < 32, straitSettled ((b { boot := .done }).strait n) = true) ∧ straitSettled ((straitIn { enable := true, st := .train }).strait 2) = false ∧
    (b {}).maint.boot ≠ .done ∧ (b { boot := .powerUp }).maint.boot = .powerUp ∧ (b {}).maint.boot ≠ .powerUp := by unfold Block.Writable; decide +kernel
/-! ### Witnesses: maintenance, firmware, the service port -/

theorem witness_MaintenanceActs :
    let b (m : Machine.Maint) := { blockOn with maint := m }
    let mine (r h : Nat) := b { tokens := [(r, { holder := h, explicit := true })] }
    let frozen := { blockOn with ctxs := [(0, { valid := true, st := .frozen })] }
    (frozen.ctx 0).st = .frozen ∧ (blockOn.ctx 0).st ≠ .frozen ∧ (∀ o ∈ [0xB0310, 0xB0308, 0xB0100, 0xB0180, 0xB0500], blockOn.Writable .control o) ∧
    0x24 ≤ (0x24 : Byte).toNat ∧ (0x23 : Byte).toNat < 0x24 ∧ tokenBusy (mine 0x23 1) 0x23 Path.control.holder = true ∧
    tokenBusy blockOn 0x21 Path.control.holder = false ∧ (0x21 : Byte).toNat = resPress ∧
    ({ blockOn with press := { permit := .held } }).press.permit = .held ∧ blockOn.press.permit ≠ .held ∧ (0x23 : Byte).toNat ≠ resPress ∧
    ((mine 0x23 1).token 0x23).holder ≠ Path.control.holder ∧ ((mine 0x23 3).token 0x23).holder = Path.control.holder ∧
    (b { bistState := 1 }).maint.bistState = 1 ∧ tokenBusy blockOn resCellar Path.control.holder = false ∧ bistClear (run (ctxUp 0 blockOn)).start = false ∧
    (b {}).maint.bistState ≠ 1 ∧ tokenBusy (mine resCellar 1) resCellar Path.control.holder = true ∧ bistClear (run blockOn).start = true ∧
    (b { bistState := 1 }).maint.bistWaiting = false ∧ (b { bistState := 1, bistWaiting := true }).maint.bistWaiting = true ∧
    (let used := { blockOn with racks := [(5, { maintValid := true, maintEntry := 7 })] }
     (used.rack 5).maintValid = true ∧ (used.rack 5).maintEntry.toNat = (7 : Fin 32).val) ∧
    (∀ e < 16, (blockOn.rack e).maintValid = false) ∧ tget none blockOn.home.quar 7 = none ∧
    tget none ({ blockOn with home := { quar := [(7, some 5)] } }).home.quar 7 ≠ none := by unfold Block.Writable; decide +kernel

/-- Cellarer 0 active and cellarer 1 in a role. -/
def cellars (role : Role) (m : Machine.Maint) : Block := { blockOn with maint := { m with cellarers := [(0, { role := .active }), (1, { role })] } }

theorem witness_FirmwareAndCellarersAct :
    let b (m : Machine.Maint) := cellars .standby m
    let calibrates := { b { bState := .staged } with straits := [(2, { st := .calibrate })] }
    (b {}).Writable .control 0xB0200 ∧ tokenBusy (b { tokens := [(resFwslot, { holder := 1, explicit := true })] }) resFwslot Path.control.holder = true ∧
    (b { bState := .staging }).maint.bState = .staging ∧ tokenBusy (b {}) resFwslot Path.control.holder = false ∧ (b {}).maint.bState ≠ .staging ∧
    calibrating (run calibrates).start = true ∧ calibrating (run (b {})).start = false ∧ (b {}).maint.bState ≠ .staged ∧
    activeCellarer (b {}) = some 0 ∧ standbyHealthy (b { bState := .staged }) 1 = true ∧ standbyHealthy (cellars .failed {}) 1 = false ∧
    (b {}).maint.verified = none ∧ (b { verified := some true }).maint.boot ≠ .verifying ∧ (b { activating := true }).maint.activating = true ∧
    (b { boot := .verifying, verified := some false }).maint.boot = .verifying ∧ ((b {}).cellarer 1).role = .standby ∧
    ((cellars .booting {}).cellarer 1).role = .booting ∧ (activeCellarer (cellars .booting {})).isSome = true ∧ (b {}).maint.activating = false ∧
    ((b {}).cellarer 0).role = .active ∧ activeCellarer blockOn = none ∧
    standbyHealthy ((run (b {})).start.modCellarer 0 fun c => { c with faultCode := 9 }) (1 - 0) = true ∧
    standbyHealthy ((run (cellars .failed {})).start.modCellarer 0 fun c => { c with faultCode := 9 }) (1 - 0) = false := by
  unfold Block.Writable; decide +kernel

/-- A stored-settings record of TYPE 5 for strait 2 at a version, its body two bytes. -/
def record (version : Byte) : List Word :=
  let body : List Byte := [0xAB, 0xCD]
  [word [(0, 5), (8, version.toNat), (16, 2), (32, 2)], word [(0, (crc32c body).toNat)], word [(0, 0xCDAB)]]

theorem witness_ServiceAndMailboxAct :
    let b (m : Machine.Maint) := { blockOn with maint := m }
    portsReady blockOn = true ∧ portsReady (b { boot := .powerUp }) = false ∧ stagingOff (run (b { lost := true })).start = true ∧
    stagingOff (run blockOn).start = false ∧ svcRefused (run (b { svcBusy := true })).start = some .busyActive ∧ svcRefused (run (b { bState := .booting })).start = some .busy ∧
    svcRefused (run blockOn).start = none ∧ (b { bState := .staging }).maint.bState = .staging ∧ blockOn.maint.bState ≠ .staging ∧
    0x01000000 ≤ (0x013FFF00 : BitVec 32).toNat ∧ (0x013FFF00 : BitVec 32).toNat < 0x01400000 ∧ (0x013FFF00 : BitVec 32).toNat % 256 = 0 ∧
    (List.replicate 256 (0 : Byte)).length ≤ 256 ∧ pagesCover [(0, List.replicate 256 0), (1, [0])] 257 = true ∧ pagesCover [] 257 = false ∧
    blockOn.maint.bState ≠ .booting ∧ blockOn.maint.lost = false ∧ (b { mbox := some .verify }).maint.mbox = some .verify ∧
    (b { mbox := some (.read 5 2) }).maint.mbox = some (.read 5 2) ∧ (b { mbox := some (.write 5 2 []) }).maint.mbox = some (.write 5 2 []) ∧
    blockOn.maint.mbox = none ∧ (b { lost := true }).maint.lost = true := by decide +kernel
/-- A record that is good, at every version; the version that the image reads is a free value (log 4), so that the three outcomes
come from the versions below it, at it and above it. -/
theorem witness_ServiceAndMailboxAct_record :
    ∀ v : Byte,
      let bs := recordBytes (record v)
      let len := bytesNat (slice bs 2 2)
      (byteAt bs 0).toNat = 5 ∧ byteAt bs 1 = v ∧ (byteAt bs 4).toNat = 2 ∧ 16 + len ≤ bs.length ∧
        (crc32c (slice bs 16 len)).toNat = bytesNat (slice bs 8 4) := by decide +kernel
theorem test_record_bad_crc :
    let bs := recordBytes ((record 1).set 2 0)
    ¬ (crc32c (slice bs 16 (bytesNat (slice bs 2 2)))).toNat = bytesNat (slice bs 8 4) := by decide +kernel

/-! ### Witnesses: the register window and frames -/

theorem witness_UnassignedOffsetsReadZeroAndIgnoreWrites :
    let unassigned (off : BitVec 24) : Bool := off.toNat % 8 == 0 && !(Reg.ofOffset off.toNat).known
    unassigned 0x1FF8 = true ∧ unassigned 0x40FF8 = true ∧ unassigned 0xFFFFF8 = true ∧ portsReady blockOn = true := by decide
theorem witness_ConfigurationWritesFrame : (run blockOn).Inv ∧ (run blockOn).blk.Quiet ∧ (run blockOn).blk.dpRuns = true ∧
    (∃ t, Machine.exec (.meterSettingWrite .control 2 false 5) (run blockOn) = .next t) ∧
    (∃ t, Machine.exec (.bankEntryWrite .control 0 .mode 0x100) (run blockOn) = .next t) ∧
    (∃ t, Machine.exec (.evtRingEnable .control 1) (run blockOn) = .next t) ∧ ∃ t, Machine.exec .pageHeld (run blockOn) = .next t := by
  exact ⟨by unfold State.Inv; decide, by unfold Block.Quiet; decide, by decide, ⟨_, rfl⟩, ⟨_, rfl⟩, ⟨_, rfl⟩, ⟨_, rfl⟩⟩
theorem witness_DumpsStayInTheirSlot :
    let s (st : CtxSt) := run { blockOn with ctxs := [(3, { valid := true, st })] }
    ∀ st ∈ [CtxSt.running, .frozen], (s st).Inv ∧ (s st).blk.Quiet ∧ (s st).blk.Writable .control 0xB0310 ∧ ((s st).blk.ctx 3).st = st ∧
      (∀ x ∈ (s st).blk.egress, x.1 < 32) ∧ (∀ e < 16, ((s st).blk.rack e).queue.length ≤ 8) := by
  unfold State.Inv Block.Quiet Block.Writable; decide +kernel
theorem witness_DumpsStayInTheirSlot_next :
    ∃ t, Machine.exec (.leesDump .control 3) (run { blockOn with ctxs := [(3, { valid := true, st := .frozen })] }) = .next t := ⟨_, rfl⟩

/-- ID.IDENT (Table 2.10) by halves, and a misaligned read, which reads 0 and is counted (R683). -/
theorem test_reads_by_size :
    (busRead .control 0 false [] Block.reset).1 = 0x00A00600 ∧ (busRead .control 4 false [] Block.reset).1 = 0x7E20D103 ∧
    (busRead .control 4 true [] Block.reset).1 = 0 ∧ (busRead .control 4 true [] Block.reset).2.evt.ctlIgnored = 1 := by
  decide +kernel

end Sys2Proof.Tests
end

section
/-!
PROOFS. Packets as straits deliver them: what the cellar's count leaves alone, what the flits of a packet spell, one
equation per check of Table 11.7 (R495), and from them the order of the checks (R411).
-/

namespace Sys2Proof.Machine

/-! ### An uncorrectable cellar error -/

/-- An uncorrectable cellar error changes the free values, the counters, the event unit and the port record. -/
theorem cellarHit_eq (region : Nat) (b : Block) :
    ∃ e o f u, cellarHit region b = { b with evt := e, out := o, free := f, util := u } := by
  unfold cellarHit
  obtain ⟨e, o, h⟩ := raiseEvent_eq 0x05 0 0xFF 0xFF b.fresh.1 (w64 region)
    { b.fresh.2 with util := { b.fresh.2.util with cellarUncorrectable := b.fresh.2.util.cellarUncorrectable + 1 } }
  exact ⟨e, o, _, _, h⟩

/-- The block after a packet is read from its ingress buffer; `struck`: the cellar cannot correct a flit of it (R39). -/
def cellarRead (struck : Bool) (b : Block) : Block := if struck then cellarHit 0 b else b

/-- A read of the cellar changes no part that the checks of Table 11.7 look at. -/
theorem cellarRead_parts (struck : Bool) (b : Block) :
    (cellarRead struck b).route = b.route ∧ (cellarRead struck b).fm = b.fm ∧ (cellarRead struck b).keys = b.keys := by
  cases struck with
  | false => exact ⟨rfl, rfl, rfl⟩
  | true =>
    obtain ⟨e, o, f, u, h⟩ := cellarHit_eq 0 b
    simp [cellarRead, h]

@[simp] theorem cellarRead_route (struck : Bool) (b : Block) : (cellarRead struck b).route = b.route :=
  (cellarRead_parts struck b).1
@[simp] theorem cellarRead_fm (struck : Bool) (b : Block) : (cellarRead struck b).fm = b.fm :=
  (cellarRead_parts struck b).2.1
@[simp] theorem cellarRead_keys (struck : Bool) (b : Block) : (cellarRead struck b).keys = b.keys :=
  (cellarRead_parts struck b).2.2
@[simp] theorem cellarRead_bank (struck : Bool) (b : Block) (k : Nat) : (cellarRead struck b).bank k = b.bank k := by
  simp [Block.bank]
@[simp] theorem cellarRead_isMember (struck : Bool) (b : Block) (part node : Nat) :
    isMember (cellarRead struck b) part node = isMember b part node := by
  simp [isMember]
@[simp] theorem cellarRead_matchSlot (struck : Bool) (b : Block) (weight : Bool) (key part : Nat) :
    matchSlot (cellarRead struck b) weight key part = matchSlot b weight key part := by
  simp [matchSlot, slotKeyId, Block.slot]

/-! ### The block as a packet command finds it -/

@[simp] theorem nextIn_start (s : State) (n v : Nat) : nextIn s.start n v = nextIn s.blk n v := rfl
@[simp] theorem isMember_start (s : State) (part node : Nat) : isMember s.start part node = isMember s.blk part node := rfl
@[simp] theorem matchSlot_start (s : State) (weight : Bool) (key part : Nat) :
    matchSlot s.start weight key part = matchSlot s.blk weight key part := rfl
@[simp] theorem readIn_start (s : State) (n : StraitId) (vc : Vc) (p : InPkt) (hits : List Nat) (hit : Bool) :
    readIn s.start n vc p hits hit = readIn s.blk n vc p hits hit := by
  simp only [readIn, matchSlot_start, State.start_slot]

/-! ### What the flits of a packet spell (R476 to R479, R393, R394) -/

/-- The encrypted bytes of a packet behind its header and tag: the payload, then the extension of a DATA packet with
CSV = 1 (R479). -/
def sealedBody (p : InPkt) (op : Quad) : List Byte :=
  ((p.flits.flatMap fun f => natBytes 120 f.1.toNat).drop 48).take
    (rLen p.route + (if rType p.route = tyData ∧ opCsv op = true then 8 else 0))

section
variable (b : Block) (n : StraitId) (vc : Vc) (p : InPkt) (hits : List Nat) (hit : Bool)

@[simp] theorem readIn_route : (readIn b n vc p hits hit).route = p.route := rfl
@[simp] theorem readIn_id : (readIn b n vc p hits hit).id = p.id := rfl

/-- A packet is poisoned by a flit that came so, or by one behind the HEAD flit that the cellar cannot correct. -/
theorem readIn_psn : (readIn b n vc p hits hit).psn = true ↔
    (∃ f ∈ p.flits, f.2 = true) ∨ ∃ i ∈ hits, i ≠ 0 ∧ i < p.need := by
  simp [readIn]

/-- Under the key that a packet names, its tag is checked over its encrypted bytes and its header, and its payload is
their plain text. -/
theorem readIn_keyed {k : Nat} (hty : rType p.route ≠ tyControl)
    (hk : matchSlot b (rWeight p.route) (rKey p.route) (rPart p.route) = some k) :
    let a := readIn b n vc p hits hit
    let iv := packetIv (rSrc p.route) (rNonce p.route)
    a.tagOk = (gcmTag (b.slot k).key iv (packetAad p.route a.op) (sealedBody p a.op) == a.tag) ∧
    a.payload = (gcmText (b.slot k).key iv (sealedBody p a.op)).take (rLen p.route) := by
  simp [readIn, sealedBody, hty, hk]

/-- A CONTROL packet, which no key encrypts, is read as it stands. -/
theorem readIn_control (hty : rType p.route = tyControl) :
    (readIn b n vc p hits hit).payload = (sealedBody p (readIn b n vc p hits hit).op).take (rLen p.route) := by
  simp [readIn, sealedBody, hty]

end

/-! ### The checks of Table 11.7, one at a time (R495) -/

section
variable {a : Arrival} {whole : Bool} {b : Block}

/-- Check 1: a malformed packet leaves and is counted. -/
theorem arrive_malformed (hm : malformed a.route a.op = true) : arrive a whole b =
    releaseIngress a.strait a.id { b with route := { b.route with malformed := b.route.malformed + 1 } } := by
  simp [arrive, hm]

/-- Check 2: a packet of a bank that is OPEN is stale. -/
theorem arrive_opened (hm : malformed a.route a.op = false) (ho : (b.bank (rEpoch a.route).toNat).st = .opened) :
    arrive a whole b = releaseIngress a.strait a.id (staleArrival (rSrc a.route) (rEpoch a.route) b) := by
  simp [arrive, hm, ho]

/-- Check 3 in a torus: a packet for another node goes on. -/
theorem arrive_forwards (hm : malformed a.route a.op = false) (ho : (b.bank (rEpoch a.route).toNat).st ≠ .opened)
    (hd : rDst a.route ≠ b.route.self.toNat) (ht : (b.bank (rEpoch a.route).toNat).torus = true) :
    arrive a whole b = forwardPacket a b := by
  simp [arrive, hm, ho, hd, ht]

/-- Check 3 elsewhere: a packet for another node leaves and is counted. -/
theorem arrive_misdelivered (hm : malformed a.route a.op = false) (ho : (b.bank (rEpoch a.route).toNat).st ≠ .opened)
    (hd : rDst a.route ≠ b.route.self.toNat) (ht : (b.bank (rEpoch a.route).toNat).torus = false) : arrive a whole b =
      releaseIngress a.strait a.id { b with route := { b.route with misdelivered := b.route.misdelivered + 1 } } := by
  simp [arrive, hm, ho, hd, ht]

/-- A packet for this node waits for its last flit (R501). -/
theorem arrive_waits (hm : malformed a.route a.op = false) (ho : (b.bank (rEpoch a.route).toNat).st ≠ .opened)
    (hd : rDst a.route = b.route.self.toNat) (hw : whole = false) : arrive a whole b = b := by
  simp [arrive, hm, ho, hd, hw]

/-- Checks 5 to 10 follow for a packet for this node that is no CONTROL packet. -/
theorem arrive_takes (hm : malformed a.route a.op = false) (ho : (b.bank (rEpoch a.route).toNat).st ≠ .opened)
    (hd : rDst a.route = b.route.self.toNat) (hw : whole = true) (hty : rType a.route ≠ tyControl) :
    arrive a whole b = takePacket a b := by
  simp [arrive, hm, ho, hd, hw, hty]

/-- Check 5, before any key is looked for (R411): the source is no member of the partition. -/
theorem takePacket_nonMember (hs : isMember b (rPart a.route) (rSrc a.route) ≠ true) :
    takePacket a b = releaseIngress a.strait a.id (stranger 2 a.route b) := by
  simp [takePacket, hs]

/-- Check 6: the packet names no key of this node. -/
theorem takePacket_noKey (hs : isMember b (rPart a.route) (rSrc a.route) = true)
    (hk : matchSlot b (rWeight a.route) (rKey a.route) (rPart a.route) = none) :
    takePacket a b = releaseIngress a.strait a.id (stranger 1 a.route b) := by
  simp [takePacket, hs, hk]

/-- Check 8: the tag of a packet fails, where check 7 has not let its poison pass. -/
theorem takePacket_badTag (hs : isMember b (rPart a.route) (rSrc a.route) = true)
    (hk : matchSlot b (rWeight a.route) (rKey a.route) (rPart a.route) ≠ none) (htag : a.tagOk = false)
    (hpsn : rType a.route = tyData → a.psn = false) (hty : rType a.route ≠ tyColl) :
    takePacket a b = releaseIngress a.strait a.id (stranger 0 a.route b) := by
  obtain ⟨k, hk⟩ := Option.ne_none_iff_exists'.mp hk
  have hclean : ¬(rType a.route = tyData ∧ a.psn = true) := fun ⟨hd, h⟩ => by simp [hpsn hd] at h
  simp [takePacket, hs, hk, htag, hclean, hty]

/-- An extension whose zero bits are not 0 shows once the packet is decrypted: it is malformed. -/
theorem takePacket_badExt (hs : isMember b (rPart a.route) (rSrc a.route) = true)
    (hk : matchSlot b (rWeight a.route) (rKey a.route) (rPart a.route) ≠ none) (htag : a.tagOk = true)
    (hpsn : a.psn = false) (hty : rType a.route ≠ tyColl) (hext : extOk a.ext = false) : takePacket a b =
      releaseIngress a.strait a.id { b with route := { b.route with malformed := b.route.malformed + 1 } } := by
  obtain ⟨k, hk⟩ := Option.ne_none_iff_exists'.mp hk
  simp [takePacket, hs, hk, htag, hpsn, hty, hext]

end

/-! ### The packet commands -/

section
variable {s : State} {n : StraitId} {vc : Vc} {hits : List Nat} {acc : Bool}

/-- The command for a packet of TYPE `ty` at the front of a VC has the effect f. -/
def PacketRuns (s : State) (n : StraitId) (vc : Vc) (hits : List Nat) (acc : Bool) (ty : Nat) (f : Block → Block) : Prop :=
  (ty = tyRead → exec (.packetRead ⟨n, vc, hits, acc⟩) s = .next (s.after f)) ∧
  (ty = tyWrite → exec (.packetWrite ⟨n, vc, hits, acc⟩) s = .next (s.after f)) ∧
  (ty = tyAtomic → exec (.packetAtomic ⟨n, vc, hits, acc⟩) s = .next (s.after f)) ∧
  (ty = tySignal → exec (.packetSignal ⟨n, vc, hits, acc⟩) s = .next (s.after f)) ∧
  (ty = tyForward → exec (.packetForward ⟨n, vc, hits, acc⟩) s = .next (s.after f)) ∧
  (ty = tyData → exec (.packetData ⟨n, vc, hits, acc⟩) s = .next (s.after f)) ∧
  (ty = tyResp → exec (.packetResp ⟨n, vc, hits, acc⟩) s = .next (s.after f)) ∧
  (ty = tyColl → exec (.packetColl ⟨n, vc, hits, acc⟩) s = .next (s.after f)) ∧
  (ty = tyControl → exec (.packetControl ⟨n, vc, hits, acc⟩) s = .next (s.after f)) ∧
  (typeOk ty = false → exec (.malformedPacket ⟨n, vc, hits, acc⟩) s = .next (s.after f))

/-- Every packet command is `corePacket` for its own TYPE. -/
theorem packetRuns_of_corePacket {ty : Nat} {f : Block → Block}
    (h : ∀ is : Nat → Bool, is ty = true → corePacket is n vc hits acc s.start = f s.start) :
    PacketRuns s n vc hits acc ty f := by
  have one (t : Nat) (ht : ty = t) : s.act (corePacket (· == t) n vc hits acc) = .next (s.after f) :=
    act_eq (h _ (beq_iff_eq.mpr ht))
  exact ⟨one _, one _, one _, one _, one _, one _, one _, one _, one _, fun ht => act_eq (h (!typeOk ·) (by simp [ht]))⟩

/-- With no packet on the VC a packet command does nothing. -/
theorem packetRuns_none (hp : nextIn s.blk n vc.val = none) (ty : Nat) : PacketRuns s n vc hits acc ty id :=
  packetRuns_of_corePacket fun _ _ => by simp [corePacket, hp]

/-- A HEAD flit that the cellar cannot correct ends the packet. -/
theorem packetRuns_head {p : InPkt} (hp : nextIn s.blk n vc.val = some p) (h0 : hits.contains 0 = true) :
    PacketRuns s n vc hits acc (rType p.route)
      fun b => headPoisoned n vc.val (cellarHit 0 (releaseIngress n p.id b)) :=
  packetRuns_of_corePacket fun is hty => by simp only [corePacket, nextIn_start, hp, hty, h0]; rfl

/-- Whether the cellar cannot correct a flit of a packet that is read whole at this node. -/
def struckIn (b : Block) (p : InPkt) (hits : List Nat) : Bool :=
  p.complete && decide (rDst p.route = b.route.self.toNat) && hits.any fun i => decide (i < p.need)

/-- Otherwise the packet meets the checks, on the block as the read of the cellar leaves it. -/
theorem packetRuns_arrive {p : InPkt} {f : Block → Block} (hp : nextIn s.blk n vc.val = some p)
    (h0 : hits.contains 0 = false)
    (h : arrive (readIn s.blk n vc p hits acc) p.complete (cellarRead (struckIn s.blk p hits) s.start) = f s.start) :
    PacketRuns s n vc hits acc (rType p.route) f :=
  packetRuns_of_corePacket fun is hty => by
    rw [← h]
    simp only [corePacket, nextIn_start, hp, hty, h0, readIn_start]
    rfl

/-- What the checks look at is as it was before the read of the cellar. -/
theorem cellarRead_start {struck : Bool} {s : State} {b : Block} (h : b = cellarRead struck s.start) :
    b.route.self = s.blk.route.self ∧ (∀ k, b.bank k = s.blk.bank k) ∧
    (∀ part node, isMember b part node = isMember s.blk part node) ∧
    ∀ weight key part, matchSlot b weight key part = matchSlot s.blk weight key part := by
  simp [h]

end

end Sys2Proof.Machine

open Sys2Proof Sys2Proof.Machine

/-- Settles O26: each check of Table 11.7 is reached when those before it have passed. -/
theorem packetsAreCheckedInOrder : Obligations.PacketsAreCheckedInOrder := by
  refine ⟨fun s n vc hits acc => ?_, fun b n vc p hits hit =>
    ⟨readIn_route .., readIn_id .., readIn_psn .., fun _ hty hk => readIn_keyed b n vc p hits hit hty hk,
      readIn_control b n vc p hits hit⟩⟩
  intro b run
  refine ⟨packetRuns_none, fun p hp => ?_⟩
  intro a ty
  refine ⟨packetRuns_head hp, fun h0 => ?_⟩
  intro here struck read go free opened mine member slot
  have runs (f : Block → Block) (h : arrive a p.complete (read s.start) = f s.start) : run ty f :=
    packetRuns_arrive hp h0 h
  have checked (f : Block → Block) (h : arrive a p.complete (read s.start) = f (read s.start)) : go f := runs _ h
  obtain ⟨hself, hbank, hmember, hslot⟩ := cellarRead_start (rfl : read s.start = cellarRead struck s.start)
  have closed (ho : ¬ opened) : ((read s.start).bank (rEpoch p.route).toNat).st ≠ .opened := by rwa [hbank]
  have takes (hmine : mine) : arrive a p.complete (read s.start) = takePacket a (read s.start) := by
    obtain ⟨hm, ho, ⟨hc, hd⟩, hty⟩ := hmine
    exact arrive_takes hm (closed ho) (by rwa [hself]) hc hty
  refine ⟨fun hm => ?malformed, fun hm ho => ?opened, fun hm ho hd => ⟨fun ht => ?forwards, fun ht => ?misdelivered⟩,
    fun hm ho hd hc => ?waits, fun hmine hs => ?nonMember, fun hmine hs hk => ?noKey,
    fun hmine hs hk htag hpsn hty => ?badTag, fun hmine hs hk htag hpsn hty hext => ?badExt⟩
  case malformed => exact checked _ (arrive_malformed hm)
  case opened => exact checked _ (arrive_opened hm (by rwa [hbank]))
  case forwards => exact checked _ (arrive_forwards hm (closed ho) (by rwa [hself]) (by rwa [hbank]))
  case misdelivered => exact checked _ (arrive_misdelivered hm (closed ho) (by rwa [hself]) (by rwa [hbank]))
  case waits =>
    have unread : read s.start = s.start := by simp [read, struck, hc]
    have same : arrive a p.complete (read s.start) = read s.start := arrive_waits hm (closed ho) (by rwa [hself]) hc
    exact runs id (same.trans unread)
  case nonMember => exact checked _ ((takes hmine).trans (takePacket_nonMember (by rwa [hmember])))
  case noKey => exact checked _ ((takes hmine).trans (takePacket_noKey (by rwa [hmember]) (by rwa [hslot])))
  case badTag =>
    exact checked _ ((takes hmine).trans (takePacket_badTag (by rwa [hmember]) (by rwa [hslot]) htag hpsn hty))
  case badExt =>
    exact checked _ ((takes hmine).trans (takePacket_badExt (by rwa [hmember]) (by rwa [hslot]) htag hpsn hty hext))

end

section
/-!
PROOFS. The route banks by their state: one equation per state for SEAL, FLIP and an entry write (Table 11.12, R516 to
R518), what the registers that carry them do, and from these the commands as a whole.
-/

namespace Sys2Proof.Machine

/-! ### SEAL, FLIP and entry writes, by the state of the bank -/

section
variable {k : Nat} {b : Block}

theorem sealBank_opened (h : (b.bank k).st = .opened) :
    sealBank k b = (.ok, b.modBank k fun x => { x with st := .ready }) := by
  simp only [sealBank, h]

theorem sealBank_ready (h : (b.bank k).st = .ready) : sealBank k b = (.ok, b) := by
  simp only [sealBank, h]

theorem sealBank_refused (h : (b.bank k).st = .current ∨ (b.bank k).st = .old) : sealBank k b = (.access, b) := by
  rcases h with h | h <;> simp only [sealBank, h]

theorem flipBank_ready (h : (b.bank k).st = .ready) :
    flipBank k b = (.ok, (b.modBank k fun x => { x with st := .current }).modBank (1 - k) fun x =>
      if x.st = .current then { x with st := .old } else x) := by
  simp only [flipBank, h]

theorem flipBank_current (h : (b.bank k).st = .current) : flipBank k b = (.ok, b) := by
  simp only [flipBank, h]

theorem flipBank_refused (h : (b.bank k).st = .opened ∨ (b.bank k).st = .old) : flipBank k b = (.notReady, b) := by
  rcases h with h | h <;> simp only [flipBank, h]

variable {f : Bank → Bank}

theorem entryWrite_opened (h : (b.bank k).st = .opened) : entryWrite k f b = (.ok, b.modBank k f) := by
  simp only [entryWrite, h]

theorem entryWrite_current (h : (b.bank k).st = .current) :
    entryWrite k f b = (.busyActive, routeStatus .busyActive b) := by
  simp only [entryWrite, h]

theorem entryWrite_draining (h : (b.bank k).st = .ready ∨ (b.bank k).st = .old) (hd : drainCount b k ≠ 0) :
    entryWrite k f b = (.busyDraining, routeStatus .busyDraining b) := by
  rcases h with h | h <;> simp only [entryWrite, h, if_pos hd]

theorem entryWrite_drained (h : (b.bank k).st = .ready ∨ (b.bank k).st = .old) (hd : drainCount b k = 0) :
    entryWrite k f b = (.ok, b.modBank k fun x => f { x with st := .opened, arrivals := 0 }) := by
  rcases h with h | h <;> simp only [entryWrite, h, if_neg (not_not.mpr hd)]

end

/-! ### The start cause of a datapath register leaves the banks and what they hold (R42) -/

@[simp] theorem kickAt_bank (off : Nat) (b : Block) (k : Nat) : (kickAt off b).bank k = b.bank k := by
  unfold kickAt; split <;> rfl

@[simp] theorem kickAt_drainCount (off : Nat) (b : Block) (k : Nat) : drainCount (kickAt off b) k = drainCount b k := by
  unfold kickAt; split <;> rfl

/-! ### ROUTE.CTRL -/

/-- ROUTE.CTRL with SEAL alone names the bank in bit 0. -/
theorem sealWord_fields : ∀ k : BankId, bits (BitVec.ofNat 64 (0x100 + k.val)) 0 0 = k.val ∧
    bitAt (BitVec.ofNat 64 (0x100 + k.val)) 8 = true ∧ bitAt (BitVec.ofNat 64 (0x100 + k.val)) 9 = false := by decide

/-- ROUTE.CTRL with FLIP alone names the bank in bit 0. -/
theorem flipWord_fields : ∀ k : BankId, bits (BitVec.ofNat 64 (0x200 + k.val)) 0 0 = k.val ∧
    bitAt (BitVec.ofNat 64 (0x200 + k.val)) 8 = false ∧ bitAt (BitVec.ofNat 64 (0x200 + k.val)) 9 = true := by decide

theorem writeRouteCtrl_seal (k : BankId) (b : Block) : (writeRouteCtrl (BitVec.ofNat 64 (0x100 + k.val)) b).2 =
    routeStatus (sealBank k b).1 (sealBank k b).2 := by
  obtain ⟨hk, hseal, hflip⟩ := sealWord_fields k
  simp [writeRouteCtrl, hk, hseal, hflip]

theorem writeRouteCtrl_flip (k : BankId) (b : Block) : (writeRouteCtrl (BitVec.ofNat 64 (0x200 + k.val)) b).2 =
    routeStatus (flipBank k b).1 (flipBank k b).2 := by
  obtain ⟨hk, hseal, hflip⟩ := flipWord_fields k
  simp [writeRouteCtrl, hk, hseal, hflip]

/-- A SEAL taken at once does what `sealBank` makes of the block, and ROUTE.STATUS has its outcome. -/
theorem exec_routeSeal {s : State} {p : Path} {k : BankId} (hw : s.blk.Writable p 0x1208) {st : Status}
    (g : Block → Block) (h : sealBank k (kickAt 0x1208 s.start) = (st, g (kickAt 0x1208 s.start))) :
    exec (.routeSeal p k) s = .next (s.afterWrite 0x1208 fun b => routeStatus st (g b)) :=
  regWrite_now _ (fun b => routeStatus st (g b)) hw rfl (ofOffset_glob (o := 0x208) (by omega))
    ((writeRouteCtrl_seal k _).trans (by rw [h]))

/-- A FLIP taken at once does what `flipBank` makes of the block, and ROUTE.STATUS has its outcome. -/
theorem exec_routeFlip {s : State} {p : Path} {k : BankId} (hw : s.blk.Writable p 0x1208) {st : Status}
    (g : Block → Block) (h : flipBank k (kickAt 0x1208 s.start) = (st, g (kickAt 0x1208 s.start))) :
    exec (.routeFlip p k) s = .next (s.afterWrite 0x1208 fun b => routeStatus st (g b)) :=
  regWrite_now _ (fun b => routeStatus st (g b)) hw rfl (ofOffset_glob (o := 0x208) (by omega))
    ((writeRouteCtrl_flip k _).trans (by rw [h]))

/-! ### The registers of a bank (Table 11.13) -/

/-- A bank with the register of a target set. -/
def putTarget (t : BankTarget) (v : Word) (y : Bank) : Bank :=
  match t with
  | .entry node => { y with entries := tset y.entries node.toNat v }
  | .mode => { y with torus := bitAt v 8 }
  | .dateline => { y with dateline := BitVec.ofNat 32 v.toNat }
  | .torusDim => { y with dims := v }

theorem bankOffset_aligned (k : BankId) (t : BankTarget) : bankOffset k t % 8 = 0 := by
  cases t <;> simp only [bankOffset] <;> omega

/-- A write of any register of a bank is an entry write (R516). -/
theorem writeReg_bankOffset (p : Path) (lees : List Host.Cell) (k : BankId) (t : BankTarget) (v : Word) (b : Block) :
    writeReg p lees (Reg.ofOffset (bankOffset k t)) v b = entryWrite k (putTarget t v) b := by
  cases t with
  | entry node =>
    rw [bankOffset, ofOffset_route k.isLt node.isLt]
    rfl
  | mode => fin_cases k <;> rfl
  | dateline => fin_cases k <;> rfl
  | torusDim => fin_cases k <;> rfl

/-- An entry write taken at once does what `entryWrite` makes of the block. -/
theorem exec_bankEntryWrite {s : State} {p : Path} {k : BankId} {t : BankTarget} {v : Word}
    (hw : s.blk.Writable p (bankOffset k t)) {st : Status} (g : Block → Block)
    (h : entryWrite k (putTarget t v) (kickAt (bankOffset k t) s.start) = (st, g (kickAt (bankOffset k t) s.start))) :
    exec (.bankEntryWrite p k t v) s = .next (s.afterWrite (bankOffset k t) g) :=
  regWrite_now v g hw (bankOffset_aligned k t) rfl (by rw [writeReg_bankOffset, h])

end Sys2Proof.Machine

open Sys2Proof Sys2Proof.Machine

/-- Settles O40: the state of the bank as the write finds it picks the row of Table 11.12 (R516, R517, R518). -/
theorem routeBanksActByState : Obligations.RouteBanksActByState := by
  intro s p k x
  have state (off : Nat) : ((kickAt off s.start).bank k).st = x := by simp [x]
  refine ⟨fun hw => ⟨fun h => ?sealOpened, fun h => ?sealReady, fun h => ?sealRefused,
    fun h => ?flipReady, fun h => ?flipCurrent, fun h => ?flipRefused⟩, fun t v hw => ?entries⟩
  case sealOpened => exact exec_routeSeal hw _ (sealBank_opened ((state _).trans h))
  case sealReady => exact exec_routeSeal hw id (sealBank_ready ((state _).trans h))
  case sealRefused => exact exec_routeSeal hw id (sealBank_refused (by rwa [state]))
  case flipReady => exact exec_routeFlip hw _ (flipBank_ready ((state _).trans h))
  case flipCurrent => exact exec_routeFlip hw id (flipBank_current ((state _).trans h))
  case flipRefused => exact exec_routeFlip hw id (flipBank_refused (by rwa [state]))
  case entries =>
    intro put
    have hput : put = putTarget t v := by funext y; cases t <;> rfl
    rw [hput]
    refine ⟨fun h => ?opened, fun h => ?current, fun h hd => ?draining, fun h hd => ?drained⟩
    case opened => exact exec_bankEntryWrite hw _ (entryWrite_opened ((state _).trans h))
    case current => exact exec_bankEntryWrite hw _ (entryWrite_current ((state _).trans h))
    case draining => exact exec_bankEntryWrite hw _ (entryWrite_draining (by rwa [state]) (by rwa [kickAt_drainCount]))
    case drained => exact exec_bankEntryWrite hw _ (entryWrite_drained (by rwa [state]) (by rwa [kickAt_drainCount]))

end

section
/-!
PROOFS. The offsets that no table assigns (18_register_map.md R715, R14): block by block such a register reads 0 and a
write changes nothing, and from this the read and the write of the offset on every path.
-/

namespace Sys2Proof.Machine

/-- An offset that is a multiple of 8 is outside a span when it lies below it or above it. -/
theorem inSpan_eq_false {o lo hi : Nat} (ha : o % 8 = 0) : inSpan o lo hi = false ↔ ¬ (lo ≤ o ∧ o ≤ hi) := by
  simp [inSpan, ha]

/-- The unassigned offsets of a compatibility set lie above its registers. -/
theorem compat_unassigned {k o : Nat} (ha : o % 8 = 0) (h : (Reg.compat k o).known = false) : 0xE0 ≤ o := by
  simp only [Reg.known, inSpan_eq_false ha] at h
  omega

/-! ### Reads of the blocks that hold arrays of registers

The spans of the table show that the offset is in none of the arrays; an arm that names one offset contradicts that the
table does not assign it. -/

section
variable (b : Block) {o : Nat} (ha : o % 8 = 0)
include ha

theorem readGlob_unassigned (h : (Reg.glob o).known = false) : readGlob b o = 0 := by
  have span := h
  simp only [Reg.known, Bool.or_eq_false_iff, inSpan_eq_false ha] at span
  unfold readGlob
  rw [if_neg (by omega)]
  split
  any_goals cases h
  rfl

theorem readSeq_unassigned {q : Nat} (h : (Reg.seq q o).known = false) : readSeq b q o = 0 := by
  have span := h
  simp only [Reg.known, Bool.or_eq_false_iff, inSpan_eq_false ha] at span
  unfold readSeq
  rw [if_neg (by omega), if_neg (by omega)]
  split
  any_goals cases h
  rfl

theorem readPress_unassigned (h : (Reg.press o).known = false) : readPress b o = 0 := by
  have span := h
  simp only [Reg.known, Bool.or_eq_false_iff, inSpan_eq_false ha] at span
  unfold readPress
  rw [if_neg (by omega)]
  split
  any_goals cases h
  rfl

/-- The fault record of a context leaves the last word of its stride unassigned. -/
theorem readXctx_unassigned {c : Nat} (h : (Reg.xctx c o).known = false) : readXctx b c o = 0 := by
  have span := h
  simp only [Reg.known, Bool.or_eq_false_iff, Bool.and_eq_false_iff, bne_eq_false_iff_eq, inSpan_eq_false ha] at span
  unfold readXctx
  split
  · have last : o % 0x20 = 0x18 := by omega
    rw [last]; rfl
  · split
    any_goals cases h
    rfl

theorem readChart_unassigned {n : Nat} (h : (Reg.chart n o).known = false) : readChart b n o = 0 := by
  have span := h
  simp only [Reg.known, Bool.or_eq_false_iff, inSpan_eq_false ha] at span
  unfold readChart
  rw [if_neg (by omega)]
  split
  any_goals cases h
  rfl

theorem readRst_unassigned (h : (Reg.rst o).known = false) : readRst b o = 0 := by
  have span := h
  simp only [Reg.known, Bool.or_eq_false_iff, inSpan_eq_false ha] at span
  unfold readRst
  rw [if_neg (by omega)]
  split
  any_goals cases h
  rfl

/-- A key slot leaves the last word of its stride unassigned. -/
theorem readSec_unassigned (h : (Reg.sec o).known = false) : readSec b o = 0 := by
  have span := h
  simp only [Reg.known, Bool.or_eq_false_iff, Bool.and_eq_false_iff, bne_eq_false_iff_eq, inSpan_eq_false ha] at span
  unfold readSec
  split
  · have last : o % 0x20 = 0x18 := by omega
    rw [last]; rfl
  · rw [if_neg (by omega), if_neg (by omega), if_neg (by omega), if_neg (by omega), if_neg (by omega)]
    split
    any_goals cases h
    rfl

end

/-! ### Reads -/

/-- An unassigned register reads 0. -/
theorem readPlain_unassigned (lees : List Host.Cell) (b : Block) {r : Reg} (ha : r.aligned) (h : r.known = false) :
    readPlain lees b r = 0 := by
  obtain ⟨ha, hw⟩ := ha
  cases r with
  | members | route | harb | tideEntry | list | tally | lees => cases h
  | none | sec => rfl
  | glob => exact readGlob_unassigned b ha h
  | seq => exact readSeq_unassigned b ha h
  | press => exact readPress_unassigned b ha h
  | xctx => exact readXctx_unassigned b ha h
  | chart => exact readChart_unassigned b ha h
  | rst => exact readRst_unassigned b ha h
  | watch w o =>
    have span : o = 0 ∨ o = 8 := by simp only [Reg.own, Reg.within] at ha hw; omega
    rcases span with rfl | rfl <;> cases h
  | compat k o =>
    have above : 0xE0 ≤ o := compat_unassigned ha h
    simp only [readPlain]
    rw [if_neg (by omega), if_neg (by omega)]
    split
    any_goals cases h
    rfl
  | ident | strait | ctx | rack | inst | ferry | xlat | inv | sched | queue | meter | thief | utilS | util | pwr =>
    simp only [readPlain, readIdent, readStrait, readCtx, readRack, readInst, readFerry, readXlat, readInv, readSched,
      readQueue, readMeter, readThief, readUtilS, readUtil, readPwr]
    split
    any_goals cases h
    rfl

/-- No VALUE register is unassigned, so a read of an unassigned register follows no SEL. -/
theorem readReg_unassigned (lees : List Host.Cell) (b : Block) {r : Reg} (ha : r.aligned) (h : r.known = false) :
    readReg lees b r = 0 := by
  have plain := readPlain_unassigned lees b ha h
  cases r with
  | compat k o =>
    have above : 0xE0 ≤ o := compat_unassigned ha.1 h
    exact (if_neg (by omega)).trans plain
  | _ => exact plain

theorem readPath_unassigned (p : Path) (lees : List Host.Cell) (b : Block) {r : Reg} (ha : r.aligned)
    (h : r.known = false) : readPath p lees b r = 0 := by
  unfold readPath
  split
  · exact readSec_unassigned b ha.1 h
  · exact readReg_unassigned lees b ha h

/-! ### Writes -/

/-- A write of an unassigned register changes nothing. -/
theorem writeReg_unassigned (p : Path) (lees : List Host.Cell) (v : Word) (b : Block) {r : Reg} (ha : r.aligned)
    (h : r.known = false) : (writeReg p lees r v b).2 = b := by
  obtain ⟨ha, -⟩ := ha
  cases r with
  | members | route | harb | tideEntry | list | tally | lees => cases h
  | none | ident | inst | xlat | utilS | util => rfl
  | rack | press | xctx | sched | queue | watch =>
    simp only [writeReg, okWrite]
    exact if_neg (by rintro rfl; cases h)
  | compat k o =>
    have above : 0xE0 ≤ o := compat_unassigned ha h
    simp only [writeReg, okWrite, writeCompat]
    rw [if_neg (by omega)]
    split
    any_goals cases h
    rfl
  | glob | strait | ctx | seq | ferry | inv | meter | chart | thief | pwr | rst | sec =>
    simp only [writeReg, okWrite, writeGlob, writeStrait, writeCtx, writeSeq, writeInv, writeChart, writeThief,
      writeRst, writeSec]
    split
    any_goals cases h
    rfl

/-- On every path a write of an unassigned offset is ignored, and is no start cause of the datapath clock. -/
theorem busWrite_unassigned (p : Path) {off : Nat} (v : Word) (lees : List Host.Cell) {b : Block}
    (hr : portsReady b = true) (ha : off % 8 = 0) (h : (Reg.ofOffset off).known = false) :
    busWrite p off true v lees b = b := by
  have wait : mustWait b off = false := by simp [mustWait, h]
  by_cases may : mayWrite b p off = true
  · rw [busWrite_now v lees ⟨hr, may, wait⟩ ha, writeReg_unassigned p lees v _ (ofOffset_aligned off ha) h]
    simp [kickAt, h]
  · simp [busWrite, hr, ha, may]

/-- An unassigned offset is not LATCH of a compatibility set. -/
theorem inLatch_unassigned {off : Nat} (h : (Reg.ofOffset off).known = false) : inLatch off = false := by
  unfold inLatch
  split
  next k o e =>
    rw [e] at h
    exact beq_false_of_ne (by rintro rfl; cases h)
  next => rfl

/-- An unassigned offset is not SEQ[s].CTRL. -/
theorem startsSeq_unassigned {off : Nat} (v : Word) (h : (Reg.ofOffset off).known = false) : startsSeq off v = false := by
  have ctrl : ¬ (0x50000 ≤ off ∧ off < 0x60000 ∧ off % 0x400 = 0x10) := by
    intro ⟨hlo, hhi, ho⟩
    have e := ofOffset_seq (q := (off - 0x50000) / 0x400) (o := 0x10) (by omega) (by omega)
    rw [show 0x50000 + 0x400 * ((off - 0x50000) / 0x400) + 0x10 = off by omega] at e
    rw [e] at h
    cases h
  simp [startsSeq, ctrl]

end Sys2Proof.Machine

open Sys2Proof Sys2Proof.Machine

/-- Settles O57: an unassigned offset is none that the command treats apart (LATCH, SEQ[s].CTRL), and its register reads 0
and takes no write. -/
theorem unassignedOffsetsReadZeroAndIgnoreWrites : Obligations.UnassignedOffsetsReadZeroAndIgnoreWrites := by
  intro s p off v ha h
  refine ⟨readPath_unassigned p s.lees s.blk (ofOffset_aligned _ ha) h, fun hr => ?_⟩
  have plain : Machine.exec (.registerWrite p off true v) s = s.act (busWrite p off.toNat true v s.lees) := by
    show execRegisterWrite p off true v s = _
    simp [execRegisterWrite, inLatch_unassigned h, startsSeq_unassigned v h]
  rw [plain]
  exact act_eq (busWrite_unassigned p v s.lees hr ha h)

end

section
/-!
PROOFS. The block as a whole: every command is one run of the block, from which the outcome of every command, the
invariant of the lees and what a quiet command leaves follow.
-/

namespace Sys2Proof.Machine

/-! ### Every command is one run of the block -/

/-- A register write is one run of the block, whatever the cycle it may lie in. -/
theorem execRegisterWrite_runs (p : Path) (off : BitVec 24) (size8 : Bool) (v : Word) (s : State) :
    ∃ f, execRegisterWrite p off size8 v s = .next (s.run f) := by
  unfold execRegisterWrite
  split
  · exact ⟨_, rfl⟩
  · split <;> exact ⟨_, rfl⟩

/-- No command faults or is refused: each is one run of the block (log 1). -/
theorem exec_runs (i : Instr) (s : State) : ∃ f, exec i s = .next (s.run f) := by
  cases i with
  | registerWrite p off size8 v => exact execRegisterWrite_runs p off size8 v s
  | _ => exact ⟨_, rfl⟩

/-- A step on any queue is one run of the block, on the queue's rest. -/
theorem step_runs (s : State) : ∃ f, step s = .next (State.run f { s with pending := s.pending.tail }) := by
  obtain ⟨pending, lees, blk⟩ := s
  cases pending with
  | nil => exact ⟨_, rfl⟩
  | cons c r => exact exec_runs c _

/-- The state after a command is known from what settles after its own effect. -/
theorem after_eq_run (s : State) (f : Block → Block) :
    s.after f = s.run fun _ => settle { s.blk with out := [] } (f s.start) := by
  unfold State.after State.run State.start
  rfl

/-- A quiet command without lees writes leaves the block as its own effect made it, but for the count of measured
changes, which goes up by 1 or not at all (R415). -/
theorem after_quiet_counts {s : State} {f : Block → Block} (needs : s.blk.pwr.waiting = []) (quiet : (f s.start).Quiet)
    (ops : (f s.start).evt.leesOps = []) :
    ∃ g, s.after f = { s with blk := { f s.start with keys := { (f s.start).keys with generation := g } } } ∧
      (g = (f s.start).keys.generation ∨ g = (f s.start).keys.generation + 1) := by
  have settled : settle { s.blk with out := [] } (f s.start) = countMeasured { s.blk with out := [] } (f s.start) :=
    settle_quiet quiet needs
  have ended : s.after f = s.run fun _ => countMeasured { s.blk with out := [] } (f s.start) := by
    rw [← settled]
    exact after_eq_run s f
  have done (g : BitVec 32)
      (h : countMeasured { s.blk with out := [] } (f s.start) =
        { f s.start with keys := { (f s.start).keys with generation := g } }) :
      s.after f = { s with blk := { f s.start with keys := { (f s.start).keys with generation := g } } } := by
    rw [ended]
    unfold State.run
    simp only [h, ops, List.foldl_nil]
    rw [← ops]
  rcases countMeasured_cases { s.blk with out := [] } (f s.start) with same | up
  · exact ⟨_, done _ same, .inl rfl⟩
  · exact ⟨_, done _ up, .inr rfl⟩

/-- A cycle of the clock adds nothing to the lees writes. -/
theorem tick_leesOps (b : Block) : (tick b).evt.leesOps = b.evt.leesOps := rfl

end Sys2Proof.Machine

open Sys2Proof Sys2Proof.Machine

/-- Settles O4: a step is one run of the block, and a run keeps the lees canonical. -/
theorem everyStepKeepsTheInvariant : Obligations.EveryStepKeepsTheInvariant := by
  intro s t ⟨canonical, _⟩ h
  obtain ⟨f, run⟩ := step_runs s
  rw [run] at h
  cases h
  exact State.run_wf f canonical

/-- Settles O3: a command is one run of the block, which leaves the queue and ends with no lees write pending. -/
theorem everyCommandAnswersANextState : Obligations.EveryCommandAnswersANextState := by
  intro i s canonical
  obtain ⟨f, run⟩ := exec_runs i s
  exact ⟨s.run f, run, rfl, State.run_wf f canonical⟩

/-- Settles O7, by what one byte set and one range cleared leave of the lees. -/
theorem leesBytesReadAsWritten : Obligations.LeesBytesReadAsWritten := by
  intro m a n v off len canonical
  exact ⟨fun inside => lget_lset a n v canonical inside, fun outside => if_neg (by omega), lget_lclear m off len n,
    lset_wf a v canonical, lclear_wf off len canonical⟩

/-- Settles O1: the two sides are the definition of a step on a queue that is not empty. -/
theorem stepRunsTheFrontCommand : Obligations.StepRunsTheFrontCommand :=
  fun _ _ _ => rfl

/-- Settles O2: a step on the empty queue is `tick` on a new cycle, which writes no byte of the lees. -/
theorem emptyQueueIsOneClockCycle : Obligations.EmptyQueueIsOneClockCycle := by
  intro s empty ⟨_, ops⟩
  have stopped : (tick s.start).pwr.dpStoppedNs =
      if s.blk.pwr.dp = .stopped then s.blk.pwr.dpStoppedNs + 10 else s.blk.pwr.dpStoppedNs := by
    by_cases h : s.blk.pwr.dp = .stopped <;> simp [tick, h]
  have lees : (tick s.start).evt.leesOps.foldl leesApply s.lees = s.lees := by
    rw [tick_leesOps, State.start_evt, ops]
    rfl
  refine ⟨s.run fun b => tick (newCycle b), ?_, empty, lees, rfl, rfl, stopped, rfl, rfl, rfl, rfl⟩
  simp only [step, empty, execTick]

/-- Settles O6. -/
theorem nothingElseFollowsAQuietCommand : Obligations.NothingElseFollowsAQuietCommand :=
  fun _ _ _ needs quiet ops => after_quiet_counts needs quiet ops

/-- Settles O5: the lees are empty at reset. -/
theorem resetMeetsTheInvariant : Obligations.ResetMeetsTheInvariant :=
  ⟨rfl, rfl⟩

end

section
/-!
PROOFS. A row that names a register write and the REGISTER_WRITE of its offset and value (18_register_map.md): outside
LATCH of a compatibility set and SEQ[s].CTRL a register write is the bus write in a cycle of its own.
-/

namespace Sys2Proof.Machine

/-- What holds of a register in both branches of an offset's choice holds of the register chosen. -/
theorem ite_reg_of {P : Reg → Prop} {c : Prop} [Decidable c] {x y : Reg} (yes : c → P x) (no : ¬ c → P y) :
    P (if c then x else y) := by
  split
  · exact yes ‹_›
  · exact no ‹_›

/-- The compatibility sets lie in one span of the window (Table 18.1). -/
theorem ofOffset_compat_span (off : Nat) :
    ∀ k o, Reg.ofOffset off = .compat k o → 0x90800 ≤ off ∧ off < 0x91000 := by
  unfold Reg.ofOffset
  repeat' refine ite_reg_of (P := fun r => ∀ k o, r = .compat k o → 0x90800 ≤ off ∧ off < 0x91000) (fun _ => ?_) (fun _ => ?_)
  all_goals intro k o chosen; cases chosen
  exact ⟨Nat.le_of_not_lt ‹_›, ‹_›⟩

/-- LATCH registers lie among the compatibility sets. -/
theorem inLatch_span {off : Nat} (h : inLatch off = true) : 0x90800 ≤ off ∧ off < 0x91000 := by
  unfold inLatch at h
  split at h
  · exact ofOffset_compat_span off _ _ ‹_›
  · cases h

/-- An offset of the window is read back from its 24 bits. -/
theorem toNat_offset {off : Nat} (bound : off < 2 ^ 24) : (BitVec.ofNat 24 off).toNat = off := by
  rw [BitVec.toNat_ofNat, Nat.mod_eq_of_lt bound]

section
variable {off : Nat} (p : Path) (v : Word) (s : State) (bound : off < 2 ^ 24)
include bound

/-- A register write that is neither a LATCH nor a START lies in a cycle of its own. -/
theorem registerWrite_act (latch : inLatch off = false) (start : startsSeq off v = false) :
    exec (.registerWrite p (BitVec.ofNat 24 off) true v) s = s.act (busWrite p off true v s.lees) := by
  show execRegisterWrite p (BitVec.ofNat 24 off) true v s = _
  simp [execRegisterWrite, toNat_offset bound, latch, start]

/-- A register write outside the compatibility sets and the sequencers. -/
theorem registerWrite_elsewhere (sets : off < 0x90800 ∨ 0x91000 ≤ off) (seqs : off < 0x50000 ∨ 0x60000 ≤ off) :
    exec (.registerWrite p (BitVec.ofNat 24 off) true v) s = s.act (busWrite p off true v s.lees) := by
  refine registerWrite_act p v s bound ?_ ?_
  · exact Bool.eq_false_iff.mpr fun h => by have := inLatch_span h; omega
  · have outside : ¬ (0x50000 ≤ off ∧ off < 0x60000 ∧ off % 0x400 = 0x10) := by omega
    simp [startsSeq, outside]

/-- A LATCH may lie in a boundary's cycle (R633; log 90). -/
theorem registerWrite_latch (latch : inLatch off = true) :
    exec (.registerWrite p (BitVec.ofNat 24 off) true v) s = s.actInCycle (busWrite p off true v s.lees) := by
  show execRegisterWrite p (BitVec.ofNat 24 off) true v s = _
  simp [execRegisterWrite, toNat_offset bound, latch]

/-- A START may lie in a STOP's cycle (R61; log 90). -/
theorem registerWrite_start (latch : inLatch off = false) (start : startsSeq off v = true) :
    exec (.registerWrite p (BitVec.ofNat 24 off) true v) s = s.actAfterStop (busWrite p off true v s.lees) := by
  show execRegisterWrite p (BitVec.ofNat 24 off) true v s = _
  simp [execRegisterWrite, toNat_offset bound, latch, start]

end

/-- SEQ[s].CTRL is no LATCH. -/
theorem inLatch_seqCtrl (q : SeqId) : inLatch (0x50010 + 0x400 * q.val) = false :=
  Bool.eq_false_iff.mpr fun h => by have := inLatch_span h; omega

/-- A write of SEQ[s].CTRL is a START by its bit 0 (R60). -/
theorem startsSeq_ctrl (q : SeqId) (v : Word) : startsSeq (0x50010 + 0x400 * q.val) v = bitAt v 0 := by
  have ctrl : 0x50000 ≤ 0x50010 + 0x400 * q.val ∧ 0x50010 + 0x400 * q.val < 0x60000 ∧
      (0x50010 + 0x400 * q.val) % 0x400 = 0x10 := by omega
  simp only [startsSeq, ctrl, and_self, decide_true, Bool.true_and]

/-- A write of SEQ[s].CTRL that is no START. -/
theorem registerWrite_seqCtrl (p : Path) (q : SeqId) (v : Word) (s : State) (start : bitAt v 0 = false) :
    exec (.registerWrite p (BitVec.ofNat 24 (0x50010 + 0x400 * q.val)) true v) s =
      s.act (busWrite p (0x50010 + 0x400 * q.val) true v s.lees) :=
  registerWrite_act p v s (by omega) (inLatch_seqCtrl q) ((startsSeq_ctrl q v).trans start)

/-- BIND of a compatibility set is no LATCH, and LATCH is one. -/
theorem inLatch_compat (k : Fin 8) : inLatch (0x90800 + 0x100 * k.val) = false ∧ inLatch (0x90808 + 0x100 * k.val) = true := by
  revert k
  decide

end Sys2Proof.Machine

open Sys2Proof Sys2Proof.Machine

/-- Settles O19: each row is by definition the bus write of its offset and value, as is the REGISTER_WRITE of them. -/
theorem namedWritesAreRegisterWrites : Obligations.NamedWritesAreRegisterWrites := by
  intro s p w
  have elsewhere {off : Nat} (v : Word) (bound : off < 2 ^ 24 := by omega)
      (sets : off < 0x90800 ∨ 0x91000 ≤ off := by omega) (seqs : off < 0x50000 ∨ 0x60000 ≤ off := by omega) :
      s.act (busWrite p off true v s.lees) = w off v := (registerWrite_elsewhere p v s bound sets seqs).symm
  refine ⟨fun q => ⟨?load, ?unload, ?stop, ?start⟩, fun n => ⟨elsewhere 1, elsewhere 0, fun t => elsewhere t⟩,
    fun c => ⟨elsewhere 1, elsewhere 2, elsewhere _, fun v part => elsewhere _, fun a seq => ⟨elsewhere _, elsewhere _, elsewhere _⟩⟩,
    fun b => ⟨elsewhere _, elsewhere _⟩, ?words, ?latch, elsewhere 1, elsewhere 2, elsewhere 3, fun part => elsewhere _,
    fun c => elsewhere _, elsewhere 1, elsewhere 1, fun r => ⟨elsewhere _, elsewhere _⟩, fun m => elsewhere _, fun k => elsewhere _⟩
  case load => exact (registerWrite_seqCtrl p q 8 s rfl).symm
  case unload => exact (registerWrite_seqCtrl p q 4 s rfl).symm
  case stop => exact (registerWrite_seqCtrl p q 2 s rfl).symm
  case start =>
    exact (registerWrite_start p 1 s (by omega) (inLatch_seqCtrl q) ((startsSeq_ctrl q 1).trans rfl)).symm
  case words =>
    intro v
    refine ⟨elsewhere v, elsewhere _, elsewhere _, elsewhere _, fun m => ⟨elsewhere v, elsewhere (off := 0x81008 + 0x40 * m.val) v, elsewhere (off := 0x81010 + 0x40 * m.val) v⟩, fun k => ?bind⟩
    case bind =>
      refine (registerWrite_act p v s (by omega) (inLatch_compat k).1 ?_).symm
      have outside : ¬ (0x90800 + 0x100 * k.val < 0x60000) := by omega
      simp [startsSeq, outside]
  case latch => exact fun k => (registerWrite_latch p 1 s (by omega) (inLatch_compat k).2).symm

end

section
/-!
PROOFS. The frame of the register words (03_dxi_reference.md): what a word of them can change, and from it what the
command leaves alone where nothing waits.
-/

namespace Sys2Proof.Machine

/-! ### What a register word can change -/

/-- What a register word does to its own sequencer: its registers, PC, and at the program's end its state and what a halt
clears (R745, R162). -/
def Seq.WordChange (s t : Seq) : Prop :=
  ∃ g m p l pc st a h x y,
    t = { s with g, sealed := m, p, l, pc, st, awake := a, permitHeld := h, permitLent := x, permitOwed := y } ∧
    ((st = s.st ∧ a = s.awake ∧ h = s.permitHeld ∧ x = s.permitLent ∧ y = s.permitOwed) ∨ st = .halted)

/-- What a register word of sequencer q does to the block. -/
def Block.WordChange (q : Nat) (b b' : Block) : Prop :=
  (∃ seqs pwr out util, b' = { b with seqs, pwr, out, util } ∧ pwr.SameNeeds b.pwr) ∧
  (∀ n, n ≠ q → b'.seq n = b.seq n) ∧ (b.seq q).WordChange (b'.seq q)

variable {q : Nat} {b : Block}

/-- A command without effect changes nothing. -/
theorem Block.WordChange.refl : b.WordChange q b :=
  ⟨⟨b.seqs, b.pwr, b.out, b.util, rfl, id, rfl⟩, fun _ _ => rfl, _, _, _, _, _, _, _, _, _, _, rfl, .inl ⟨rfl, rfl, rfl, rfl, rfl⟩⟩

/-- A block whose change of a sequencer is a word's, beside the power block, the port record and the word count. -/
theorem Block.WordChange.of_table {F : Seq → Seq} {seqs : Tbl Seq} {pwr : Power} {out : List PortOut} {util : Util}
    (table : seqs = tmod {} b.seqs q F) (needs : pwr.SameNeeds b.pwr) (own : (b.seq q).WordChange (F (b.seq q))) :
    b.WordChange q { b with seqs, pwr, out, util } := by
  subst table
  exact ⟨⟨_, pwr, out, util, rfl, needs⟩, fun n other => tget_tmod_other _ _ _ _ _ other,
    (congrArg (b.seq q).WordChange (tget_tmod_same ({} : Seq) b.seqs q F)).mpr own⟩

/-- The table of the sequencers after a change of one. -/
theorem modSeq_seqs (f : Seq → Seq) : (b.modSeq q f).seqs = tmod {} b.seqs q f := rfl

/-- Two changes of one sequencer are one. -/
theorem modSeq_modSeq_seqs (f g : Seq → Seq) :
    ((b.modSeq q f).modSeq q g).seqs = tmod {} b.seqs q fun x => g (f x) :=
  congrArg Block.seqs (Block.modSeq_modSeq b q f g)

/-- A word that is done, after a change of its registers. -/
theorem wordDone_wordChange (e n : Nat) (f : Seq → Seq)
    (regs : ∃ g m p l, f (b.seq q) = { b.seq q with g, sealed := m, p, l }) :
    b.WordChange q (wordDone q e n (b.modSeq q f)) := by
  obtain ⟨g, m, p, l, regs⟩ := regs
  obtain ⟨pc, l', st, a, h, x, y, w, o, eq, halts, needs⟩ := wordDone_eq q e n (b.modSeq q f)
  rw [eq]
  refine .of_table (modSeq_modSeq_seqs f _) needs ⟨g, m, p, l', pc, st, a, h, x, y, by rw [regs], ?_⟩
  simpa only [Block.modSeq_seq, regs] using halts

/-- A word that only advances. -/
theorem wordDone_only (e n : Nat) : b.WordChange q (wordDone q e n b) := by
  obtain ⟨pc, l, st, a, h, x, y, w, o, eq, halts, needs⟩ := wordDone_eq q e n b
  rw [eq]
  refine .of_table (modSeq_seqs _) needs ?_
  exact ⟨(b.seq q).g, (b.seq q).sealed, (b.seq q).p, l, pc, st, a, h, x, y, rfl, halts⟩

/-- A branch, taken. -/
theorem setPc_wordChange (target n : Nat) : b.WordChange q (setPc q target (countWords n b)) := by
  obtain ⟨pc, st, a, h, x, y, w, o, eq, halts, needs⟩ := setPc_eq q target (countWords n b)
  rw [eq]
  refine .of_table (modSeq_seqs _) needs ?_
  exact ⟨(b.seq q).g, (b.seq q).sealed, (b.seq q).p, (b.seq q).l, pc, st, a, h, x, y, rfl, halts⟩

/-- A branch, taken after a change of loop counters. -/
theorem setPc_loop_wordChange (target n : Nat) (f : Seq → Seq)
    (regs : ∃ m l, f (b.seq q) = { b.seq q with sealed := m, l }) :
    b.WordChange q (setPc q target ((countWords n b).modSeq q f)) := by
  obtain ⟨m, l, regs⟩ := regs
  obtain ⟨pc, st, a, h, x, y, w, o, eq, halts, needs⟩ := setPc_eq q target ((countWords n b).modSeq q f)
  rw [eq]
  have own : (countWords n b).seq q = b.seq q := rfl
  refine .of_table (modSeq_modSeq_seqs f _) needs
    ⟨(b.seq q).g, m, (b.seq q).p, l, pc, st, a, h, x, y, by rw [regs], ?_⟩
  simpa only [Block.modSeq_seq, own, regs] using halts

/-- A LOOP. -/
theorem wLoop_wordChange (at0 : Nat) (w : Quad) : b.WordChange q (wLoop q at0 w b) := by
  unfold wLoop
  simp only
  split
  · exact setPc_loop_wordChange _ 1 _ ⟨_, _, rfl⟩
  · exact setPc_wordChange _ 1

/-- The command of a word whose own effect is a register word's. -/
theorem dxi_wordChange {q : SeqId} (op : Nat) (f : Nat → Quad → Block → Block)
    (effect : ∀ w, b.WordChange q (f (b.seq q).pc.toNat w b)) : b.WordChange q (dxi op anySub f q b) := by
  rcases dxi_cases op anySub f q b with none | ⟨w, _, _, own | ⟨_, skipped⟩⟩
  · rw [none]; exact .refl
  · rw [own]; exact effect w
  · rw [skipped]; exact wordDone_only _ _

/-! ### Where nothing waits -/

/-- A register word leaves the block quiet. -/
theorem Block.WordChange.quiet {b' : Block} (h : b.WordChange q b') (quiet : b.Quiet) : b'.Quiet := by
  obtain ⟨⟨seqs, pwr, out, util, rfl, needs, alive⟩, -⟩ := h
  obtain ⟨left, exhausted, refused, insts, arrivals, permit, egress, waiting, lives⟩ := quiet
  exact ⟨left, exhausted, refused, insts, arrivals, permit, egress, needs waiting, alive.trans lives⟩

/-- NOP, SET, ALU, CMP, BR and LOOP are commands of register words. -/
theorem exec_registerWord {q : SeqId} {i : Instr} (s : State)
    (word : i ∈ [Instr.nop q, .set q, .alu q, .cmp q, .br q, .loop q]) :
    ∃ f, exec i s = .next (s.after f) ∧ s.start.WordChange q (f s.start) := by
  simp only [List.mem_cons, List.not_mem_nil, or_false] at word
  rcases word with rfl | rfl | rfl | rfl | rfl | rfl
  · exact ⟨coreNop q, rfl, dxi_wordChange _ _ fun w => wordDone_only _ _⟩
  · exact ⟨coreSet q, rfl, dxi_wordChange _ _ fun w => wordDone_wordChange _ _ _ ⟨_, _, _, _, rfl⟩⟩
  · exact ⟨coreAlu q, rfl, dxi_wordChange _ _ fun w => wordDone_wordChange _ _ _ ⟨_, _, _, _, rfl⟩⟩
  · exact ⟨coreCmp q, rfl, dxi_wordChange _ _ fun w => wordDone_wordChange _ _ _ ⟨_, _, _, _, rfl⟩⟩
  · exact ⟨coreBr q, rfl, dxi_wordChange _ _ fun w => setPc_wordChange _ 1⟩
  · exact ⟨coreLoop q, rfl, dxi_wordChange _ _ fun w => wLoop_wordChange _ w⟩

/-- A new cycle begins as quiet as the last one ended. -/
theorem State.start_quiet {s : State} (quiet : s.blk.Quiet) : s.start.Quiet := quiet

end Sys2Proof.Machine

open Sys2Proof Sys2Proof.Machine

/-- Settles O18: a register word changes its sequencer, the power block, the port record and the word count; nothing
follows it on a quiet block. -/
theorem registerWordsFrame : Obligations.RegisterWordsFrame := by
  intro s t q ⟨_, ops⟩ quiet i word run
  obtain ⟨f, ex, change⟩ := exec_registerWord s word
  have settled := change.quiet (State.start_quiet quiet)
  obtain ⟨⟨seqs, pwr, out, util, eff, -⟩, others, own⟩ := change
  have noOps : (f s.start).evt.leesOps = [] := by rw [eff]; exact ops
  obtain ⟨-, -, -, -, -, -, -, waiting, -⟩ := quiet
  obtain ⟨g, after⟩ := after_quiet waiting settled noOps
  rw [ex, after] at run
  cases run
  refine ⟨others, ?_, ?_, ?_, ?_, ?_, ?_, ?_, ?_, ?_, ?_, ?_, ?_, ?_, rfl, own⟩
  all_goals simp only [eff, State.start_ctxs, State.start_tally, State.start_racks, State.start_straits]
  all_goals rfl

end

section
/-!
PROOFS. The frames of the writes that only configure (18_register_map.md), and of a DUMP (R639, R644).
-/

namespace Sys2Proof.Machine

/-! ### A quiet command that touches no key and no byte of the lees -/

/-- A command that leaves the block quiet and writes no byte of the lees leaves what it made of the block, but for the
count of measured changes (R415). -/
theorem act_quiet {s t : State} {f : Block → Block} {b' : Block} (before : s.blk.Quiet) (effect : f s.start = b')
    (settled : b'.Quiet) (ops : b'.evt.leesOps = []) (run : s.act f = .next t) :
    t.lees = s.lees ∧ ∃ g, t.blk = { b' with keys := { b'.keys with generation := g } } := by
  obtain ⟨-, -, -, -, -, -, -, waiting, -⟩ := before
  subst effect
  obtain ⟨g, after⟩ := after_quiet waiting settled ops
  have next : s.act f = .next (s.after f) := rfl
  rw [next, after] at run
  cases run
  exact ⟨rfl, g, rfl⟩

/-- A register write that need not wait is dropped, counted, or the write of its register. -/
theorem busWrite_unheld (p : Path) {off : Nat} (v : Word) (lees : List Host.Cell) {b : Block}
    (waits : mustWait b off = false) :
    busWrite p off true v lees b = b ∨ busWrite p off true v lees b = countIgnored b ∨
    busWrite p off true v lees b = (writeReg p lees (Reg.ofOffset off) v (kickAt off b)).2 := by
  rcases busWrite_cases p off true v lees b with same | ignored | ⟨held, -⟩ | ⟨-, now⟩
  · exact .inl same
  · exact .inr (.inl ignored)
  · rw [waits] at held; cases held
  · exact .inr (.inr now)

/-- Nothing waits for a clock that runs. -/
theorem mustWait_running {b : Block} (runs : b.dpRuns = true) (off : Nat) : mustWait b off = false := by
  simp [mustWait, runs]

/-- Nothing waits for the clock before the write of a register outside its domain. -/
theorem mustWait_plain {b : Block} {off : Nat} (plain : (Reg.ofOffset off).dp = false) : mustWait b off = false := by
  simp [mustWait, plain]

/-- A write marks its cycle at most. -/
theorem kickAt_eq (off : Nat) (b : Block) : ∃ w, kickAt off b = { b with kicked := w } := by
  unfold kickAt
  split
  · exact ⟨true, rfl⟩
  · exact ⟨b.kicked, rfl⟩

/-! ### What each configuration write makes of the block -/

/-- The offset of METER[m].RATE or SIZE. -/
def meterSettingOffset (m : MeterId) (size : Bool) : Nat := (if size then 0x81010 else 0x81008) + 0x40 * m.val

/-- METER[m].RATE and SIZE are registers of meter m, written by `writeMeterSetting`. -/
theorem writeReg_meterSetting (p : Path) (lees : List Host.Cell) (m : MeterId) (size : Bool) (v : Word) (b : Block) :
    (writeReg p lees (Reg.ofOffset (meterSettingOffset m size)) v b).2 = writeMeterSetting m.val size v b := by
  cases size
  · have register : Reg.ofOffset (meterSettingOffset m false) = .meter m.val 8 := by
      rw [← ofOffset_meter m.isLt (o := 8) (by omega)]
      congr 1
      simp only [meterSettingOffset, Bool.false_eq_true, if_false]
      omega
    rw [register]
    rfl
  · have register : Reg.ofOffset (meterSettingOffset m true) = .meter m.val 0x10 := by
      rw [← ofOffset_meter m.isLt (o := 0x10) (by omega)]
      congr 1
      simp only [meterSettingOffset, if_true]
      omega
    rw [register]
    rfl

/-- METER[m].RATE and SIZE change meter m. -/
theorem busWrite_meterSetting (p : Path) (m : MeterId) (size : Bool) (v : Word) (lees : List Host.Cell) {b : Block}
    (runs : b.dpRuns = true) : ∃ x n w, busWrite p (meterSettingOffset m size) true v lees b =
      { b with kicked := w, meters := x, evt := { b.evt with ctlIgnored := n } } ∧
      ∀ k, k ≠ m.val → tget {} x k = b.meter k := by
  rcases busWrite_unheld p v lees (mustWait_running runs _) with dropped | counted | written
  · exact ⟨b.meters, b.evt.ctlIgnored, b.kicked, dropped, fun _ _ => rfl⟩
  · exact ⟨b.meters, b.evt.ctlIgnored + 1, b.kicked, counted, fun _ _ => rfl⟩
  · obtain ⟨w, kicked⟩ := kickAt_eq (meterSettingOffset m size) b
    rw [writeReg_meterSetting, kicked] at written
    exact ⟨_, b.evt.ctlIgnored, w, written, fun k other => tget_tmod_other _ _ _ _ _ other⟩

/-- An entry write changes its bank, or ROUTE.STATUS. -/
theorem entryWrite_eq (k : Nat) (f : Bank → Bank) (b : Block) : ∃ banks st,
    (entryWrite k f b).2 = { b with route := { b.route with banks, status := st } } ∧
    ∀ n, n ≠ k → tget {} banks n = b.bank n := by
  have own (g : Bank → Bank) (n : Nat) (other : n ≠ k) : tget {} (tmod {} b.route.banks k g) n = b.bank n :=
    tget_tmod_other _ _ _ _ _ other
  unfold entryWrite
  split
  · exact ⟨_, b.route.status, rfl, own _⟩
  · exact ⟨b.route.banks, _, rfl, fun _ _ => rfl⟩
  all_goals
    split
    · exact ⟨b.route.banks, _, rfl, fun _ _ => rfl⟩
    · exact ⟨_, b.route.status, rfl, own _⟩

/-- A write of a register of bank k changes that bank, or ROUTE.STATUS. -/
theorem busWrite_bank (p : Path) (k : BankId) (a : BankTarget) (v : Word) (lees : List Host.Cell) {b : Block}
    (runs : b.dpRuns = true) : ∃ banks st n w, busWrite p (bankOffset k a) true v lees b =
      { b with kicked := w, route := { b.route with banks, status := st }, evt := { b.evt with ctlIgnored := n } } ∧
      ∀ i, i ≠ k.val → tget {} banks i = b.bank i := by
  rcases busWrite_unheld p v lees (mustWait_running runs _) with dropped | counted | written
  · exact ⟨b.route.banks, b.route.status, b.evt.ctlIgnored, b.kicked, dropped, fun _ _ => rfl⟩
  · exact ⟨b.route.banks, b.route.status, b.evt.ctlIgnored + 1, b.kicked, counted, fun _ _ => rfl⟩
  · obtain ⟨w, kicked⟩ := kickAt_eq (bankOffset k a) b
    rw [writeReg_bankOffset, kicked] at written
    obtain ⟨banks, st, eq, other⟩ := entryWrite_eq k (putTarget a v) { b with kicked := w }
    exact ⟨banks, st, b.evt.ctlIgnored, w, written.trans eq, other⟩

/-- EVT.CTRL changes the event ring's settings. -/
theorem busWrite_evtCtrl (p : Path) (v : Word) (lees : List Host.Cell) (b : Block) : ∃ e,
    busWrite p 0x1020 true v lees b = { b with evt := e } ∧ e.leesOps = b.evt.leesOps := by
  have register : Reg.ofOffset 0x1020 = .glob 0x20 := ofOffset_glob (o := 0x20) (by omega)
  have plain : (Reg.ofOffset 0x1020).dp = false := by rw [register]; rfl
  rcases busWrite_unheld p v lees (mustWait_plain plain (b := b)) with dropped | counted | written
  · exact ⟨b.evt, dropped, rfl⟩
  · exact ⟨_, counted, rfl⟩
  · rw [kickAt_plain plain, register] at written
    change _ = writeEvtCtrl v b at written
    unfold writeEvtCtrl at written
    simp only at written
    split at written
    · exact ⟨b.evt, written, rfl⟩
    · exact ⟨_, written, rfl⟩

/-! ### What a dump writes -/

/-- A change of the block that adds writes to the lees between two addresses, and nothing else. -/
def Block.PutsIn (lo hi : Nat) (b b' : Block) : Prop :=
  ∃ ops, b' = { b with evt := { b.evt with leesOps := b.evt.leesOps ++ ops } } ∧
    ∀ o ∈ ops, ∀ a, ¬ (lo ≤ a ∧ a < hi) → o.misses a

section
variable {lo hi : Nat} {b b' b'' : Block}

theorem Block.PutsIn.refl : b.PutsIn lo hi b :=
  ⟨[], by rw [List.append_nil], fun _ none => absurd none List.not_mem_nil⟩

theorem Block.PutsIn.trans (h : b.PutsIn lo hi b') (h' : b'.PutsIn lo hi b'') : b.PutsIn lo hi b'' := by
  obtain ⟨ops, rfl, within⟩ := h
  obtain ⟨ops', rfl, within'⟩ := h'
  refine ⟨ops ++ ops', by simp only [List.append_assoc], fun o op => ?_⟩
  rcases List.mem_append.mp op with op | op
  · exact within o op
  · exact within' o op

/-- One write more. -/
theorem Block.PutsIn.op {o : LeesOp} (h : b.PutsIn lo hi b') (within : ∀ a, ¬ (lo ≤ a ∧ a < hi) → o.misses a) :
    b.PutsIn lo hi (leesOp o b') :=
  h.trans ⟨[o], rfl, fun x only => by rw [List.mem_singleton.mp only]; exact within⟩

/-- Steps of a list, one after another. -/
theorem Block.PutsIn.each {α : Type} {l : List α} {f : α → Block → Block} (h : b.PutsIn lo hi b')
    (one : ∀ x ∈ l, ∀ c : Block, b.PutsIn lo hi c → b.PutsIn lo hi (f x c)) : b.PutsIn lo hi (b'.each l f) := by
  induction l generalizing b' with
  | nil => exact h
  | cons x r ih => exact ih (one x List.mem_cons_self b' h) fun y tail => one y (List.mem_cons_of_mem x tail)

/-- Words at offsets that lie between the two addresses. -/
theorem Block.PutsIn.put {base : Nat} {ws : List (Nat × Word)} (h : b.PutsIn lo hi b')
    (within : ∀ w ∈ ws, lo ≤ base + w.1 ∧ base + w.1 + 8 ≤ hi) : b.PutsIn lo hi (leesPut base ws b') := by
  refine h.each fun w listed c hc => hc.op fun a outside => ?_
  obtain ⟨above, below⟩ := within w (List.mem_filter.mp listed).1
  simp only [LeesOp.misses, List.length_singleton]
  omega

/-- Writes to the lees leave the tables that a dump lists. -/
theorem Block.PutsIn.tables (h : b.PutsIn lo hi b') :
    b'.racks = b.racks ∧ b'.press = b.press ∧ b'.egress = b.egress := by
  obtain ⟨ops, rfl, -⟩ := h
  exact ⟨rfl, rfl, rfl⟩

end

/-! ### The places of a context dump (Table 16.5) -/

/-- Words at every eighth byte. -/
theorem mem_zip_range {α : Type} {l : List α} {x : Nat × α} (h : x ∈ (List.range l.length).zip l) : x.1 < l.length :=
  List.mem_range.mp (List.of_mem_zip h).1

theorem ctxWords_places {b : Block} {c : Nat} : ∀ w ∈ ctxWords b c, w.1 + 8 ≤ 0x200 := by
  intro w listed
  simp only [ctxWords, List.mem_append, List.mem_map, List.mem_range] at listed
  rcases listed with ⟨i, bound, rfl⟩ | ⟨i, bound, rfl⟩ <;> simp only <;> omega

theorem ctxTallies_places {b : Block} {c : Nat} : ∀ w ∈ ctxTallies b c, w.1 + 8 ≤ 0x8000 := by
  intro w listed
  simp only [ctxTallies, List.mem_map] at listed
  obtain ⟨t, -, rfl⟩ := listed
  simp only
  omega

theorem seqWords_places {b : Block} {q : Nat} : ∀ w ∈ seqWords b q, w.1 + 8 ≤ 0x100 := by
  intro w listed
  simp only [seqWords, List.mem_map] at listed
  obtain ⟨x, zipped, rfl⟩ := listed
  have bound := mem_zip_range zipped
  simp only [List.length_append, List.length_map, List.length_range, List.length_cons, List.length_nil] at bound
  simp only
  omega

/-- An engine of at most eight queued transfers stays in its 256 bytes. -/
theorem rackWords_places {b : Block} {e : Nat} (queue : (b.rack e).queue.length ≤ 8) :
    ∀ w ∈ rackWords b e, w.1 + 8 ≤ 0x100 := by
  intro w listed
  simp only [rackWords, List.mem_append, List.mem_map, List.mem_range] at listed
  rcases listed with ⟨i, bound, rfl⟩ | ⟨x, zipped, rfl⟩
  · simp only
    omega
  · have bound := mem_zip_range zipped
    simp only [List.length_flatMap, List.length_cons, List.length_nil, List.map_const', List.sum_replicate, smul_eq_mul] at bound
    simp only
    omega

/-- Sequencers are 64. -/
theorem ownSeqs_lt {b : Block} {c q : Nat} (own : q ∈ ownSeqs b c) : q < 64 :=
  List.mem_range.mp (List.mem_filter.mp own).1

/-- Engines are 16. -/
theorem ownEngines_lt {b : Block} {c e : Nat} (own : e ∈ ownEngines b c) : e < 16 :=
  List.mem_range.mp (List.mem_filter.mp own).1

/-- The least of a list is of the list. -/
theorem leastBy_mem {f : Nat → Nat} {l : List Nat} : ∀ {n}, leastBy f l = some n → n ∈ l := by
  induction l with
  | nil => exact fun none => nomatch none
  | cons x r ih =>
    intro n least
    unfold leastBy at least
    split at least
    · cases least
      exact List.mem_cons_self
    · rename_i m rest
      split at least <;> cases least
      · exact List.mem_cons_of_mem x (ih rest)
      · exact List.mem_cons_self

/-- Dump slots are 11 (R644). -/
theorem dumpSlot_lt (b : Block) : (dumpSlot b).1 < 11 := by
  unfold dumpSlot
  split
  · exact List.mem_range.mp (List.mem_of_find?_eq_some ‹_›)
  · cases h : leastBy (fun k => tget 0 b.evt.slotSeq k) (List.range 11) with
    | none => simp
    | some k => exact List.mem_range.mp (leastBy_mem h)

/-! ### A context dump (R639, R644) -/

/-- The record of a dump's slot. -/
def recordDump (b : Block) : Block :=
  { b with evt := { b.evt with
    slots := setBit b.evt.slots (dumpSlot b).1
    slotSeq := tset b.evt.slotSeq (dumpSlot b).1 (b.evt.dumpSeq + 1)
    dumpSeq := b.evt.dumpSeq + 1
    overwritten := if (dumpSlot b).2 then b.evt.overwritten + 1 else b.evt.overwritten } }

/-- The instances of a context that a dump lists. -/
def dumpedInsts (b : Block) (c : Nat) : List Nat :=
  (b.press.insts.filter fun x => x.2.st != .free && x.2.ctx == c).map fun x => x.1

/-- What a dump writes into its slot, a part after another. -/
def dumpParts (base c : Nat) (b : Block) : Block :=
  let b := leesPut base (ctxWords b c) (leesOp (.clear base 0x10000) b)
  let b := leesPut (base + 0x1000) (ctxTallies b c) b
  let b := b.each (ownSeqs b c) fun q b => leesPut (base + 0x9000 + 256 * q) (seqWords b q) b
  let b := b.each (ownEngines b c) fun e b => leesPut (base + 0xD000 + 256 * e) (rackWords b e) b
  let b := b.each (dumpedInsts b c) fun i b => leesPut (base + 0xE000 + 16 * i) [(0, readInst b i 0), (8, readInst b i 8)] b
  b.each (b.egress.map fun x => x.1) fun n b =>
    leesPut (base + 0xF000 + 64 * n) ((List.range 8).map fun j => (8 * j, depthWord b n (8 * c + j))) b

/-- The directory entry of a dump. -/
def dumpEntry (k n c : Nat) (b : Block) : Block :=
  leesOp (.words (0x100 + 32 * k)
    [word [(0, 1), (8, c), (16, (b.ctx c).frzCause.toNat)], b.time.net, w64 n, 0]) b

/-- A dump records its slot, writes the slot and writes its directory entry. -/
theorem dumpCtx_eq (c : Nat) (b : Block) : dumpCtx c b =
    dumpEntry (dumpSlot b).1 (b.evt.dumpSeq + 1) c (dumpParts (0x150000 + (dumpSlot b).1 * 0x10000) c (recordDump b)) := rfl

section
variable {base c : Nat} {b b' : Block} (h : b.PutsIn base (base + 0x10000) b')
include h

theorem Block.PutsIn.context : b.PutsIn base (base + 0x10000) (leesPut base (ctxWords b' c) b') :=
  h.put fun w listed => by
    have := ctxWords_places w listed
    omega

theorem Block.PutsIn.tallies : b.PutsIn base (base + 0x10000) (leesPut (base + 0x1000) (ctxTallies b' c) b') :=
  h.put fun w listed => by
    have := ctxTallies_places w listed
    omega

theorem Block.PutsIn.seqs : b.PutsIn base (base + 0x10000)
    (b'.each (ownSeqs b' c) fun q b => leesPut (base + 0x9000 + 256 * q) (seqWords b q) b) :=
  h.each fun q own d hd => hd.put fun w listed => by
    have := ownSeqs_lt own
    have := seqWords_places w listed
    omega

theorem Block.PutsIn.engines (queues : ∀ e < 16, (b.rack e).queue.length ≤ 8) : b.PutsIn base (base + 0x10000)
    (b'.each (ownEngines b' c) fun e b => leesPut (base + 0xD000 + 256 * e) (rackWords b e) b) :=
  h.each fun e own d hd => hd.put fun w listed => by
    have bound := ownEngines_lt own
    have queue : (d.rack e).queue.length ≤ 8 := by
      rw [Block.rack, hd.tables.1]
      exact queues e bound
    have := rackWords_places queue w listed
    omega

theorem Block.PutsIn.insts (none : b.press.insts = []) : b.PutsIn base (base + 0x10000)
    (b'.each (dumpedInsts b' c) fun i b => leesPut (base + 0xE000 + 16 * i) [(0, readInst b i 0), (8, readInst b i 8)] b) := by
  have unlisted : dumpedInsts b' c = [] := by
    simp only [dumpedInsts, h.tables.2.1, none, List.filter_nil, List.map_nil]
  rw [unlisted]
  exact h

theorem Block.PutsIn.straits (bonded : ∀ x ∈ b.egress, x.1 < 32) : b.PutsIn base (base + 0x10000)
    (b'.each (b'.egress.map fun x => x.1) fun n b =>
      leesPut (base + 0xF000 + 64 * n) ((List.range 8).map fun j => (8 * j, depthWord b n (8 * c + j))) b) :=
  h.each fun n own d hd => hd.put fun w listed => by
    obtain ⟨x, entry, rfl⟩ := List.mem_map.mp own
    rw [h.tables.2.2] at entry
    have bound := bonded x entry
    obtain ⟨j, place, rfl⟩ := List.mem_map.mp listed
    have := List.mem_range.mp place
    simp only
    omega

end

/-- The parts of a dump stay in its 64 KiB, for tables without an entry outside their instances. -/
theorem dumpParts_putsIn {base c : Nat} {b : Block} (insts : b.press.insts = []) (straits : ∀ x ∈ b.egress, x.1 < 32)
    (queues : ∀ e < 16, (b.rack e).queue.length ≤ 8) : b.PutsIn base (base + 0x10000) (dumpParts base c b) := by
  have cleared : b.PutsIn base (base + 0x10000) (leesOp (.clear base 0x10000) b) :=
    Block.PutsIn.refl.op fun a outside => by simp only [LeesOp.misses]; omega
  exact ((((cleared.context.tallies.seqs).engines queues).insts insts).straits straits)

/-- A dump records its slot, and writes the slot and its directory entry. -/
theorem dumpCtx_frame {c : Nat} {b : Block} (insts : b.press.insts = []) (straits : ∀ x ∈ b.egress, x.1 < 32)
    (queues : ∀ e < 16, (b.rack e).queue.length ≤ 8) : ∃ e, dumpCtx c b = { b with evt := e } ∧
    ∃ ops, e.leesOps = b.evt.leesOps ++ ops ∧ ∀ a,
      ¬ (0x150000 + 0x10000 * (dumpSlot b).1 ≤ a ∧ a < 0x150000 + 0x10000 * ((dumpSlot b).1 + 1)) →
      ¬ (0x100 + 32 * (dumpSlot b).1 ≤ a ∧ a < 0x120 + 32 * (dumpSlot b).1) → ∀ o ∈ ops, o.misses a := by
  obtain ⟨ops, parts, within⟩ :=
    dumpParts_putsIn (base := 0x150000 + (dumpSlot b).1 * 0x10000) (c := c) (b := recordDump b) insts straits queues
  rw [dumpCtx_eq, parts]
  refine ⟨_, rfl, _, List.append_assoc .., fun a slot entry o op => ?_⟩
  rcases List.mem_append.mp op with own | directory
  · exact within o own a (by omega)
  · rw [List.mem_singleton.mp directory]
    simp only [LeesOp.misses, List.length_cons, List.length_nil]
    omega

/-- LEES.DUMP with a context's bit pattern dumps that context. -/
theorem dumpWord_fields : ∀ c : Ctx, bits (BitVec.ofNat 64 (16 + c.val)) 3 0 = c.val ∧
    bitAt (BitVec.ofNat 64 (16 + c.val)) 4 = true := by decide

/-- A DUMP taken at once. -/
theorem exec_leesDump {s : State} {p : Path} {c : Ctx} (writable : s.blk.Writable p 0xB0310) :
    exec (.leesDump p c) s = .next (s.after (coreLeesDump c)) := by
  obtain ⟨context, dump⟩ := dumpWord_fields c
  refine regWrite_plain _ _ writable rfl (ofOffset_rst (o := 0x310) (by omega)) rfl ?_
  show (if bitAt _ 4 then coreLeesDump (bits _ 3 0) s.start else s.start) = _
  rw [context, if_pos dump]

end Sys2Proof.Machine

open Sys2Proof Sys2Proof.Machine

/-- Settles O59: the write is dropped, counted or changes its own part, and nothing follows it on a quiet block. -/
theorem configurationWritesFrame : Obligations.ConfigurationWritesFrame := by
  intro s t p v ⟨_, ops⟩ quiet
  refine ⟨fun m size run runs => ?meter, fun k a run runs => ?bank, fun run => ?ring, fun run => ?page⟩
  case meter =>
    obtain ⟨x, n, w, effect, others⟩ := busWrite_meterSetting p m size v s.lees (b := s.start) runs
    obtain ⟨lees, g, blk⟩ := act_quiet quiet effect quiet ops run
    exact ⟨x, _, g, w, lees, blk, fun k other => (congrArg (Block.meter · k) blk).trans (others k other)⟩
  case bank =>
    obtain ⟨banks, st, n, w, effect, others⟩ := busWrite_bank p k a v s.lees (b := s.start) runs
    obtain ⟨lees, g, blk⟩ := act_quiet quiet effect quiet ops run
    exact ⟨_, _, g, w, lees, blk, (congrArg (Block.bank · (1 - k.val)) blk).trans (others _ (by omega))⟩
  case ring =>
    obtain ⟨e, effect, same⟩ := busWrite_evtCtrl p (v ||| 1) s.lees s.start
    obtain ⟨lees, g, blk⟩ := act_quiet quiet effect quiet (same.trans ops) run
    exact ⟨e, g, lees, blk⟩
  case page =>
    obtain ⟨lees, g, blk⟩ := act_quiet (f := corePageHeld) quiet rfl quiet ops run
    exact ⟨_, g, lees, blk⟩


/-- Settles O60: a DUMP's own effect is in the event unit, its lees writes miss every byte outside the slot and the
directory entry, and nothing follows them on a quiet block. -/
theorem dumpsStayInTheirSlot : Obligations.DumpsStayInTheirSlot := by
  intro s t p c ⟨canonical, ops⟩ quiet writable run
  obtain ⟨-, -, -, insts, -, -, -, waiting, -⟩ := id quiet
  rw [exec_leesDump writable] at run
  refine ⟨fun ignored => ?ignored, fun frozen straits queues => ?frozen⟩
  case ignored =>
    exact act_quiet (f := coreLeesDump c) quiet (if_neg ignored) quiet ops run
  case frozen =>
    obtain ⟨e, effect, _, added, misses⟩ := dumpCtx_frame (c := c) (b := s.start) insts straits queues
    have dumped : coreLeesDump c s.start = { s.start with evt := e } := (if_pos frozen).trans effect
    have settled : (coreLeesDump c s.start).Quiet := by rw [dumped]; exact quiet
    cases run
    refine ⟨?block, fun a slot entry => ?byte⟩
    case block =>
      obtain ⟨g, blk⟩ := after_blk waiting settled
      rw [dumped] at blk
      exact ⟨_, g, blk⟩
    case byte =>
      rw [after_lees waiting settled, dumped]
      refine lget_leesOps _ (fun o op => misses a slot entry o ?_) canonical
      rw [added] at op
      simpa [ops] using op

end

section
/-!
PROOFS. The register words (03_dxi_reference.md): what a word at the PC that can issue does, the operations of ALU and
CMP on numbers, and where PC goes.
-/

namespace Sys2Proof.Machine

/-! ### A word at the PC -/

section
variable {s : State} {q : SeqId} {w : Quad} {op : Nat} {sub : Nat → Bool} {f : Nat → Quad → Block → Block}
  {g : Block → Block}

/-- The command of a word that issues has the word's own effect. -/
theorem act_issues (issues : s.blk.Issues q op w) (operation : sub (bits w 115 112) = true)
    (effect : f (s.blk.seq q).pc.toNat w s.start = g s.start) : s.act (dxi op sub f q) = .next (s.after g) := by
  obtain ⟨at0, opcode, test⟩ := issues
  exact act_eq ((dxi_issues (b := s.start) at0 opcode operation (.inl test)).trans effect)

/-- The command of a LOOP or KEYSEL has its own effect whatever the predicate test. -/
theorem act_tests (at0 : s.blk.AtWord q w) (opcode : wOpcode w = op) (own : op = 0x05 ∨ op = 0x33)
    (operation : sub (bits w 115 112) = true) (effect : f (s.blk.seq q).pc.toNat w s.start = g s.start) :
    s.act (dxi op sub f q) = .next (s.after g) :=
  act_eq ((dxi_issues (b := s.start) at0 opcode operation (.inr own)).trans effect)

end

/-! ### The operations of ALU and CMP (Table 3.7) -/

/-- An arithmetic shift right is a division that rounds down. -/
theorem aluOp_sra (a c : Word) : (aluOp 8 a c).toInt = a.toInt / 2 ^ (c.toNat % 64) := by
  simp [aluOp, Int.shiftRight_eq_div_pow]

/-- A predicate written reads as written, and the others as before. -/
theorem putPred_getLsbD (p : BitVec 4) (i j : Nat) (v : Bool) (hi : i < 4) (hj : j < 4) :
    (putPred p i v).getLsbD j = if j = i then v else p.getLsbD j := by
  revert p v
  interval_cases i <;> interval_cases j <;> decide

/-! ### The program counter (R120 to R126) -/

/-- A LOOP whose test holds sets its counter (R121, R122). -/
theorem wLoop_holds {q at0 : Nat} {w : Quad} {b : Block} (test : testHolds (b.seq q) w = true) :
    wLoop q at0 w b =
      let count : BitVec 32 :=
        if bits w 115 112 = 0 then BitVec.ofNat 32 (bits w 31 0) else (tget 0 (b.seq q).g (bits w 111 108)).setWidth 32
      setPc q (if count = 0 then bits w 42 32 + 1 else at0 + 1) ((countWords 1 b).modSeq q fun x =>
        let d := loopDepth (loopsOf (b.seq q).words) at0
        { x with
          l := tset x.l d count
          sealed := sealRegs (bits w 115 112 != 0 && (b.seq q).sealed.contains (bits w 111 108)) [16 + d] x.sealed }) := by
  unfold wLoop
  simp only [test, if_true]
  rfl

/-- A LOOP whose test fails goes past its end word (R126). -/
theorem wLoop_fails {q at0 : Nat} {w : Quad} {b : Block} (test : testHolds (b.seq q) w = false) :
    wLoop q at0 w b = setPc q (bits w 42 32 + 1) (countWords 1 b) := by
  unfold wLoop
  simp only [test, Bool.false_eq_true, if_false]

/-- PC set to a word that is not WORDS. -/
theorem setPc_inside {q n : Nat} {b : Block} (inside : n ≠ (b.seq q).words.length) :
    (setPc q n b).seq q = { b.seq q with pc := BitVec.ofNat 11 n } := by
  rw [setPc, if_neg inside, Block.modSeq_seq]

/-- A sequencer that gives up its holding and its hint (R114, R161). -/
theorem dropHolding_seq (q : Nat) (b : Block) : ∃ x y, (dropHolding q b).seq q =
    { b.seq q with awake := none, permitHeld := 0, permitLent := x, permitOwed := y } := by
  obtain ⟨x, y, p, o, dropped, -⟩ := dropHolding_eq q b
  refine ⟨x, y, ?_⟩
  rw [dropped]
  exact Block.modSeq_seq b q fun s => { s with awake := none, permitHeld := 0, permitLent := x, permitOwed := y }

/-- PC at WORDS halts the sequencer (R745). -/
theorem setPc_end {q n : Nat} {b : Block} (atEnd : n = (b.seq q).words.length) :
    ((setPc q n b).seq q).st = .halted ∧ ((setPc q n b).seq q).pc = 0 ∧ ((setPc q n b).seq q).permitHeld = 0 ∧
    ((setPc q n b).seq q).awake = none := by
  obtain ⟨x, y, own⟩ := dropHolding_seq q (b.modSeq q fun s => { s with pc := 0, st := .halted })
  rw [setPc, if_pos atEnd, own, Block.modSeq_seq]
  exact ⟨rfl, rfl, rfl, rfl⟩

/-- The sequencer after the loops that end at a word are evaluated. -/
theorem advanceFrom_seq {q e n : Nat} {l : Tbl (BitVec 32)} {b : Block}
    (back : loopBack e (loopsEnding (b.seq q).words e) (b.seq q).l = (n, l)) :
    advanceFrom q e b = setPc q n (b.modSeq q fun s => { s with l }) := by
  unfold advanceFrom
  simp only [back]

/-- The next word inside the program, after the loops that end at a word. -/
theorem advanceFrom_inside {q e n : Nat} {l : Tbl (BitVec 32)} {b : Block}
    (back : loopBack e (loopsEnding (b.seq q).words e) (b.seq q).l = (n, l)) (inside : n ≠ (b.seq q).words.length) :
    (advanceFrom q e b).seq q = { b.seq q with pc := BitVec.ofNat 11 n, l } := by
  rw [advanceFrom_seq back, setPc_inside (by rwa [Block.modSeq_seq]), Block.modSeq_seq]

end Sys2Proof.Machine

open Sys2Proof Sys2Proof.Machine

/-- Settles O8: each word has its own effect, and the operations are those of BitVec. -/
theorem registerWordsComplete : Obligations.RegisterWordsComplete := by
  refine ⟨fun s q w => ⟨fun h => act_issues h rfl rfl, fun h => act_issues h rfl rfl, fun h => act_issues h rfl rfl,
    fun h => act_issues h rfl rfl⟩, fun a c => ⟨?add, ?sub, ?mul, ?logic, ?shl, ?shr, aluOp_sra a c, ?min, ?max, ?eq, ?ne, ?ltu, ?geu, ?lts, ?ges, putPred_getLsbD⟩⟩
  case add => exact BitVec.toNat_add a c
  case sub => simp only [aluOp, BitVec.toNat_sub]; omega
  case mul => exact BitVec.toNat_mul a c
  case logic => exact fun i => ⟨BitVec.getLsbD_and, BitVec.getLsbD_or, BitVec.getLsbD_xor⟩
  case shl => simp only [aluOp, BitVec.toNat_shiftLeft, Nat.shiftLeft_eq]
  case shr => simp only [aluOp, BitVec.toNat_ushiftRight, Nat.shiftRight_eq_div_pow]
  case min => simp only [aluOp]; split <;> omega
  case max => simp only [aluOp]; split <;> omega
  case eq => exact beq_iff_eq
  case ne => exact bne_iff_ne
  case ltu | geu | lts | ges => exact decide_eq_true_iff

/-- Settles O9: the two words set PC as R119 to R126 say, and the loops that end at a word decide the next. -/
theorem branchesLoopsAndProgramCounter : Obligations.BranchesLoopsAndProgramCounter := by
  refine ⟨fun s q w => ⟨fun h => act_issues h rfl rfl, fun at0 opcode test => ?loops, fun at0 opcode test => ?skips⟩,
    fun b q e => ⟨fun none inside => ?plain, fun p d r ends more inside => ?again, fun p d ends last inside => ?out, fun none atEnd => ?halts⟩⟩
  case loops => exact act_tests at0 opcode (.inl rfl) rfl (wLoop_holds (b := s.start) test)
  case skips => exact act_tests at0 opcode (.inl rfl) rfl (wLoop_fails (b := s.start) test)
  case plain => exact advanceFrom_inside (by rw [none, loopBack]) inside
  case again => exact advanceFrom_inside (by rw [ends, loopBack, if_pos more]) inside
  case out => exact advanceFrom_inside (by rw [ends, loopBack, if_neg (by omega), loopBack]) inside
  case halts =>
    have back : loopBack e (loopsEnding (b.seq q).words e) (b.seq q).l = (e + 1, (b.seq q).l) := by rw [none, loopBack]
    rw [advanceFrom_seq back]
    exact setPc_end (by rwa [Block.modSeq_seq])

end

section
/-!
PROOFS. The remote access words (03_dxi_reference.md): the order in which GET, PUT and ATOMIC check their address, take a
tag and pick a key (log 44), and MOVE and KEYSEL.
-/

namespace Sys2Proof.Machine

/-! ### Bounds, tags and keys -/

theorem addrBad_eq_false {va : Word} : addrBad va = false ↔ va.toNat < 2 ^ 57 := by
  simp [addrBad]

/-- A span of registers within bounds (R106, R127). -/
theorem spanBad_eq_false {va : Word} {n : Nat} :
    spanBad va n = false ↔ va.toNat < 2 ^ 57 ∧ va.toNat % 8 = 0 ∧ va.toNat % 64 + n ≤ 64 := by
  simp only [spanBad, Bool.or_eq_false_iff, addrBad_eq_false, bne_eq_false_iff_eq, decide_eq_false_iff_not, not_lt, and_assoc]

theorem spanBad_eq_true {va : Word} {n : Nat} :
    spanBad va n = true ↔ ¬ (va.toNat < 2 ^ 57 ∧ va.toNat % 8 = 0 ∧ va.toNat % 64 + n ≤ 64) := by
  rw [← spanBad_eq_false, Bool.not_eq_false]

section
variable {b : Block} {q t k at0 : Nat} {weight : Option Nat} {f : Nat → Nat → Block → Block}

/-- The key of a word without KEYSEL is the partition's current one (R148). -/
theorem pickKey_current (current : currentSlot b (partOf b q) = some k) : pickKey b q none = .slot k := by
  simp only [pickKey, current]

theorem pickKey_none (current : currentSlot b (partOf b q) = none) : pickKey b q none = .none := by
  simp only [pickKey, current]

/-- The key of a word under KEYSEL WEIGHT (R148). -/
theorem pickKey_weight {n : Nat} (held : weightHeld b (partOf b q) n = true) : pickKey b q (some n) = .slot (12 + n) := by
  simp only [pickKey, held, if_true]

theorem pickKey_lost {n : Nat} (lost : weightHeld b (partOf b q) n = false) : pickKey b q (some n) = .lost := by
  simp only [pickKey, lost, Bool.false_eq_true, if_false]

/-- A word that finds no tag holds (R112). -/
theorem withTagKey_noTag (tag : seqTag b q = none) : withTagKey q at0 weight f b = holdAt q .tag b := by
  simp only [withTagKey, withTag, tag]

theorem withTagKey_slot (tag : seqTag b q = some t) (key : pickKey b q weight = .slot k) :
    withTagKey q at0 weight f b = f t k b := by
  simp only [withTagKey, withTag, tag, key]

theorem withTagKey_lost (tag : (seqTag b q).isSome) (key : pickKey b q weight = .lost) :
    withTagKey q at0 weight f b = wordFault q at0 .access b := by
  obtain ⟨t, tag⟩ := Option.isSome_iff_exists.mp tag
  simp only [withTagKey, withTag, tag, key]

theorem withTagKey_none (tag : (seqTag b q).isSome) (key : pickKey b q weight = .none) :
    withTagKey q at0 weight f b = wordNoKey q at0 b := by
  obtain ⟨t, tag⟩ := Option.isSome_iff_exists.mp tag
  simp only [withTagKey, withTag, tag, key]

end

/-! ### GET, PUT and ATOMIC -/

section
variable {b : Block} {q : SeqId} {at0 n : Nat} {weight : Option Nat} {w : Quad}

/-- A GET within bounds goes on to its tag and key. -/
theorem wGet_inside (inside : spanBad (addrArg (b.seq q) w) (8 * (bits w 114 112 + 1)) = false) :
    wGet q at0 n weight w b = withTagKey q at0 weight (fun t k b' =>
      seqRequest q t at0 (.read (8 * (bits w 114 112 + 1))) (addrArg (b.seq q) w) (BitVec.ofNat 2 (bits w 103 102)) none
        (bits w 111 108) k (holdAt q .result (countWords n b'))) b := by
  unfold wGet
  simp only [inside, Bool.false_eq_true, if_false]

/-- A GET out of bounds faults (R106). -/
theorem wGet_outside (outside : spanBad (addrArg (b.seq q) w) (8 * (bits w 114 112 + 1)) = true) :
    wGet q at0 n weight w b = wordFault q at0 .access b := by
  unfold wGet
  simp only [outside, if_true]

/-- A PUT within bounds goes on to its tag and key. -/
theorem wPut_inside (inside : spanBad (addrArg (b.seq q) w) (8 * (bits w 114 112 + 1)) = false) :
    wPut q at0 n weight w b = withTagKey q at0 weight (fun t k b' =>
      seqRequest q t at0 (.write (maskOf ((addrArg (b.seq q) w).toNat % 64) (8 * (bits w 114 112 + 1)))
        (granOf ((addrArg (b.seq q) w).toNat % 64)
          ((List.range (bits w 114 112 + 1)).flatMap fun i => natBytes 8 (gReg (b.seq q) (bits w 111 108 + i)).toNat)))
        (addrArg (b.seq q) w) (BitVec.ofNat 2 (bits w 89 88))
        (if bitAt w 103 then some (tallyArg (b.seq q) w 90, bitAt w 115) else none) 0 k (wordDone q at0 n b')) b := by
  unfold wPut
  simp only [inside, Bool.false_eq_true, if_false]

/-- An ATOMIC within bounds goes on to its tag and key. -/
theorem wAtomic_inside (inside : addrBad (addrArg (b.seq q) w) = false)
    (whole : (addrArg (b.seq q) w).toNat % atomBytes (BitVec.ofNat 2 (bits w 95 94)) = 0) :
    wAtomic q at0 w b = withTagKey q at0 none (fun t k b' =>
      seqRequest q t at0
        (.atomic (BitVec.ofNat 3 (bits w 115 112)) (BitVec.ofNat 2 (bits w 95 94)) (bitAt w 93) (gReg (b.seq q) (bits w 103 100))
          (gReg (b.seq q) (bits w 99 96)))
        (addrArg (b.seq q) w) hintKeep (if bitAt w 92 then some (tallyArg (b.seq q) w 79, true) else none) (bits w 111 108) k
        (if bitAt w 93 then holdAt q .result (countWords 1 b') else wordDone q at0 1 b')) b := by
  unfold wAtomic
  simp only [inside, whole, Bool.false_eq_true, ne_eq, not_true, or_self, if_false]

end

/-- The first fault of a sequencer is recorded, and no later one (R115). -/
theorem recordFault_seq (q e : Nat) (st : Status) (b : Block) : (recordFault q e st b).seq q =
    if (b.seq q).faultValid then b.seq q else
      { b.seq q with faultValid := true, faultPc := BitVec.ofNat 16 e, faultStatus := st.code } := by
  rw [recordFault, Block.modSeq_seq]
  congr 1
  rw [BitVec.ofNat_toNat, BitVec.setWidth_eq]

/-! ### SIGNAL, WAIT and FENCE -/

theorem peerBad_eq_false {d : Word} : peerBad d = false ↔ bits d 63 20 = 0 ∧ bits d 15 13 = 0 := by
  simp only [peerBad, Bool.or_eq_false_iff, bne_eq_false_iff_eq]

section
variable {b : Block} {q : SeqId} {at0 : Nat} {w : Quad}

/-- The amount of a SIGNAL. -/
def signalAmount (s : Seq) (w : Quad) : Nat :=
  if bitAt w 113 then bits (gReg s (bits w 107 104)) 31 0 else bits w 31 0

/-- A local SIGNAL queues its amount (R135). -/
theorem wSignal_local (own : bitAt w 112 = false) (some : signalAmount (b.seq q) w ≠ 0) :
    wSignal q at0 w b = enqueueIncr
      { ctx := (b.seq q).owner.val, idx := tallyArg (b.seq q) w 91, amount := signalAmount (b.seq q) w, err := false,
        part := .some (partOf b q), seq := none, sig := .some q.val } (wordDone q at0 1 b) := by
  unfold wSignal
  unfold signalAmount at some ⊢
  simp only [own, Bool.false_eq_true, if_false, some, wordDone_partOf]

/-- A SIGNAL of amount 0 sends nothing (R136). -/
theorem wSignal_zero (peer : bitAt w 112 = true → peerBad (gReg (b.seq q) (bits w 111 108)) = false)
    (none : signalAmount (b.seq q) w = 0) : wSignal q at0 w b = wordDone q at0 1 b := by
  unfold wSignal
  unfold signalAmount at none
  by_cases remote : bitAt w 112 = true
  · simp only [remote, peer remote, none, if_true, Bool.false_eq_true, if_false]
  · simp only [remote, none, if_true, Bool.false_eq_true, if_false]

/-- A remote SIGNAL goes on to its tag and key. -/
theorem wSignal_remote (remote : bitAt w 112 = true) (peer : peerBad (gReg (b.seq q) (bits w 111 108)) = false)
    (some : signalAmount (b.seq q) w ≠ 0) :
    wSignal q at0 w b = withTagKey q at0 none (fun t k b' =>
      seqRequest q t at0
        (.signal (BitVec.ofNat 32 (signalAmount (b.seq q) w))
          (.some (BitVec.ofNat 13 (bits (gReg (b.seq q) (bits w 111 108)) 12 0), bits (gReg (b.seq q) (bits w 111 108)) 19 16)))
        0 hintKeep (.some (tallyArg (b.seq q) w 91, true)) 0 k (wordDone q at0 1 b')) b := by
  unfold wSignal
  unfold signalAmount at some ⊢
  simp only [remote, peer, if_true, Bool.false_eq_true, if_false, some]

/-- The comparison of a WAIT on numbers (R83). -/
theorem reached_iff (v target : Word) :
    reached v target = true ↔ ((v.toNat % 2 ^ 63 : Int) - target.toNat) % 2 ^ 63 < 2 ^ 62 := by
  simp only [reached, decide_eq_true_iff]
  have := v.isLt
  have := target.isLt
  omega

/-- A WAIT whose tally has reached its target is done (R84). -/
theorem wWait_reached (there : reached (b.tallyOf (b.seq q).owner.val (tallyArg (b.seq q) w 91)) (gReg (b.seq q) (bits w 107 104)) = true) :
    wWait q at0 w b = wordDone q at0 1 (b.modSeq q fun s => { s with
      p := putPred s.p (bits w 111 110) (bitAt (b.tallyOf (b.seq q).owner.val (tallyArg (b.seq q) w 91)) 63) }) := by
  unfold wWait
  simp only [there, if_true]

/-- Another WAIT waits (R85). -/
theorem wWait_waits (ahead : reached (b.tallyOf (b.seq q).owner.val (tallyArg (b.seq q) w 91)) (gReg (b.seq q) (bits w 107 104)) = false) :
    wWait q at0 w b = countWords 1 (b.modSeq q fun s =>
      { s with st := .waiting, waitTally := BitVec.ofNat 12 (tallyArg (b.seq q) w 91), waitTarget := gReg (b.seq q) (bits w 107 104), waitPd := BitVec.ofNat 2 (bits w 111 110)
               sealed := sealRegs (s.sealed.contains (bits w 107 104)) [20] s.sealed }) := by
  unfold wWait
  simp only [ahead, Bool.false_eq_true, if_false]

/-- A FENCE is done when what it covers has landed (R139). -/
theorem wFence_clear (clear : fenceClear b q (bits w 115 112) = true) : wFence q at0 w b = wordDone q at0 1 b := by
  unfold wFence
  simp only [clear, if_true]

/-- Another FENCE holds its sequencer (R140). -/
theorem wFence_holds (open' : fenceClear b q (bits w 115 112) = false) :
    wFence q at0 w b = countWords 1 (b.modSeq q fun s =>
      { s with hold := .fence, fenceKind := BitVec.ofNat 4 (bits w 115 112) }) := by
  unfold wFence
  simp only [open', Bool.false_eq_true, if_false]

end

/-- FENCE_RELEASE lets a FENCE go on whose condition holds. -/
theorem coreFenceRelease_clear {b : Block} {q : Nat} (held : (b.seq q).hold = .fence) (runs : (b.seq q).st = .running)
    (clear : fenceClear b q (b.seq q).fenceKind.toNat = true) :
    coreFenceRelease q b = advanceFrom q (b.seq q).pc.toNat (b.modSeq q fun x => { x with hold := .none }) := by
  unfold coreFenceRelease advance
  simp only [held, runs, clear, and_self, if_true, Block.modSeq_seq]

/-- What REMOTE covers has ended: no increment of a SIGNAL waits, and no covered request is left (R139). -/
theorem fenceClear_remote (b : Block) (q : Nat) : fenceClear b q 1 = true ↔
    (∀ i ∈ b.tally.incs, i.sig ≠ some q) ∧ ∀ r ∈ b.portal.reqs, fenced q r = false := by
  simp [fenceClear]

/-- What MOVE covers has ended: no transfer of the sequencer is left (R139). -/
theorem fenceClear_move (b : Block) (q : SeqId) : fenceClear b q 2 = true ↔
    ∀ e ∈ b.racks, (∀ x, e.2.run = some x → x.seq ≠ q) ∧ ∀ x ∈ e.2.queue, x.seq ≠ q := by
  have run (o : Option Xfer) : (o.any fun x => x.seq.val == q.val) = false ↔ ∀ x, o = some x → x.seq ≠ q := by
    cases o <;> simp [Fin.val_inj]
  simp [fenceClear, movesOpen, run, Fin.val_inj]

/-! ### MOVE -/

/-- A MOVE whose addresses, length and key let it run (R106, R143). -/
def moveOk (b : Block) (q : Nat) (weight : Option Nat) (w : Quad) : Prop :=
  let src := gReg (b.seq q) (bits w 111 108)
  let dst := gReg (b.seq q) (bits w 107 104)
  let len := (gReg (b.seq q) (bits w 103 100)).toNat
  (src.toNat < 2 ^ 57 ∧ dst.toNat < 2 ^ 57 ∧ src.toNat % 64 = 0 ∧ dst.toNat % 64 = 0 ∧ len % 64 = 0 ∧ len < 2 ^ 40) ∧
  ∀ k, weight = some k → weightHeld b (partOf b q) k = true

/-- The transfer of a MOVE (R141 to R145). -/
def moveXfer (b : Block) (q : SeqId) (at0 : Nat) (weight : Option Nat) (w : Quad) : Xfer :=
  { seq := q, ctx := (b.seq q).owner.val, pc := BitVec.ofNat 11 at0, src := gReg (b.seq q) (bits w 111 108),
    dst := gReg (b.seq q) (bits w 107 104), len := (gReg (b.seq q) (bits w 103 100)).toNat,
    dt := if bitAt w 113 then some (tallyArg (b.seq q) w 82, bitAt w 114) else none,
    ct := if bitAt w 112 then some (tallyArg (b.seq q) w 69) else none,
    hint := BitVec.ofNat 2 (bits w 68 67), rate := bits w 66 64, weight, key := none, lent := 0, asked := 0,
    issued := 0, chunks := 0, errored := false, firstErr := 0, stopped := false, last := none, maint := none,
    serial := (b.rack (engineArg (b.seq q) w)).serial + 1 }

section
variable {b : Block} {q : SeqId} {at0 n : Nat} {weight : Option Nat} {w : Quad}

/-- The condition of the model's fault is that a MOVE may not run. -/
theorem moveOk_iff : moveOk b q weight w ↔
    ¬ (addrBad (gReg (b.seq q) (bits w 111 108)) = true ∨ addrBad (gReg (b.seq q) (bits w 107 104)) = true ∨
      (gReg (b.seq q) (bits w 111 108)).toNat % 64 ≠ 0 ∨ (gReg (b.seq q) (bits w 107 104)).toNat % 64 ≠ 0 ∨
      (gReg (b.seq q) (bits w 103 100)).toNat % 64 ≠ 0 ∨ 2 ^ 40 ≤ (gReg (b.seq q) (bits w 103 100)).toNat ∨
      (match weight with
       | some k => !weightHeld b (partOf b q) k
       | none => false) = true) := by
  have lost : (match weight with
       | some k => !weightHeld b (partOf b q) k
       | none => false) = false ↔ ∀ k, weight = some k → weightHeld b (partOf b q) k = true := by
    cases weight <;> simp
  simp only [moveOk, ← lost, not_or, Bool.not_eq_true, addrBad_eq_false, not_not, not_le, and_assoc]

/-- A MOVE that may not run faults (R106). -/
theorem wMove_faults (bad : ¬ moveOk b q weight w) : wMove q at0 n weight w b = wordFault q at0 .access b := by
  rw [moveOk_iff, not_not] at bad
  unfold wMove
  exact if_pos bad

/-- A trace event leaves a sequencer's partition. -/
theorem traceEvent_partOf (k c : Nat) (v r : Word) (p x st pc : Nat) (b : Block) (q : Nat) :
    partOf (traceEvent k c v r p x st pc b) q = partOf b q := by
  unfold partOf ownerOf
  rw [traceEvent_ctx, traceEvent_seq]

/-- A MOVE of length 0 counts its CT alone (R145). -/
theorem wMove_zero (ok : moveOk b q weight w) (zero : (gReg (b.seq q) (bits w 103 100)).toNat = 0) (ct : bitAt w 112 = true) :
    wMove q at0 n weight w b = enqueueIncr
      { ctx := (b.seq q).owner.val, idx := tallyArg (b.seq q) w 69, amount := 1, err := false, part := some (partOf b q), seq := some q.val }
      (traceEvent 5 (engineArg (b.seq q) w) 0 (Config.freeWord b.free) q (b.seq q).owner.val 0 at0
        (wordDone q at0 n { b with free := b.free + 1 })) := by
  have part : partOf (traceEvent 5 (engineArg (b.seq q) w) 0 (Config.freeWord b.free) q (b.seq q).owner.val 0 at0
      (wordDone q at0 n { b with free := b.free + 1 })) q = partOf b q := by
    rw [traceEvent_partOf, wordDone_partOf]
    rfl
  unfold wMove
  refine (if_neg (moveOk_iff.mp ok)).trans ((if_pos zero).trans ?_)
  simp only [ct, if_true, Block.fresh, part]

/-- A MOVE for a full queue holds (R142). -/
theorem wMove_full (ok : moveOk b q weight w) (more : (gReg (b.seq q) (bits w 103 100)).toNat ≠ 0)
    (full : 4 ≤ (b.rack (engineArg (b.seq q) w)).queue.length) : wMove q at0 n weight w b = holdAt q .engine b := by
  unfold wMove
  exact (if_neg (moveOk_iff.mp ok)).trans ((if_neg more).trans (if_pos full))

/-- A MOVE takes a place in its engine's queue (R141). -/
theorem wMove_queues (ok : moveOk b q weight w) (more : (gReg (b.seq q) (bits w 103 100)).toNat ≠ 0)
    (room : (b.rack (engineArg (b.seq q) w)).queue.length < 4) :
    wMove q at0 n weight w b = rackNext (engineArg (b.seq q) w) (wordDone q at0 n
      (traceEvent 5 (engineArg (b.seq q) w) (w64 (gReg (b.seq q) (bits w 103 100)).toNat)
        (w64 ((b.rack (engineArg (b.seq q) w)).serial + 1)) q (b.seq q).owner.val 0 at0
        (b.modRack (engineArg (b.seq q) w) fun r =>
          { r with queue := r.queue ++ [moveXfer b q at0 weight w], serial := (b.rack (engineArg (b.seq q) w)).serial + 1 }))) := by
  unfold wMove
  exact (if_neg (moveOk_iff.mp ok)).trans ((if_neg more).trans (if_neg (not_le.mpr room)))

end

/-- Without KEYSEL no key is lost. -/
theorem moveOk_plain {b : Block} {q : Nat} {w : Quad} : moveOk b q none w ↔
    (gReg (b.seq q) (bits w 111 108)).toNat < 2 ^ 57 ∧ (gReg (b.seq q) (bits w 107 104)).toNat < 2 ^ 57 ∧
    (gReg (b.seq q) (bits w 111 108)).toNat % 64 = 0 ∧ (gReg (b.seq q) (bits w 107 104)).toNat % 64 = 0 ∧
    (gReg (b.seq q) (bits w 103 100)).toNat % 64 = 0 ∧ (gReg (b.seq q) (bits w 103 100)).toNat < 2 ^ 40 :=
  and_iff_left fun _ none => nomatch none

/-! ### KEYSEL (R147 to R149) -/

/-- The weight slot that a KEYSEL names. -/
def keyselWeight (w : Quad) : Option Nat := if bits w 115 112 = 1 then some (bits w 1 0) else none

section
variable {b : Block} {q : SeqId} {at0 : Nat} {w v : Quad} (next : (b.seq q).words[at0 + 1]? = some v)
include next

/-- The second word's test fails: both words are skipped (R99). -/
theorem wKeysel_skips (test : testHolds (b.seq q) v = false) : wKeysel q at0 w b = wordDone q (at0 + 1) 2 b := by
  unfold wKeysel
  simp only [next, test, Bool.not_false, if_true]

section
variable (test : testHolds (b.seq q) v = true)
include test

theorem wKeysel_move (opcode : wOpcode v = 0x10) :
    wKeysel q at0 w b = wMove q (at0 + 1) 2 (keyselWeight w) v b := by
  unfold wKeysel
  simp only [next, test, opcode, Bool.not_true, Bool.false_eq_true, if_false, keyselWeight]

theorem wKeysel_get (opcode : wOpcode v = 0x11) : wKeysel q at0 w b = wGet q (at0 + 1) 2 (keyselWeight w) v b := by
  unfold wKeysel
  simp only [next, test, opcode, Bool.not_true, Bool.false_eq_true, if_false, keyselWeight]

theorem wKeysel_put (opcode : wOpcode v = 0x12) : wKeysel q at0 w b = wPut q (at0 + 1) 2 (keyselWeight w) v b := by
  unfold wKeysel
  simp only [next, test, opcode, Bool.not_true, Bool.false_eq_true, if_false, keyselWeight]

end
end

end Sys2Proof.Machine

open Sys2Proof Sys2Proof.Machine

/-- Settles O10: within bounds, with a tag and a current slot, each word becomes its request. -/
theorem remoteAccessWordsComplete : Obligations.RemoteAccessWordsComplete := by
  intro s q w t k tag current x va n put ty at' bound
  have key : pickKey s.start q none = .slot k := pickKey_current current
  have inside (aligned : va.toNat % 8 = 0) (spans : at' + 8 * n ≤ 64) : spanBad va (8 * n) = false :=
    spanBad_eq_false.mpr ⟨bound, aligned, spans⟩
  refine ⟨fun h aligned spans => act_issues h rfl ?get, fun h aligned spans => act_issues h rfl ?put,
    fun h aligned => act_issues h rfl ?atomic⟩
  case get => exact (wGet_inside (b := s.start) (inside aligned spans)).trans (withTagKey_slot tag key)
  case put => exact (wPut_inside (b := s.start) (inside aligned spans)).trans (withTagKey_slot tag key)
  case atomic =>
    exact (wAtomic_inside (b := s.start) (addrBad_eq_false.mpr bound) aligned).trans (withTagKey_slot tag key)

/-- Settles O12: the address is checked first, then the tag, then the key. -/
theorem remoteAccessWordsFaultOrHold : Obligations.RemoteAccessWordsFaultOrHold := by
  intro s q w h x va n ok
  have inside (good : ok) : spanBad va (8 * n) = false := spanBad_eq_false.mpr good
  refine ⟨fun bad => act_issues h rfl ?faults, fun good tag => act_issues h rfl ?holds,
    fun good tag current => act_issues h rfl ?noKey, fun b e st => recordFault_seq q e st b⟩
  case faults => exact wGet_outside (b := s.start) (spanBad_eq_true.mpr bad)
  case holds => exact (wGet_inside (b := s.start) (inside good)).trans (withTagKey_noTag tag)
  case noKey => exact (wGet_inside (b := s.start) (inside good)).trans (withTagKey_none tag (pickKey_none current))

/-- Settles O11, by the branches of the three words. -/
theorem signalWaitAndFenceComplete : Obligations.SignalWaitAndFenceComplete := by
  refine ⟨fun s q w h => ?signal, fun s q w h => ?wait, fun s q w => ?fence⟩
  case signal =>
    intro x amount d
    refine ⟨fun own more => act_issues h rfl ?queues, fun peer none => act_issues h rfl ?zero,
      fun t k tag current remote high reserved more => act_issues h rfl ?remote⟩
    case queues => exact wSignal_local (b := s.start) own more
    case zero => exact wSignal_zero (b := s.start) (fun remote => peerBad_eq_false.mpr (peer remote)) none
    case remote =>
      exact (wSignal_remote (b := s.start) remote (peerBad_eq_false.mpr ⟨high, reserved⟩) more).trans
        (withTagKey_slot tag (pickKey_current current))
  case wait =>
    intro x t target v d
    refine ⟨fun near => act_issues h rfl ?there, fun far => act_issues h rfl ?waits⟩
    case there => exact wWait_reached (b := s.start) ((reached_iff v target).mpr near)
    case waits =>
      refine wWait_waits (b := s.start) (Bool.eq_false_iff.mpr fun there => ?_)
      exact absurd ((reached_iff v target).mp there) (not_lt.mpr far)
  case fence =>
    refine ⟨fun h clear => act_issues h rfl (wFence_clear (b := s.start) clear),
      fun h left => act_issues h rfl (wFence_holds (b := s.start) left), fun held runs clear => ?release,
      fenceClear_remote s.blk q, fenceClear_move s.blk q⟩
    case release => exact act_eq (coreFenceRelease_clear (b := s.start) held runs clear)

/-- Settles O13: a MOVE by its bounds, its length and its engine's queue; a KEYSEL by the word after it. -/
theorem moveAndKeyselComplete : Obligations.MoveAndKeyselComplete := by
  refine ⟨fun s q w h => ?move, fun s q w v at0 opcode next => ?keysel⟩
  case move =>
    intro x src dst len e c ok serial xfer
    have same : BitVec.ofNat 11 x.pc.toNat = x.pc := by rw [BitVec.ofNat_toNat, BitVec.setWidth_eq]
    have runs : moveOk s.start q none w ↔ ok := moveOk_plain
    refine ⟨fun good more room => act_issues h rfl ?queues, fun good more full => act_issues h rfl ?full,
      fun good zero ct => act_issues h rfl ?zero, fun bad => act_issues h rfl ?faults⟩
    case queues =>
      have own : moveXfer s.start q x.pc.toNat none w = xfer := by rw [moveXfer, same]; rfl
      refine (wMove_queues (runs.mpr good) more room).trans ?_
      rw [own]
      rfl
    case full => exact wMove_full (runs.mpr good) more full
    case zero => exact wMove_zero (runs.mpr good) zero ct
    case faults => exact wMove_faults (mt runs.mp bad)
  case keysel =>
    intro x at1 va n inSpan
    have inside (good : inSpan) : spanBad va (8 * n) = false := spanBad_eq_false.mpr good
    have weight (select : bits w 115 112 = 1) : keyselWeight w = some (bits w 1 0) := if_pos select
    refine ⟨fun test => act_tests at0 opcode (.inr rfl) rfl ?skips,
      fun test second select good t tag held => act_tests at0 opcode (.inr rfl) rfl ?get,
      fun test second select good tag lost => act_tests at0 opcode (.inr rfl) rfl ?lost,
      fun test second => act_tests at0 opcode (.inr rfl) rfl ?move,
      fun test second => act_tests at0 opcode (.inr rfl) rfl ?put⟩
    case skips => exact wKeysel_skips (b := s.start) next test
    case get =>
      refine (wKeysel_get (b := s.start) next test second).trans ?_
      rw [weight select]
      exact (wGet_inside (b := s.start) (inside good)).trans (withTagKey_slot tag (pickKey_weight held))
    case lost =>
      refine (wKeysel_get (b := s.start) next test second).trans ?_
      rw [weight select]
      exact (wGet_inside (b := s.start) (inside good)).trans (withTagKey_lost tag (pickKey_lost lost))
    case move => exact wKeysel_move (b := s.start) next test second
    case put => exact wKeysel_put (b := s.start) next test second

end

section
/-!
PROOFS. COLL, FERRY, WATCH, MARK, COMPLETE and PERMIT (03_dxi_reference.md), and the words that hold or are skipped.
-/

namespace Sys2Proof.Machine

/-! ### COLL and FERRY -/

/-- The collective that a COLL asks for. -/
def collInst (x : Seq) (w : Quad) : Inst :=
  let kind := bits w 115 112
  { kind, gs := gReg x (bits w 111 108), gd := gReg x (bits w 107 104), count := (gReg x (bits w 103 100)).toNat,
    root := if (kind == kBroadcast || kind == kReduce) = true then (gReg x (bits w 99 96)).toNat else 0, op := bits w 85 84,
    ty := bits w 83 79, carry := bitAt w 78, rt := tallyArg x w 65, hint := BitVec.ofNat 2 (bits w 64 63) }

/-- A COLL's buffers, count and root are in bounds (R150 to R152). -/
def collOk (x : Seq) (w : Quad) (g : Group) : Prop :=
  let kind := bits w 115 112
  let ty := bits w 83 79
  let count := (gReg x (bits w 103 100)).toNat
  let fits (va : Word) (dst : Bool) := va.toNat % 64 = 0 ∧ va.toNat + bufBytes ty (bufTotal g (collInst x w) dst) ≤ 2 ^ 57
  fits (gReg x (bits w 111 108)) false ∧ fits (gReg x (bits w 107 104)) true ∧ 1 ≤ count ∧ count < 2 ^ 32 ∧
    count % (if byRank kind then g.n * tyBlock ty else tyBlock ty) = 0 ∧
    ((kind == kBroadcast || kind == kReduce) = true → (gReg x (bits w 99 96)).toNat < g.n)

/-- The condition of the model's fault is that a COLL is out of bounds. -/
theorem collOk_iff {x : Seq} {w : Quad} {g : Group} : collOk x w g ↔
    ¬ ((gReg x (bits w 111 108)).toNat % 64 ≠ 0 ∨ (gReg x (bits w 107 104)).toNat % 64 ≠ 0 ∨
      (gReg x (bits w 103 100)).toNat = 0 ∨ 2 ^ 32 ≤ (gReg x (bits w 103 100)).toNat ∨
      (gReg x (bits w 103 100)).toNat %
        (if byRank (bits w 115 112) then g.n * tyBlock (bits w 83 79) else tyBlock (bits w 83 79)) ≠ 0 ∨
      ((bits w 115 112 == kBroadcast || bits w 115 112 == kReduce) = true ∧ g.n ≤ (gReg x (bits w 99 96)).toNat) ∨
      decide (2 ^ 57 < (gReg x (bits w 111 108)).toNat + bufBytes (bits w 83 79) (bufTotal g (collInst x w) false)) = true ∨
      decide (2 ^ 57 < (gReg x (bits w 107 104)).toNat + bufBytes (bits w 83 79) (bufTotal g (collInst x w) true)) = true) := by
  simp only [collOk, not_or, not_and, not_not, not_le, decide_eq_true_iff, not_lt, Nat.one_le_iff_ne_zero]
  constructor
  · exact fun ⟨⟨source, sourceEnd⟩, ⟨dest, destEnd⟩, any, few, whole, root⟩ =>
      ⟨source, dest, any, few, whole, root, sourceEnd, destEnd⟩
  · exact fun ⟨source, dest, any, few, whole, root, sourceEnd, destEnd⟩ =>
      ⟨⟨source, sourceEnd⟩, ⟨dest, destEnd⟩, any, few, whole, root⟩

section
variable {b : Block} {q : SeqId} {at0 : Nat} {w : Quad} {g : Group} (group : groupOf b (bits w 95 86) = some g)
include group

/-- A COLL out of bounds faults (R150 to R152). -/
theorem wColl_faults (bad : ¬ collOk (b.seq q) w g) : wColl q at0 w b = wordFault q at0 .access b := by
  rw [collOk_iff, not_not] at bad
  unfold wColl
  simp only [group]
  exact if_pos bad

section
variable (ok : collOk (b.seq q) w g)
include ok

/-- A COLL without room holds (R153, R270). -/
theorem wColl_holds (full : instRoom b q (bits w 95 86) g = false) : wColl q at0 w b = holdAt q .inst b := by
  unfold wColl
  simp only [group]
  refine (if_neg (collOk_iff.mp ok)).trans (if_pos ?_)
  simp only [full, Bool.not_false]

/-- A COLL whose checksummed ranges are no whole tiles fails (R257). -/
theorem wColl_untiled (room : instRoom b q (bits w 95 86) g = true)
    (untiled : groupBlocked b (bits w 95 86) = false ∧ collTiled b g (collShape g (collInst (b.seq q) w)) = false) :
    wColl q at0 w b = collFault q at0 (bits w 95 86) g b := by
  unfold wColl
  simp only [group]
  refine (if_neg (collOk_iff.mp ok)).trans ((if_neg ?_).trans (if_pos ?_))
  · simp only [room, Bool.not_true, Bool.false_eq_true, not_false_eq_true]
  · simpa only [Bool.not_eq_true', collInst] using untiled

/-- Any other COLL issues (R154). -/
theorem wColl_issues (room : instRoom b q (bits w 95 86) g = true)
    (tiled : ¬ (groupBlocked b (bits w 95 86) = false ∧ collTiled b g (collShape g (collInst (b.seq q) w)) = false)) :
    wColl q at0 w b = afterIssue q at0 (collIssue q at0 (bits w 95 86) (collInst (b.seq q) w) b) := by
  unfold wColl
  simp only [group]
  refine (if_neg (collOk_iff.mp ok)).trans ((if_neg ?_).trans (if_neg ?_))
  · simp only [room, Bool.not_true, Bool.false_eq_true, not_false_eq_true]
  · simpa only [Bool.not_eq_true', collInst] using tiled

end
end

/-- The operand of a FERRY: N registers as one little-endian value (R155). -/
def ferryOperand (x : Seq) (w : Quad) : BitVec 256 :=
  BitVec.ofNat 256 (packNat ((List.range (bits w 107 106 + 1)).map fun i => (64 * i, (gReg x (bits w 111 108 + i)).toNat)))

section
variable {b : Block} {q : SeqId} {at0 : Nat} {w : Quad} {g : Group} (group : groupOf b (bits w 105 96) = some g)
include group

/-- A FERRY whose result address is out of bounds faults (R156). -/
theorem wFerry_faults (operand : bits w 115 112 ≠ opBarrier)
    (bad : spanBad (gReg (b.seq q) (bits w 92 89)) (8 * (bits w 107 106 + 1)) = true) :
    wFerry q at0 w b = wordFault q at0 .access b := by
  unfold wFerry
  simp only [group]
  exact if_pos ⟨operand, bad⟩

section
variable (ok : ¬ (bits w 115 112 ≠ opBarrier ∧ spanBad (gReg (b.seq q) (bits w 92 89)) (8 * (bits w 107 106 + 1)) = true))
include ok

/-- A FERRY without room holds (R153, R270). -/
theorem wFerry_holds (full : instRoom b q (bits w 105 96) g = false) : wFerry q at0 w b = holdAt q .inst b := by
  unfold wFerry
  simp only [group]
  refine (if_neg ok).trans (if_pos ?_)
  simp only [full, Bool.not_false]

/-- Any other FERRY issues (R158). -/
theorem wFerry_issues (room : instRoom b q (bits w 105 96) g = true) :
    wFerry q at0 w b = afterIssue q at0 (ferryIssue q at0 (bits w 105 96) (bits w 115 112) (bits w 95 93) (bits w 107 106 + 1)
      (if bits w 115 112 = opBarrier then 0 else ferryOperand (b.seq q) w)
      (if bits w 115 112 = opBarrier then 0 else gReg (b.seq q) (bits w 92 89)) (tallyArg (b.seq q) w 76) b) := by
  unfold wFerry
  simp only [group]
  refine (if_neg ok).trans (if_neg ?_)
  simp only [room, Bool.not_true, Bool.false_eq_true, not_false_eq_true]

end
end

/-! ### WATCH and MARK -/

section
variable {b : Block} {q : SeqId} {at0 : Nat} {w : Quad}

/-- A WATCH's address and length are in bounds (R163). -/
def watchOk (ga : Word) (len : Nat) : Prop :=
  ga.toNat < 2 ^ 57 ∧ ga.toNat % 64 = 0 ∧ len % 64 = 0 ∧ 64 ≤ len ∧ len ≤ 2 ^ 20 ∧ ga.toNat + len ≤ 2 ^ 57

/-- The condition of the model's fault is that a WATCH is out of bounds. -/
theorem watchOk_iff {ga : Word} {len : Nat} : watchOk ga len ↔
    ¬ (addrBad ga = true ∨ ga.toNat % 64 ≠ 0 ∨ len % 64 ≠ 0 ∨ len = 0 ∨ 2 ^ 20 < len ∨ 2 ^ 57 < ga.toNat + len) := by
  simp only [watchOk, not_or, Bool.not_eq_true, addrBad_eq_false]
  omega

/-- An armed watch of a context whose step filter takes a step (R164, R627). -/
theorem watchAccepts_iff {id c step : Nat} : watchAccepts b id c step = true ↔
    bitAt (b.watch id).ctrl 63 = true ∧ bits (b.watch id).ctrl 59 56 = c ∧ bits (b.watch id).ctrl 15 0 ≤ step ∧
    step ≤ bits (b.watch id).ctrl 31 16 ∧ bits (b.watch id).ctrl 47 32 ≠ 0 ∧ bitAt b.thief.ctrl 0 = true := by
  simp only [watchAccepts, Bool.and_eq_true, beq_iff_eq, bne_iff_ne, decide_eq_true_iff, and_assoc]

theorem wWatch_faults (bad : ¬ watchOk (gReg (b.seq q) (bits w 111 108)) (gReg (b.seq q) (bits w 107 104)).toNat) :
    wWatch q at0 w b = wordFault q at0 .access b := by
  rw [watchOk_iff, not_not] at bad
  unfold wWatch
  exact if_pos bad

section
variable (ok : watchOk (gReg (b.seq q) (bits w 111 108)) (gReg (b.seq q) (bits w 107 104)).toNat)
include ok

/-- A WATCH that is accepted issues (R164). -/
theorem wWatch_accepted (accepts : watchAccepts b (bits w 21 16) (b.seq q).owner.val (bits w 15 0) = true) :
    wWatch q at0 w b = watchIssue q at0 (bits w 21 16) (bits w 15 0) (gReg (b.seq q) (bits w 111 108))
      (gReg (b.seq q) (bits w 107 104)).toNat (countWords 1 b) := by
  unfold wWatch
  exact (if_neg (watchOk_iff.mp ok)).trans (if_pos accepts)

/-- Any other WATCH is done (R164). -/
theorem wWatch_passes (refuses : ¬ watchAccepts b (bits w 21 16) (b.seq q).owner.val (bits w 15 0) = true) :
    wWatch q at0 w b = wordDone q at0 1 b := by
  unfold wWatch
  exact (if_neg (watchOk_iff.mp ok)).trans (if_neg refuses)

end

/-- With tracing off there is no trace event (R609). -/
theorem traceEvent_off {kind code seq ctx status pc : Nat} {value ref : Word}
    (off : bitAt b.thief.ctrl 0 = false ∨ bitAt b.thief.ctrl 4 = false) :
    traceEvent kind code value ref seq ctx status pc b = b := by
  have disabled : thiefOn b 4 = false := by rcases off with off | off <;> simp [thiefOn, off]
  simp [traceEvent, disabled]

/-! ### COMPLETE -/

/-- The sequencer of a COMPLETE after its SEQUENCE counts. -/
theorem countWords_cseq (b : Block) (q : Nat) :
    (countWords 1 (b.modSeq q fun s => { s with cseq := s.cseq + 1 })).seq q =
      { b.seq q with cseq := (b.seq q).cseq + 1 } :=
  Block.modSeq_seq b q fun s => { s with cseq := s.cseq + 1 }

/-- The event that a record's EVENT bit asks for (R90). -/
def completeEvent (x : Seq) (q : SeqId) (w : Quad) : EventEntry :=
  { time := 0, seq := 0, code := 0x20, status := BitVec.ofNat 8 (bits w 7 0), ctx := BitVec.ofNat 8 x.owner.val,
    unit := BitVec.ofNat 8 q.val, arg0 := x.cseq + 1, arg1 := x.tag }

/-- The record of a COMPLETE, whose SEQUENCE is one more than the last (Table 2.8). -/
def completeRecord (b : Block) (q : SeqId) (at0 : Nat) (w : Quad) : Granule :=
  granOf 0 (natBytes 8 ((b.seq q).cseq + 1).toNat ++ natBytes 1 (bits w 7 0) ++ natBytes 1 q.val ++
    natBytes 1 (b.seq q).owner.val ++ natBytes 1 (bits w 113 112) ++ natBytes 4 at0 ++ natBytes 8 (b.seq q).tag.toNat ++
    natBytes 8 (gReg (b.seq q) (bits w 111 108)).toNat ++ natBytes 8 b.time.net.toNat)

/-- The block after a COMPLETE has written its record (R87 to R90), with the fields as another block has them. -/
def completeWritten (b0 : Block) (q : SeqId) (at0 : Nat) (w : Quad) (b : Block) : Block :=
  traceEvent 4 0 ((b0.seq q).cseq + 1) (b0.seq q).tag q (b0.seq q).owner.val (bits w 7 0) at0
    ((memWrite (bits (b0.seq q).crecAddr 49 0) 0 (~~~0) (completeRecord b0 q at0 w) (.crec q)
      (countWords 1 (b.modSeq q fun y => { y with cseq := y.cseq + 1 }))).modSeq q fun y =>
      { y with recBusy := true, recEvent := if bitAt w 113 then some (completeEvent (b0.seq q) q w) else none })

/-- A COMPLETE holds while the last record is not visible (R89). -/
theorem wComplete_busy {lees : List Host.Cell} (busy : (b.seq q).recBusy = true) :
    wComplete lees q at0 w b = holdAt q .record b := by
  unfold wComplete
  exact if_pos busy

section
variable {lees : List Host.Cell} (free : (b.seq q).recBusy = false)
include free

/-- A COMPLETE without HALT goes on (R166). -/
theorem wComplete_goes (goes : bitAt w 112 = false) : wComplete lees q at0 w b =
    compatBoundary lees q (advanceFrom q at0 (completeWritten b q at0 w b)) := by
  unfold wComplete
  simp only [free, goes, Bool.false_eq_true, if_false, recordGran, countWords_cseq]
  rfl

/-- A COMPLETE with HALT halts at the next word (R167, R745). -/
theorem wComplete_halts (halts : bitAt w 112 = true) : wComplete lees q at0 w b =
    let next := loopBack at0 (loopsEnding (b.seq q).words at0) (b.seq q).l
    compatBoundary lees q (dropHolding q ((completeWritten b q at0 w b).modSeq q fun y =>
      { y with l := next.2, st := .halted, pc := if next.1 = y.words.length then 0 else BitVec.ofNat 11 next.1 })) := by
  unfold wComplete
  simp only [free, halts, Bool.false_eq_true, if_false, if_true, recordGran, countWords_cseq]
  rfl

end

/-! ### PERMIT -/

/-- ACQUIRE of no more than is held lowers the holding (R159). -/
theorem wAcquire_lowers (held : bits w 8 0 ≤ (b.seq q).permitHeld) :
    wAcquire q at0 w b = wordDone q at0 1 (lowerHolding q (bits w 8 0) b) := by
  unfold wAcquire
  exact if_pos held

/-- ACQUIRE of more asks for the increase (R159). -/
theorem wAcquire_asks (more : (b.seq q).permitHeld < bits w 8 0) :
    wAcquire q at0 w b = askPermit (.seq q) (bits w 8 0 - (b.seq q).permitHeld)
      (b.modSeq q fun s => { s with hold := .permit }) := by
  unfold wAcquire
  exact if_neg (not_le.mpr more)

end

/-! ### Words that were held (R112, R114) -/

section
variable {b : Block} {q : SeqId} {w : Quad} {lees : List Host.Cell} (runs : (b.seq q).st = .running)
  (word : (b.seq q).words[(b.seq q).pc.toNat]? = some w)
include runs word

/-- A GET held for a tag is tried again. -/
theorem coreSeqHoldRelease_get (held : (b.seq q).hold = .tag) (opcode : wOpcode w = 0x11) :
    coreSeqHoldRelease lees q b = coreGet q (b.modSeq q fun s => { s with hold := .none }) := by
  simp [coreSeqHoldRelease, runs, held, word, opcode]

/-- A MOVE held for a place in a queue is tried again. -/
theorem coreSeqHoldRelease_move (held : (b.seq q).hold = .engine) (opcode : wOpcode w = 0x10) :
    coreSeqHoldRelease lees q b = coreMove q (b.modSeq q fun s => { s with hold := .none }) := by
  simp [coreSeqHoldRelease, runs, held, word, opcode]

/-- A COLL held for room in the table is tried again. -/
theorem coreSeqHoldRelease_coll (held : (b.seq q).hold = .inst) (opcode : wOpcode w = 0x20) :
    coreSeqHoldRelease lees q b = coreColl q (b.modSeq q fun s => { s with hold := .none }) := by
  simp [coreSeqHoldRelease, runs, held, word, opcode]

/-- A COMPLETE held for the last record is tried again. -/
theorem coreSeqHoldRelease_complete (held : (b.seq q).hold = .record) (opcode : wOpcode w = 0x3F) :
    coreSeqHoldRelease lees q b = coreComplete lees q (b.modSeq q fun s => { s with hold := .none }) := by
  simp [coreSeqHoldRelease, runs, held, word, opcode]

end

section
variable {b : Block} {q : SeqId} (free : (b.seq q).hold = .none) (runs : (b.seq q).st = .running)
include free runs

/-- A sequencer that waited under a freeze enters FROZEN (R114). -/
theorem coreSeqEnterFrozen_freezes (freeze : (b.seq q).freezePending = true) : coreSeqEnterFrozen q b =
    dropHolding q (b.modSeq q fun s => { s with st := .frozen, freezePending := false, stopPending := false }) := by
  simp [coreSeqEnterFrozen, free, runs, freeze]

/-- A sequencer that waited under a STOP enters HALTED (R114). -/
theorem coreSeqEnterFrozen_halts (freeze : (b.seq q).freezePending = false) (stop : (b.seq q).stopPending = true) :
    coreSeqEnterFrozen q b = dropHolding q (b.modSeq q fun s => { s with st := .halted, stopPending := false }) := by
  simp [coreSeqEnterFrozen, free, runs, freeze, stop]

end

/-- A word whose predicate test fails is done (R99). -/
theorem act_skips {s : State} {q : SeqId} {w : Quad} {op : Nat} {sub : Nat → Bool} {f : Nat → Quad → Block → Block}
    (at0 : s.blk.AtWord q w) (test : testHolds (s.blk.seq q) w = false) (predicated : op ≠ 0x05 ∧ op ≠ 0x33)
    (operation : sub (bits w 115 112) = true) (opcode : wOpcode w = op) :
    s.act (dxi op sub f q) = .next (s.after (wordDone q (s.blk.seq q).pc.toNat 1)) :=
  act_eq (dxi_skips (b := s.start) at0 opcode operation test predicated.1 predicated.2)

end Sys2Proof.Machine

open Sys2Proof Sys2Proof.Machine

/-- Settles O14: bounds, then room, then the tiles of a checksum, then the issue. -/
theorem collAndFerryComplete : Obligations.CollAndFerryComplete := by
  refine ⟨fun s q w g h group => ?coll, fun s q w g h group => ?ferry⟩
  case coll =>
    intro x gid kind ty count root rooted inst fits ok untiled
    refine ⟨fun good room strips => act_issues h rfl ?untiled, fun good room strips => act_issues h rfl ?issues,
      fun good full => act_issues h rfl ?holds, fun bad => act_issues h rfl ?faults⟩
    case untiled => exact wColl_untiled (b := s.start) group good room strips
    case issues => exact wColl_issues (b := s.start) group good room strips
    case holds => exact wColl_holds (b := s.start) group good full
    case faults => exact wColl_faults (b := s.start) group bad
  case ferry =>
    intro x gid op n va v ok go
    have inside (good : ok) : ¬ (op ≠ opBarrier ∧ spanBad va (8 * n) = true) := fun ⟨_, bad⟩ => spanBad_eq_true.mp bad good
    refine ⟨fun operand good room => act_issues h rfl ?issues, fun barrier room => act_issues h rfl ?barrier,
      fun operand good full => act_issues h rfl ?holds, fun operand bad => act_issues h rfl ?faults⟩
    case issues =>
      refine (wFerry_issues (b := s.start) group (inside good) room).trans ?_
      rw [if_neg operand, if_neg operand]
      rfl
    case barrier =>
      refine (wFerry_issues (b := s.start) group (fun ⟨operand, _⟩ => operand barrier) room).trans ?_
      rw [if_pos barrier, if_pos barrier]
      rfl
    case holds => exact wFerry_holds (b := s.start) group (inside good) full
    case faults => exact wFerry_faults (b := s.start) group operand (spanBad_eq_true.mpr bad)

/-- Settles O15: a WATCH by its bounds and its watch, a MARK by the thief's settings, a COMPLETE by the last record. -/
theorem watchMarkAndCompleteComplete : Obligations.WatchMarkAndCompleteComplete := by
  refine ⟨fun s q w h => ?watch, fun s q w h => ?mark, fun s q w h => ?complete⟩
  case watch =>
    intro x ga len c step ok armed
    have accepts : watchAccepts s.start (bits w 21 16) x.owner.val step = true ↔ armed := watchAccepts_iff
    refine ⟨fun good arms => act_issues h rfl ?accepted, fun good idle => act_issues h rfl ?passes,
      fun bad => act_issues h rfl ?faults⟩
    case accepted => exact wWatch_accepted (b := s.start) good (accepts.mpr arms)
    case passes => exact wWatch_passes (b := s.start) good (mt accepts.mp idle)
    case faults => exact wWatch_faults (b := s.start) bad
  case mark =>
    refine ⟨act_issues h rfl rfl, fun off => act_issues h rfl ?off⟩
    case off => exact congrArg (wordDone q (s.blk.seq q).pc.toNat 1) (traceEvent_off (b := s.start) off)
  case complete =>
    intro x seqno ev record written
    refine ⟨fun busy => act_issues h rfl ?busy, fun free goes => act_issues h rfl ?goes,
      fun free halts => act_issues h rfl ?halts⟩
    case busy => exact wComplete_busy (b := s.start) busy
    case goes => exact wComplete_goes (b := s.start) free goes
    case halts => exact wComplete_halts (b := s.start) free halts

/-- Settles O16, by the sub-operation of the word. -/
theorem permitWordsComplete : Obligations.PermitWordsComplete := by
  intro s q w h x units lower
  have operation {n : Nat} (is : bits w 115 112 = n) : (bits w 115 112 == n) = true := beq_iff_eq.mpr is
  refine ⟨fun is held => act_issues h (operation is) ?lowers, fun is more => act_issues h (operation is) ?asks,
    fun is => act_issues h (operation is) rfl, fun is => act_issues h (operation is) rfl,
    fun is => act_issues h (operation is) rfl⟩
  case lowers => exact wAcquire_lowers (b := s.start) held
  case asks => exact wAcquire_asks (b := s.start) more

/-- Settles O17: what a hold's release tries again, where a freeze or a STOP goes, and the words that a test skips. -/
theorem heldAndSkippedWords : Obligations.HeldAndSkippedWords := by
  refine ⟨fun s q w => ?held, fun s q w at0 test i word => ?skipped⟩
  case held =>
    exact ⟨fun runs held word opcode => act_eq (coreSeqHoldRelease_get (b := s.start) runs word held opcode),
      fun runs held word opcode => act_eq (coreSeqHoldRelease_move (b := s.start) runs word held opcode),
      fun runs held word opcode => act_eq (coreSeqHoldRelease_coll (b := s.start) runs word held opcode),
      fun runs held word opcode => act_eq (coreSeqHoldRelease_complete (b := s.start) runs word held opcode),
      fun free runs freeze => act_eq (coreSeqEnterFrozen_freezes (b := s.start) free runs freeze),
      fun free runs freeze stop => act_eq (coreSeqEnterFrozen_halts (b := s.start) free runs freeze stop)⟩
  case skipped =>
    simp only [List.mem_cons, List.not_mem_nil, or_false] at word
    rcases word with rfl | rfl | rfl | rfl | rfl | rfl | rfl | rfl | rfl | rfl | rfl | rfl | rfl | rfl | rfl | rfl | rfl
    all_goals exact act_skips at0 test (by simp only; decide) rfl

end

section
/-!
PROOFS. Register writes by their form (18_register_map.md), and LOAD, START, STOP and UNLOAD of a sequencer (02).
-/

namespace Sys2Proof.Machine

/-! ### A register write by its form -/

section
variable {p : Path} {off : Nat} {z : Bool} {v : Word} {lees : List Host.Cell} {b : Block}

/-- A write before the ports are ready does nothing (R679). -/
theorem busWrite_early (early : portsReady b = false) : busWrite p off z v lees b = b := by
  simp only [busWrite, early, Bool.not_false, if_true]

/-- A misaligned write, or one that is not of 8 bytes, is counted (R683). -/
theorem busWrite_misshapen (ready : portsReady b = true) (shape : z = false ∨ off % 8 ≠ 0) :
    busWrite p off z v lees b = countIgnored b := by
  have bad : off % 8 ≠ 0 ∨ (!z) = true := shape.symm.imp_right fun short => by rw [short]; rfl
  simp only [busWrite, ready, Bool.not_true, Bool.false_eq_true, if_false, bad, if_true]

section
variable (ready : portsReady b = true) (aligned : off % 8 = 0)
include ready aligned

/-- A write on a path that may not make it does nothing (R718). -/
theorem busWrite_barred (barred : mayWrite b p off = false) : busWrite p off true v lees b = b := by
  simp [busWrite, ready, aligned, barred]

/-- A write for a clock that does not run waits (R43). -/
theorem busWrite_waits (allowed : mayWrite b p off = true) (waits : mustWait b off = true) :
    busWrite p off true v lees b = holdWrite p off v b := by
  simp [busWrite, ready, aligned, allowed, waits]

end

/-! ### Paths (Table 18.4) -/

/-- The lees window. -/
theorem ofOffset_lees {n : Nat} (low : 0x200000 ≤ n) (high : n < 0x400000) : Reg.ofOffset n = .lees (n - 0x200000) := by
  unfold Reg.ofOffset
  repeat rw [if_neg (by omega)]
  rw [if_pos high]

/-- The RoT alone writes the security block. -/
theorem mayWrite_sec {n : Nat} (low : 0xC0000 ≤ n) (high : n < 0xD0000) : mayWrite b p n = true ↔ p = .rot := by
  obtain ⟨o, rfl⟩ := Nat.exists_eq_add_of_le low
  simp only [mayWrite, ofOffset_sec (show o < 0x10000 by omega), beq_iff_eq]

/-- No path writes the lees window. -/
theorem mayWrite_lees {n : Nat} (low : 0x200000 ≤ n) (high : n < 0x400000) : mayWrite b p n = false := by
  simp only [mayWrite, ofOffset_lees low high]

/-- While HOST_LOCK is 1 the control path writes no target of control messages (R554). -/
theorem mayWrite_locked {n : Nat} (lock : b.fm.hostLock = true) (target : fmTarget n = true) :
    mayWrite b .control n = false := by
  unfold mayWrite
  split
  · rfl
  · rfl
  · simp [target, lock]

end

/-- A register write that is neither a LATCH nor a START lies in a cycle of its own, whatever its form. -/
theorem exec_registerWrite_act {s : State} {p : Path} {off : BitVec 24} {v : Word} (z : Bool)
    (latch : inLatch off.toNat = false) (start : startsSeq off.toNat v = false) :
    exec (.registerWrite p off z v) s = s.act (busWrite p off.toNat z v s.lees) := by
  show execRegisterWrite p off z v s = _
  simp only [execRegisterWrite, latch, start, Bool.false_eq_true, if_false]

/-! ### A write that marks its cycle -/

/-- The block as a register write of a cycle finds it, kicked or not. -/
def State.marked (s : State) (w : Bool) : Block := { s.start with kicked := w }

/-- A register write taken at once, known on a block that may be marked as kicked and is otherwise as the cycle began. -/
theorem regWrite_kicked {s : State} {p : Path} {off : Nat} {r : Reg} (v : Word) (g : Block → Block)
    (writable : s.blk.Writable p off) (aligned : off % 8 = 0) (register : Reg.ofOffset off = r)
    (effect : ∀ w, (writeReg p s.lees r v (s.marked w)).2 = g (s.marked w)) :
    s.act (busWrite p off true v s.lees) = .next (s.afterWrite off g) := by
  refine regWrite_now v g writable aligned register ?_
  obtain ⟨w, kicked⟩ := kickAt_eq off s.start
  rw [kicked]
  exact effect w

/-! ### SEQ[s].CTRL -/

theorem ofOffset_seqCtrl (q : SeqId) : Reg.ofOffset (0x50010 + 0x400 * q.val) = .seq q.val 0x10 := by
  rw [← ofOffset_seq q.isLt (o := 0x10) (by omega)]
  congr 1
  omega

section
variable (p : Path) (lees : List Host.Cell) (q : SeqId) (b : Block)

theorem writeReg_seqLoad : (writeReg p lees (.seq q.val 0x10) 8 b).2 = seqLoad q b := by
  show (writeSeqCtrl lees q.val 8 b).2 = _
  simp only [writeSeqCtrl, finOf, q.isLt, dif_pos]
  rfl

theorem writeReg_seqUnload : (writeReg p lees (.seq q.val 0x10) 4 b).2 = seqUnload q b := by
  show (writeSeqCtrl lees q.val 4 b).2 = _
  simp only [writeSeqCtrl, finOf, q.isLt, dif_pos]
  rfl

theorem writeReg_seqStop : (writeReg p lees (.seq q.val 0x10) 2 b).2 = seqStop q b := by
  show (writeSeqCtrl lees q.val 2 b).2 = _
  simp only [writeSeqCtrl, finOf, q.isLt, dif_pos]
  rfl

theorem writeReg_seqStart : (writeReg p lees (.seq q.val 0x10) 1 b).2 = seqStart lees q b := by
  show (writeSeqCtrl lees q.val 1 b).2 = _
  simp only [writeSeqCtrl, finOf, q.isLt, dif_pos]
  rfl

end

section
variable {s : State} {p : Path} {q : SeqId} (writable : s.blk.Writable p (0x50010 + 0x400 * q.val)) {g : Block → Block}
include writable

theorem exec_seqLoad (effect : ∀ w, seqLoad q (s.marked w) = g (s.marked w)) :
    exec (.seqLoad p q) s = .next (s.afterWrite (0x50010 + 0x400 * q.val) g) :=
  regWrite_kicked 8 g writable (by omega) (ofOffset_seqCtrl q) fun w => (writeReg_seqLoad p s.lees q _).trans (effect w)

theorem exec_seqUnload (effect : ∀ w, seqUnload q (s.marked w) = g (s.marked w)) :
    exec (.seqUnload p q) s = .next (s.afterWrite (0x50010 + 0x400 * q.val) g) :=
  regWrite_kicked 4 g writable (by omega) (ofOffset_seqCtrl q) fun w => (writeReg_seqUnload p s.lees q _).trans (effect w)

theorem exec_seqStop (effect : ∀ w, seqStop q (s.marked w) = g (s.marked w)) :
    exec (.seqStop p q) s = .next (s.afterWrite (0x50010 + 0x400 * q.val) g) :=
  regWrite_kicked 2 g writable (by omega) (ofOffset_seqCtrl q) fun w => (writeReg_seqStop p s.lees q _).trans (effect w)

end

/-! ### LOAD (R66 to R70) -/

/-- A LOAD that is accepted, behind those accepted before it. -/
def takeLoad (q : SeqId) (b : Block) : Block :=
  let b := b.modSeq q fun y => { y with
    st := .loading, loadCount := y.loadCount + 1, loadStatus := 0x06, loadDetail := 0, loadWord := 0 }
  { b with loader := { b.loader with queue := b.loader.queue ++ [q.val] } }

section
variable {q : SeqId} {b : Block}

/-- A LOAD of an IDLE sequencer whose context runs is accepted, and begins when it is the first (R66, R68). -/
theorem seqLoad_accepted (idle : (b.seq q).st = .idle) (owned : (b.seq q).ownerValid = true)
    (runs : (b.ctx (b.seq q).owner.val).st = .running) :
    seqLoad q b = if b.loader.queue.isEmpty then loaderBegin (takeLoad q b) else takeLoad q b := by
  unfold seqLoad
  simp only [idle, owned, ctxRuns, runs]
  rfl

theorem seqLoad_busy (state : (b.seq q).st ≠ .idle) : seqLoad q b = b.modSeq q fun y => { y with ctrlStatus := 0x02 } :=
  if_pos state

theorem seqLoad_access (idle : (b.seq q).st = .idle)
    (barred : (b.seq q).ownerValid = false ∨ (b.ctx (b.seq q).owner.val).st ≠ .running) :
    seqLoad q b = b.modSeq q fun y => { y with ctrlStatus := 0x08 } := by
  unfold seqLoad
  refine (if_neg (not_not.mpr idle)).trans (if_pos ?_)
  rcases barred with unowned | stands
  · exact .inl (by rw [unowned]; rfl)
  · exact .inr (by simpa [ctxRuns] using stands)

/-- The load that ends leaves the queue, and the next one begins (R68). -/
def endLoad (b : Block) : Block :=
  let b := { b with loader := { b.loader with queue := b.loader.queue.drop 1, grans := [], asked := [] } }
  if b.loader.queue.isEmpty then b else loaderBegin b

section
variable (head : b.loader.queue.head? = some q.val) (read : loadRead b q = true)
include head read

/-- A load that its checks refuse (R67). -/
theorem coreLoadChecksEnd_refused {d w : Nat} (refused : loadChecks b q = .refused d w) :
    coreLoadChecksEnd q b = endLoad (b.modSeq q fun x =>
      { x with st := .idle, loadStatus := 0x07, loadDetail := BitVec.ofNat 8 d, loadWord := BitVec.ofNat 16 w }) := by
  unfold coreLoadChecksEnd
  simp only [loadHead, head, read, refused, loadStatus, Block.modSeq_modSeq, ne_eq, not_true, Bool.not_true,
    Bool.false_eq_true, or_self, if_false]
  rfl

/-- A load that fits takes its reservations (R70). -/
theorem coreLoadChecksEnd_fits {ws : List Quad} {cl : List (Nat × Group)} {sb n : Nat}
    (fits : loadChecks b q = .fits ws cl sb n) :
    coreLoadChecksEnd q b = endLoad ((takeProgram q ws cl sb n b).modSeq q fun x =>
      { x with loadStatus := 0x00, loadDetail := 0, loadWord := 0 }) := by
  unfold coreLoadChecksEnd
  simp only [loadHead, head, read, fits, loadStatus, ne_eq, not_true, Bool.not_true, Bool.false_eq_true, or_self, if_false]
  rfl

end

/-- The drain of an UNLOAD ends (R59). -/
theorem coreUnloadDrainDone_quiet (halted : (b.seq q).st = .halted) (drains : (b.seq q).draining = true)
    (quiet : programQuiet b q = true) : coreUnloadDrainDone q b = releaseProgram q b :=
  if_pos ⟨halted, drains, quiet⟩

/-- The program of a sequencer that a load fitted. -/
theorem takeProgram_seq (ws : List Quad) (cl : List (Nat × Group)) (sb n : Nat) :
    ((takeProgram q ws cl sb n b).seq q).words = ws ∧ ((takeProgram q ws cl sb n b).seq q).pc = 0 ∧
    ((takeProgram q ws cl sb n b).seq q).g = [] ∧ ((takeProgram q ws cl sb n b).seq q).groups = cl.map (fun c => c.1) ∧
    ((takeProgram q ws cl sb n b).seq q).slotBytes = sb := by
  unfold takeProgram
  simp only [Block.modSeq_seq, and_self]

end

/-- Units that return to the power manager leave every sequencer. -/
theorem returnUnits_seq (u : Nat) (b : Block) (q : Nat) : (returnUnits u b).seq q = b.seq q := by
  obtain ⟨w, o, back, -⟩ := returnUnits_eq u b
  rw [back]
  rfl

/-- Units that come back change what a sequencer lent and owes. -/
theorem returnLent_seq (p u : Nat) (b : Block) (q : Nat) : ∃ x y,
    (returnLent p u b).seq q = { b.seq q with permitLent := x, permitOwed := y } := by
  simp only [returnLent, returnUnits_seq]
  by_cases own : q = p
  · subst own
    rw [Block.modSeq_seq]
    exact ⟨_, _, rfl⟩
  · rw [Block.modSeq_seq_other _ _ _ _ own]
    exact ⟨_, _, rfl⟩

/-- The collective engine's rest returns what is lent, and leaves every program. -/
theorem pressRest_seq (b : Block) (q : Nat) : ∃ x y,
    (pressRest b).seq q = { b.seq q with permitLent := x, permitOwed := y } := by
  unfold pressRest
  split
  · simp only
    split
    · rw [returnUnits_seq]
      exact returnLent_seq _ _ _ q
    · rw [returnUnits_seq]
      exact ⟨_, _, rfl⟩
  · exact ⟨_, _, rfl⟩

/-- The sequencer of a program that is released (R59). -/
theorem releaseProgram_seq (q : Nat) (b : Block) :
    ((releaseProgram q b).seq q).st = .idle ∧ ((releaseProgram q b).seq q).words = [] ∧
    ((releaseProgram q b).seq q).engines = [] ∧ ((releaseProgram q b).seq q).slotBytes = 0 := by
  unfold releaseProgram
  simp only
  obtain ⟨x, y, rest⟩ := pressRest_seq ((Block.each (b.seq q).groups dropClaim
    (b.each (b.seq q).engines fun e b => b.modRack e fun r => { r with reservedBy := none })).modSeq q fun s =>
      { s with st := .idle, draining := false, words := [], engines := [], instances := 0, instSet := [], groups := []
               slotBytes := 0, started := false, hold := .none, stopPending := false, freezePending := false }) q
  rw [rest, Block.modSeq_seq]
  exact ⟨rfl, rfl, rfl, rfl⟩

/-! ### START (R60, R61) -/

/-- The block as a START finds it: unlike other commands it may lie in the cycle of a STOP (log 90). -/
def State.sameCycle (s : State) (w : Bool) : Block := { newBoundary { s.blk with out := [] } with kicked := w }

/-- A START taken at once. -/
theorem exec_seqStart {s : State} {p : Path} {q : SeqId} (writable : s.blk.Writable p (0x50010 + 0x400 * q.val))
    {g : Block → Block} (effect : ∀ w, seqStart s.lees q (s.sameCycle w) = g (s.sameCycle w)) :
    exec (.seqStart p q) s = .next (s.afterStart q g) := by
  have open' : (newBoundary { s.blk with out := [] }).Writable p (0x50010 + 0x400 * q.val) := writable
  have wrote : busWrite p (0x50010 + 0x400 * q.val) true 1 s.lees (newBoundary { s.blk with out := [] }) =
      g (kickAt (0x50010 + 0x400 * q.val) (newBoundary { s.blk with out := [] })) := by
    rw [busWrite_now 1 s.lees open' (by omega), ofOffset_seqCtrl, writeReg_seqStart]
    obtain ⟨w, kicked⟩ := kickAt_eq (0x50010 + 0x400 * q.val) (newBoundary { s.blk with out := [] })
    rw [kicked]
    exact effect w
  show Host.Outcome.next (s.run _) = .next (s.run _)
  unfold State.run
  simp only [wrote]

section
variable {lees : List Host.Cell} {q : SeqId} {b : Block}

/-- The owning context of a sequencer is frozen or being reset. -/
theorem ownerFrozen_iff : ownerFrozen b q = true ↔ (b.seq q).ownerValid = true ∧
    ((b.ctx (b.seq q).owner.val).st = .frozen ∨ (b.ctx (b.seq q).owner.val).st = .resetting) := by
  simp only [ownerFrozen, ownerOf, Bool.and_eq_true, Bool.or_eq_true, beq_iff_eq]

/-- A START in the cycle of a STOP to the same sequencer is refused (R61). -/
theorem seqStart_stopped (stopped : b.stopped = some q) :
    seqStart lees q b = b.modSeq q fun y => { y with ctrlStatus := 0x02 } :=
  if_pos stopped

section
variable (apart : b.stopped ≠ some q)
include apart

/-- A START under a frozen context is refused (R60). -/
theorem seqStart_frozen (frozen : ownerFrozen b q = true) :
    seqStart lees q b = b.modSeq q fun y => { y with ctrlStatus := 0x08 } :=
  (if_neg apart).trans (if_pos frozen)

section
variable (thawed : ¬ ownerFrozen b q = true)
include thawed

/-- A START in another state, or of a sequencer that drains, is refused (R60). -/
theorem seqStart_busy (state : ((b.seq q).st ≠ .loaded ∧ (b.seq q).st ≠ .halted) ∨ (b.seq q).draining = true) :
    seqStart lees q b = b.modSeq q fun y => { y with ctrlStatus := 0x02 } :=
  (if_neg apart).trans ((if_neg thawed).trans (if_pos state))

/-- A START of a LOADED or HALTED sequencer runs it (R60, R63). -/
theorem seqStart_runs (state : (b.seq q).st = .loaded ∨ (b.seq q).st = .halted) (rests : (b.seq q).draining = false) :
    seqStart lees q b =
      let b' := traceEvent 3 0 0 (b.seq q).tag q (b.seq q).owner.val 0 (b.seq q).pc.toNat (b.modSeq q fun y =>
        { y with st := .running, started := true, stopPending := false, ctrlStatus := 0x00 })
      compatBoundary lees q (if (b.seq q).started then b' else b'.each (b.seq q).groups (firstCredits q)) := by
  have ready : ¬ (((b.seq q).st ≠ .loaded ∧ (b.seq q).st ≠ .halted) ∨ (b.seq q).draining = true) := by
    rw [rests, not_or]
    exact ⟨fun ⟨load, halt⟩ => state.elim load halt, Bool.false_ne_true⟩
  refine (if_neg apart).trans ((if_neg thawed).trans ((if_neg ready).trans ?_))
  simp only [ctrlStatus, Block.modSeq_modSeq]
  rfl

end
end

/-! ### STOP and UNLOAD (R57 to R59, R113, R114) -/

/-- What every STOP does. -/
def markStop (q : SeqId) (b : Block) : Block := { b.modSeq q fun y => { y with ctrlStatus := 0x00 } with stopped := some q }

/-- STOP in another state reads OK (R57). -/
theorem seqStop_idle (running : (b.seq q).st ≠ .running) (waiting : (b.seq q).st ≠ .waiting) :
    seqStop q b = markStop q b :=
  if_pos ⟨running, waiting⟩

section
variable (state : (b.seq q).st = .running ∨ (b.seq q).st = .waiting)
include state

/-- STOP of a sequencer that waits after issue (R114). -/
theorem seqStop_pends (held : (b.seq q).hold = .result ∨ (b.seq q).hold = .watch) :
    seqStop q b = (markStop q b).modSeq q fun y => { y with stopPending := true } :=
  (if_neg fun ⟨running, waiting⟩ => state.elim running waiting).trans (if_pos held)

/-- STOP of any other sequencer that runs or waits (R113). -/
theorem seqStop_halts (result : (b.seq q).hold ≠ .result) (watch : (b.seq q).hold ≠ .watch) :
    seqStop q b = dropHolding q ((markStop q b).modSeq q fun y => { y with st := .halted, hold := .none }) :=
  (if_neg fun ⟨running, waiting⟩ => state.elim running waiting).trans (if_neg fun held => held.elim result watch)

end

/-- UNLOAD of a LOADED or HALTED sequencer starts its drain (R58). -/
theorem seqUnload_drains (state : (b.seq q).st = .loaded ∨ ((b.seq q).st = .halted ∧ (b.seq q).draining = false)) :
    seqUnload q b = (dropHolding q (b.modSeq q fun y =>
      { y with st := .halted, draining := true, faultValid := false, faultPc := 0, faultStatus := 0 })).modSeq q fun y =>
        { y with ctrlStatus := 0x00 } := by
  unfold seqUnload
  rcases state with load | ⟨halt, rests⟩
  · simp only [load, reduceCtorEq, false_and, if_false, true_or, if_true]
    rfl
  · simp only [halt, rests, Bool.false_eq_true, and_false, if_false, or_true, if_true]
    rfl

/-- UNLOAD of a sequencer that drains already (R59). -/
theorem seqUnload_again (halt : (b.seq q).st = .halted) (drains : (b.seq q).draining = true) :
    seqUnload q b = b.modSeq q fun y => { y with ctrlStatus := 0x00 } :=
  if_pos ⟨halt, drains⟩

/-- UNLOAD in another state is refused (R58). -/
theorem seqUnload_busy (load : (b.seq q).st ≠ .loaded) (halt : (b.seq q).st ≠ .halted) :
    seqUnload q b = b.modSeq q fun y => { y with ctrlStatus := 0x02 } :=
  (if_neg fun drains => halt drains.1).trans (if_neg fun state => state.elim load halt)

end

end Sys2Proof.Machine

open Sys2Proof Sys2Proof.Machine

/-- Settles O20: the checks of a bus write one after another. -/
theorem registerWriteForms : Obligations.RegisterWriteForms := by
  intro s p off v o latch start
  have act (z : Bool) := exec_registerWrite_act (p := p) (s := s) z latch start
  refine ⟨fun early z => ?early, fun ready z shape => ?misshapen, fun ready aligned barred => ?barred,
    fun ready aligned allowed dp known stands => ?waits, fun writable aligned => ?now, kickAt_dp, fun plain => ?plain,
    fun n => mayWrite_sec, fun n => mayWrite_lees, fun lock n => mayWrite_locked lock⟩
  case early => exact (act z).trans (act_eq (busWrite_early (b := s.start) early))
  case misshapen => exact (act z).trans (act_eq (busWrite_misshapen (b := s.start) ready shape))
  case barred => exact (act true).trans (act_eq (busWrite_barred (b := s.start) ready aligned barred))
  case waits =>
    have waits : mustWait s.start o = true := by simp [mustWait, dp, known, Block.dpRuns, stands]
    exact (act true).trans (act_eq (busWrite_waits (b := s.start) ready aligned allowed waits))
  case now => exact (act true).trans (regWrite_now v (fun b => (writeReg p s.lees (Reg.ofOffset o) v b).2) writable aligned rfl rfl)
  case plain =>
    rcases plain with domain | unassigned
    · exact kickAt_plain domain
    · simp only [kickAt, unassigned, Bool.and_false, Bool.false_eq_true, if_false]

/-- Settles O21: a LOAD by its sequencer and its context, its end by its checks, and the end of a drain. -/
theorem loadsAreTakenAndEnd : Obligations.LoadsAreTakenAndEnd := by
  refine ⟨fun s p q writable => ?load, fun s q => ?ends⟩
  case load =>
    intro x taken
    refine ⟨fun idle owned runs empty => exec_seqLoad writable fun w => ?first,
      fun idle owned runs more => exec_seqLoad writable fun w => ?behind,
      fun state => exec_seqLoad writable fun w => seqLoad_busy (b := s.marked w) state,
      fun idle barred => exec_seqLoad writable fun w => seqLoad_access (b := s.marked w) idle barred⟩
    case first =>
      refine (seqLoad_accepted (b := s.marked w) idle owned runs).trans (if_pos ?_)
      exact List.isEmpty_iff.mpr empty
    case behind =>
      refine (seqLoad_accepted (b := s.marked w) idle owned runs).trans (if_neg ?_)
      exact mt List.isEmpty_iff.mp more
  case ends =>
    exact ⟨fun d w head read refused => act_eq (coreLoadChecksEnd_refused head read refused),
      fun ws cl sb n head read fits => act_eq (coreLoadChecksEnd_fits head read fits),
      fun halted drains quiet => act_eq (coreUnloadDrainDone_quiet (b := s.start) halted drains quiet),
      fun b ws cl sb n => takeProgram_seq ws cl sb n, fun b => releaseProgram_seq q b⟩

/-- Settles O22, by the sequencer's state, what it holds for and its context. -/
theorem startStopAndUnload : Obligations.StartStopAndUnload := by
  refine ⟨fun s p q writable => ?start, fun s p q writable => ?rest⟩
  case start =>
    intro x frozen
    have owner (w : Bool) : ownerFrozen (s.sameCycle w) q = true ↔ frozen := ownerFrozen_iff
    exact ⟨fun apart thawed state rests => exec_seqStart writable fun w =>
        seqStart_runs (b := s.sameCycle w) apart (mt (owner w).mp thawed) state rests,
      fun apart thawed state => exec_seqStart writable fun w =>
        seqStart_busy (b := s.sameCycle w) apart (mt (owner w).mp thawed) state,
      fun apart frozen => exec_seqStart writable fun w => seqStart_frozen (b := s.sameCycle w) apart ((owner w).mpr frozen),
      fun stopped => exec_seqStart writable fun w => seqStart_stopped (b := s.sameCycle w) stopped⟩
  case rest =>
    intro x status stop
    exact ⟨fun state result watch => exec_seqStop writable fun w => seqStop_halts (b := s.marked w) state result watch,
      fun state held => exec_seqStop writable fun w => seqStop_pends (b := s.marked w) state held,
      fun running waiting => exec_seqStop writable fun w => seqStop_idle (b := s.marked w) running waiting,
      fun state => exec_seqUnload writable fun w => seqUnload_drains (b := s.marked w) state,
      fun halt drains => exec_seqUnload writable fun w => seqUnload_again (b := s.marked w) halt drains,
      fun load halt => exec_seqUnload writable fun w => seqUnload_busy (b := s.marked w) load halt⟩

end

section
/-!
PROOFS. The tally unit (02_programs_sequencers_tallies.md) and the portal (04_remote_access_memory_model.md).
-/

namespace Sys2Proof.Machine

/-! ### The tally unit -/

/-- A cycle of the tally unit while the datapath clock stands does nothing. -/
theorem coreTallyUpdate_stands {b : Block} (stands : b.pwr.dp ≠ .running) : coreTallyUpdate b = b := by
  have off : b.dpRuns = false := by simpa [Block.dpRuns] using stands
  simp only [coreTallyUpdate, off, Bool.not_false, if_true]

/-- The increments that a cycle applies, and the tallies they name. -/
def goodIncrs (b : Block) : List Incr := b.tally.incs.filter fun i => !incrRefused b i

/-- Increments of at most four tallies are all applied in one cycle (R735). -/
theorem coreTallyUpdate_few {b : Block} (runs : b.pwr.dp = .running)
    (few : ((goodIncrs b).map incrKey).eraseDups.length ≤ 4) :
    coreTallyUpdate b =
      let b' := b.each (b.tally.incs.filter (incrRefused b)) fun i b => b.modCtx i.ctx fun x => { x with dropped := x.dropped + 1 }
      let b' := { b' with
        tally := { tallies := (goodIncrs b).foldl (fun t i => tmod 0 t (incrKey i) fun v => addIncr v i) b'.tally.tallies, incs := [] }
        util := { b'.util with tallyIncrements := b'.util.tallyIncrements + w64 (goodIncrs b).length } }
      b'.each ((goodIncrs b).map incrKey).eraseDups wakeWaits := by
  have on : b.dpRuns = true := by simp [Block.dpRuns, runs]
  have named : ∀ i ∈ goodIncrs b, ((goodIncrs b).map incrKey).eraseDups.contains (incrKey i) = true := fun i good =>
    List.contains_iff_mem.mpr (List.mem_eraseDups.mpr (List.mem_map_of_mem good))
  have all : (goodIncrs b).filter (fun i => ((goodIncrs b).map incrKey).eraseDups.contains (incrKey i)) = goodIncrs b :=
    List.filter_eq_self.mpr named
  have none : (goodIncrs b).filter (fun i => !((goodIncrs b).map incrKey).eraseDups.contains (incrKey i)) = [] :=
    List.filter_eq_nil_iff.mpr fun i good => by simp only [named i good, Bool.not_true, Bool.false_eq_true, not_false_eq_true]
  unfold goodIncrs at few all none ⊢
  unfold coreTallyUpdate
  simp only [on, Bool.not_true, Bool.false_eq_true, if_false]
  rw [List.take_of_length_le few, all, none]

/-- An increment adds to COUNT modulo 2^63, with ERROR sticky (R76, R77). -/
theorem addIncr_parts (v : Word) (i : Incr) :
    (addIncr v i).toNat % 2 ^ 63 = (v.toNat % 2 ^ 63 + i.amount) % 2 ^ 63 ∧
    bitAt (addIncr v i) 63 = (bitAt v 63 || i.err) := by
  have count : (v.toNat % 2 ^ 63 + i.amount) % 2 ^ 63 < 2 ^ 63 := Nat.mod_lt _ (by decide)
  unfold addIncr
  generalize (v.toNat % 2 ^ 63 + i.amount) % 2 ^ 63 = n at count ⊢
  cases bitAt v 63 || i.err
  · have low : (w64 n).toNat = n := by rw [w64, BitVec.toNat_ofNat]; omega
    exact ⟨by simpa [low] using Nat.mod_eq_of_lt count, by
      simpa [bitAt, BitVec.getLsbD, low] using Nat.testBit_lt_two_pow count⟩
  · have high : (w64 (n + 2 ^ 63)).toNat = 2 ^ 63 + n := by rw [w64, BitVec.toNat_ofNat]; omega
    refine ⟨?_, ?_⟩
    · rw [if_pos rfl, high]
      omega
    · rw [if_pos rfl, bitAt, BitVec.getLsbD, high, Nat.testBit_two_pow_add_eq, Nat.testBit_lt_two_pow count]
      rfl

/-- What the tally unit discards (R86). -/
theorem incrRefused_iff (b : Block) (i : Incr) : incrRefused b i = true ↔
    (b.ctx i.ctx).st ≠ .running ∨ (b.ctx i.ctx).valid = false ∨ ∃ p, i.part = some p ∧ (b.ctx i.ctx).part.val ≠ p := by
  unfold incrRefused
  cases i.part <;> simp [or_assoc]

/-! ### Tile requests (R175 to R183) -/

/-- The command that presents a tile request. -/
def tileExec (r : TileReq) (s : State) : Host.Outcome State Fault Refusal :=
  match r.kind with
  | .load size => exec (.tileLoad r.ch r.hdr size) s
  | .store mask data t => exec (.tileStore r.ch r.hdr mask data t) s
  | .atomic aop ty res opnd cmp t => exec (.tileAtomic r.ch r.hdr aop ty res opnd cmp t) s
  | .signal amount t => exec (.tileSignal r.ch r.hdr amount t) s
  | .fenceLocal => exec (.fenceLocal r.ch r.hdr) s
  | .fenceRemote => exec (.fenceRemote r.ch r.hdr) s

theorem tileExec_eq (r : TileReq) (s : State) : tileExec r s = s.act (coreTile r) := by
  obtain ⟨ch, hdr, kind⟩ := r
  cases kind <;> rfl

/-- A tile request that is a fence. -/
def TileReq.fences (r : TileReq) : Prop := r.kind = .fenceLocal ∨ r.kind = .fenceRemote

/-- The address of a tile request; a fence has none. -/
def TileReq.va (r : TileReq) : Word :=
  match r.kind with
  | .fenceLocal | .fenceRemote => 0
  | _ => r.hdr.va.setWidth 64

/-- A tile request that has taken its tag and is counted (R177). -/
def takeTile (r : TileReq) (tag : Nat) (key : Option Nat) (b : Block) : Block :=
  let c := r.hdr.ctx.val
  { b with
    util := { b.util with portalRequests := b.util.portalRequests + 1 }
    portal := { b.portal with reqs := b.portal.reqs ++
      [{ tag, src := .tile r.ch r.hdr.txn r.hdr.rid, ctx := c, part := (b.ctx c).part, op := (tileOp r).1, va := r.va,
         hint := r.hdr.hint, dt := (tileOp r).2, gd := 0, stage := .fenced, key, weight := false, node := 0, off := 0, dctx := 0 }] }
    ctxs := tmod {} b.ctxs c fun x => { x with tagsHeld := x.tagsHeld + 1 } }

section
variable {r : TileReq} {b : Block}

/-- A request behind an earlier one of its requester is held on the port (R178). -/
theorem coreTile_behind (runs : b.dpRuns = true) (held : heldBefore b r = true) : coreTile r b = holdTile r b :=
  (if_pos runs).trans (if_pos (.inl held))

/-- A request that may not be accepted yet is held on the port (R178). -/
theorem coreTile_full (runs : b.dpRuns = true) (full : canAccept b r = false) : coreTile r b = holdTile r b :=
  (if_pos runs).trans (if_pos (.inr (by rw [full]; rfl)))

/-- Another request is accepted. -/
theorem coreTile_accepted (runs : b.dpRuns = true) (first : heldBefore b r = false) (room : canAccept b r = true) :
    coreTile r b = acceptTile r b :=
  (if_pos runs).trans (if_neg (by simp only [first, room, Bool.false_eq_true, Bool.not_true, or_self, not_false_eq_true]))

theorem ctxServes_iff {c : Nat} : ctxServes b c = true ↔ (b.ctx c).valid = true ∧ (b.ctx c).st = .running := by
  simp only [ctxServes, ctxRuns, Bool.and_eq_true, beq_iff_eq]

/-- A request of a context that does not run is refused (R182). -/
theorem acceptTile_refused (barred : ¬ ctxServes b r.hdr.ctx.val = true) :
    acceptTile r b = pushResp r.ch r.hdr.txn none .access 0
      { b with util := { b.util with portalRequests := b.util.portalRequests + 1 } } := by
  have stands : (!ctxServes b r.hdr.ctx.val) = true := by rwa [Bool.not_eq_true', ← Bool.not_eq_true]
  unfold acceptTile
  exact if_pos stands

/-- The count of requests leaves the contexts and the key slots. -/
theorem Block.ctx_util (b : Block) (u : Util) (c : Nat) : ({ b with util := u } : Block).ctx c = b.ctx c := rfl

theorem currentSlot_util (b : Block) (u : Util) (p : Nat) : currentSlot { b with util := u } p = currentSlot b p := rfl

/-- A context that serves is not refused. -/
theorem not_refused {x : Bool} (serves : x = true) : ¬ (!x) = true := by simp only [serves, Bool.not_true, Bool.false_eq_true, not_false_eq_true]

section
variable (serves : ctxServes b r.hdr.ctx.val = true)
include serves

/-- A request with an error of its own fails (R181). -/
theorem acceptTile_bad (bad : tileBad r = true) :
    acceptTile r b = portalFail (tileTag b) .access 1 (r.hdr.rid.toNat % 64) (takeTile r (tileTag b) none b) := by
  obtain ⟨ch, hdr, kind⟩ := r
  unfold acceptTile
  refine (if_neg (not_refused serves)).trans ?_
  simp only [bad, if_true]
  cases kind <;> rfl

/-- A fence goes on (R200, R201). -/
theorem acceptTile_fence (good : tileBad r = false) (fence : r.fences) :
    acceptTile r b = portalGo (tileTag b) (takeTile r (tileTag b) none b) := by
  obtain ⟨ch, hdr, kind⟩ := r
  unfold acceptTile
  refine (if_neg (not_refused serves)).trans ?_
  simp only [good, Bool.false_eq_true, if_false]
  rcases fence with rfl | rfl <;> rfl

/-- A request of a partition with a current slot holds its key and is metered (R397, R573). -/
theorem acceptTile_keyed (good : tileBad r = false) (op : ¬ r.fences) {k : Nat}
    (current : currentSlot b (b.ctx r.hdr.ctx.val).part.val = some k) :
    acceptTile r b = meterTile (tileTag b) (refSlot k (takeTile r (tileTag b) (some k) b)) := by
  obtain ⟨ch, hdr, kind⟩ := r
  unfold acceptTile
  refine (if_neg (not_refused serves)).trans ?_
  cases kind
  case fenceLocal => exact absurd (.inl rfl) op
  case fenceRemote => exact absurd (.inr rfl) op
  all_goals
    simp only [tileOp, good, Bool.not_false, if_true, Block.ctx_util, currentSlot_util, current]
    rfl

/-- A request of a partition without one fails (R740). -/
theorem acceptTile_noKey (good : tileBad r = false) (op : ¬ r.fences)
    (current : currentSlot b (b.ctx r.hdr.ctx.val).part.val = none) :
    acceptTile r b = portalFail (tileTag b) .keyRetired 6 0xFF (takeTile r (tileTag b) none b) := by
  obtain ⟨ch, hdr, kind⟩ := r
  unfold acceptTile
  refine (if_neg (not_refused serves)).trans ?_
  cases kind
  case fenceLocal => exact absurd (.inl rfl) op
  case fenceRemote => exact absurd (.inr rfl) op
  all_goals
    simp only [tileOp, good, Bool.not_false, if_true, Block.ctx_util, currentSlot_util, current]
    rfl

end
end

/-! ### A request that goes on (R200, R201, R573) -/

section
variable {b : Block} {r : PReq} (held : b.req r.tag = some r)
include held

/-- A request that is no fence waits behind an open fence of its requester (R200, R201). -/
theorem portalGo_op (op : ∀ k, r.op ≠ .fence k) : portalGo r.tag b =
    if (earlierReqs b r).any (fun x => isFence x && x.stage != .done) then b else portalXlat r.tag b := by
  have plain : isFence r = false := by
    unfold isFence
    split
    · exact absurd ‹_› (op _)
    · rfl
  unfold portalGo
  simp only [held, plain, Bool.false_eq_true, if_false]

/-- A request that stays on this node, whose home no TLB shows, or that is a fence is not metered at its acceptance. -/
theorem meterTile_unmetered (home : knownHome b r = none ∨ knownHome b r = some b.route.self.toNat ∨ isFence r = true) :
    meterTile r.tag b = portalGo r.tag b := by
  unfold meterTile
  simp only [held]
  split
  · rfl
  · rename_i n known
    refine if_pos ?_
    rcases home with none | own | fence
    · rw [known] at none; cases none
    · rw [known] at own; cases own; exact .inl rfl
    · exact .inr fence

section
variable {n : Nat} {b' : Block} (known : knownHome b r = some n) (away : n ≠ b.route.self.toNat) (op : isFence r = false)
include known away op

/-- A request whose meter passes it remembers its queue (R573). -/
theorem meterTile_queue {q : Nat} (passed : meterPacket (ctxQueue r.ctx 0) (48 + (reqPacket r).2.2.length) b = (.queue q, b')) :
    meterTile r.tag b = portalGo r.tag (b'.modReq r.tag fun r => { r with queued := some q }) := by
  have leaves : ¬ (n = b.route.self.toNat ∨ isFence r = true) := by simp [away, op]
  unfold meterTile
  simp only [held, known]
  rw [if_neg leaves, passed]

/-- A request that is red at its meter is refused (R575, R576). -/
theorem meterTile_red {m : Nat} (red : meterPacket (ctxQueue r.ctx 0) (48 + (reqPacket r).2.2.length) b = (.red m, b')) :
    meterTile r.tag b = finishReq r.tag .notReady 0 (b'.modMeter m fun mt => { mt with refused := mt.refused + 1 }) := by
  have leaves : ¬ (n = b.route.self.toNat ∨ isFence r = true) := by simp [away, op]
  unfold meterTile
  simp only [held, known]
  rw [if_neg leaves, red]
  rfl

end
end

/-- The start of a stopped clock is counted (R590). -/
theorem startClock_stopped {b : Block} (stopped : b.pwr.dp = .stopped) :
    (startClock b).pwr.dp = .starting ∧ (startClock b).pwr.dpStarts = b.pwr.dpStarts + 1 := by
  simp [startClock, stopped, kick]

/-- What is wrong with a LOAD (Table 4.3). -/
theorem tileBad_load (ch : Chan) (h : TileHdr) (size : BitVec 3) : tileBad { ch, hdr := h, kind := .load size } = true ↔
    h.hint = 3 ∨ 6 < size.toNat ∨ h.va.toNat % 2 ^ size.toNat ≠ 0 := by
  simp [tileBad, or_assoc]

/-- What is wrong with a SIGNAL (Table 4.3). -/
theorem tileBad_signal (ch : Chan) (h : TileHdr) (n : BitVec 16) (t : TileTally) :
    tileBad { ch, hdr := h, kind := .signal n t } = true ↔ h.hint = 3 ∨ n = 0 := by
  simp [tileBad]

/-- What is wrong with a fence (Table 4.3). -/
theorem tileBad_fence (ch : Chan) (h : TileHdr) : tileBad { ch, hdr := h, kind := .fenceLocal } = decide (h.hint = 3) ∧
    tileBad { ch, hdr := h, kind := .fenceRemote } = decide (h.hint = 3) :=
  ⟨rfl, rfl⟩

/-- A request while the clock stands is latched when it is its channel's first, and held otherwise (R678). -/
theorem coreTile_stands {b : Block} {r : TileReq} (stands : b.pwr.dp ≠ .running) : coreTile r b =
    if b.portal.latched.any (fun x => x.ch == r.ch) then holdTile r b
    else startClock { b with portal := { b.portal with latched := b.portal.latched ++ [r] } } :=
  if_neg (by simpa [Block.dpRuns] using stands)

/-! ### Held requests, responses and fences (R178, R202, R694) -/

/-- The first index at which a search succeeds. -/
theorem findSome?_range {α : Type} {f : Nat → Option α} {n i : Nat} {a : α} (inside : i < n) (found : f i = some a)
    (first : ∀ j < i, f j = none) : (List.range n).findSome? f = some a := by
  induction n with
  | zero => omega
  | succ n ih =>
    rw [List.range_succ, List.findSome?_append]
    rcases Nat.lt_succ_iff_lt_or_eq.mp inside with below | rfl
    · rw [ih below]
      rfl
    · have none : (List.range i).findSome? f = none :=
        List.findSome?_eq_none_iff.mpr fun j before => first j (List.mem_range.mp before)
      rw [none]
      simp [found]

section
variable {b : Block} {r : TileReq} {before after : List TileReq} (held : b.portal.heldReqs = before ++ r :: after)
  (oldest : ∀ x ∈ before, x.hdr.ctx ≠ r.hdr.ctx)
include held oldest

/-- The oldest held request of a context. -/
theorem heldReqs_find : (b.portal.heldReqs.find? fun x => x.hdr.ctx.val == r.hdr.ctx.val) = some r := by
  have others : before.find? (fun x => x.hdr.ctx.val == r.hdr.ctx.val) = none :=
    List.find?_eq_none.mpr fun x listed => by simpa [Fin.val_inj] using oldest x listed
  rw [held, List.find?_append, others]
  simp

/-- The requests held before and behind it. -/
theorem heldReqs_split : (b.portal.heldReqs.takeWhile fun x => x.hdr.ctx != r.hdr.ctx) = before ∧
    ((b.portal.heldReqs.dropWhile fun x => x.hdr.ctx != r.hdr.ctx).drop 1) = after := by
  have others : ∀ x ∈ before, (x.hdr.ctx != r.hdr.ctx) = true := fun x listed => bne_iff_ne.mpr (oldest x listed)
  rw [held, List.takeWhile_append_of_pos others, List.dropWhile_append_of_pos others]
  simp

/-- The request taken is the oldest of the first context in turn that has one and can take a tag (R178). -/
theorem corePortalHeldAccept_takes (runs : b.dpRuns = true) (room : canAccept b r = true)
    (turn : ∀ i < 16, (b.portal.rr + i) % 16 = r.hdr.ctx.val → ∀ j < i,
      ∀ x ∈ b.portal.heldReqs, x.hdr.ctx.val ≠ (b.portal.rr + j) % 16) :
    corePortalHeldAccept b = acceptTile r { b with portal := { b.portal with
      heldReqs := before ++ after, rr := (r.hdr.ctx.val + 1) % 16 } } := by
  obtain ⟨i, inside, reached⟩ : ∃ i < 16, (b.portal.rr + i) % 16 = r.hdr.ctx.val :=
    ⟨(r.hdr.ctx.val + 16 - b.portal.rr % 16) % 16, by omega, by omega⟩
  have pick : ((List.range 16).map fun i => (b.portal.rr + i) % 16).findSome? (fun c =>
      (b.portal.heldReqs.find? fun r => r.hdr.ctx.val == c).bind fun r => if canAccept b r then some r else none) = some r := by
    rw [List.findSome?_map]
    refine findSome?_range inside ?_ fun j earlier => ?_
    · simp [reached, heldReqs_find held oldest, room]
    · have none : (b.portal.heldReqs.find? fun x => x.hdr.ctx.val == (b.portal.rr + j) % 16) = none :=
        List.find?_eq_none.mpr fun x listed => by simpa using turn i inside reached j earlier x listed
      simp [none]
  obtain ⟨takes, leaves⟩ := heldReqs_split held oldest
  unfold corePortalHeldAccept
  simp only [runs, Bool.not_true, Bool.false_eq_true, if_false, pick, takes, leaves]

end

/-- A response taken frees its tag (R694). -/
theorem corePortalResponseTaken_found {b : Block} {r : PResp}
    (found : b.portal.resps.find? (fun x => x.ch == r.ch && x.txn == r.txn) = some r) :
    corePortalResponseTaken r.ch r.txn b =
      let b' := { b with portal := { b.portal with resps := b.portal.resps.filter fun x => x != r } }
      match r.tag with
      | some t => freeTag t b'
      | none => b' := by
  unfold corePortalResponseTaken
  simp only [found] <;> rfl

/-- A fence whose condition holds is answered, and what waited behind it goes on (R202). -/
theorem corePortalFenceComplete_done {b : Block} {tag : Nat} {r : PReq} (held : b.req tag = some r)
    (fence : isFence r = true) (open' : r.stage ≠ .done) (done : fenceDone b r = true) :
    corePortalFenceComplete tag b =
      (finishReq tag .ok 0 b).each (((b.portal.reqs.dropWhile fun x => x.tag != tag).drop 1).filter fun x =>
        sameRequester x r && x.stage == .fenced) fun x b => portalGo x.tag b := by
  unfold corePortalFenceComplete
  simp only [held]
  exact if_pos ⟨fence, open', done⟩

/-- A FENCE_REMOTE is done when all before it is answered (R200). -/
theorem fenceDone_remote {b : Block} {r : PReq} (remote : r.op = .fence true) :
    fenceDone b r = true ↔ ∀ x ∈ earlierReqs b r, x.stage = .done := by
  simp [fenceDone, remote]

end Sys2Proof.Machine

open Sys2Proof Sys2Proof.Machine

/-- Settles O23: with at most four tallies named none is left over. -/
theorem tallyUpdateAppliesIncrements : Obligations.TallyUpdateAppliesIncrements := by
  refine ⟨fun s runs => ?_, addIncr_parts, incrRefused_iff, fun s stands => act_eq (coreTallyUpdate_stands (b := s.start) stands)⟩
  intro good keys few
  exact act_eq (coreTallyUpdate_few (b := s.start) runs few)

/-- Settles O24: a request is held, refused or accepted, and one that is accepted goes by its own errors and its key. -/
theorem tileRequestsAreTaken : Obligations.TileRequestsAreTaken := by
  refine ⟨fun s r runs => ?taken, fun s ch h size stands => ?latched, fun b => startClock_stopped,
    fun b r held op => portalGo_op held op, fun b r held => ?metered, tileBad_fence, tileBad_load, tileBad_signal⟩
  case taken =>
    intro c present fence tag va serves taken
    have runs' : s.start.dpRuns = true := by simp [Block.dpRuns, runs]
    have presents : present s = s.act (coreTile r) := tileExec_eq r s
    have serving (good : serves) : ctxServes s.start r.hdr.ctx.val = true := ctxServes_iff.mpr good
    have blocked (good : serves) (full : tagFree s.blk c = false) : canAccept s.start r = false := by
      simpa [canAccept, serving good] using (show tagFree s.start r.hdr.ctx.val = false from full)
    have accepts (first : heldBefore s.blk r = false) (room : canAccept s.start r = true) {g : Block → Block}
        (effect : acceptTile r s.start = g s.start) : present s = .next (s.after g) :=
      presents.trans (act_eq ((coreTile_accepted runs' first room).trans effect))
    refine ⟨fun behind => presents.trans (act_eq (coreTile_behind runs' behind)),
      fun good full => presents.trans (act_eq (coreTile_full runs' (blocked good full))),
      fun first barred => ?refused, fun first good free => ?accepted⟩
    case refused =>
      have unserved : ¬ ctxServes s.start r.hdr.ctx.val = true := mt ctxServes_iff.mp barred
      exact accepts first (by simp [canAccept, unserved]) (acceptTile_refused unserved)
    case accepted =>
      have room : canAccept s.start r = true := Bool.or_eq_true_iff.mpr (.inr free)
      exact ⟨fun k op sound current => accepts first room (acceptTile_keyed (serving good) sound op current),
        fun op sound current => accepts first room (acceptTile_noKey (serving good) sound op current),
        fun bad => accepts first room (acceptTile_bad (serving good) bad),
        fun op sound => accepts first room (acceptTile_fence (serving good) sound op)⟩
  case latched =>
    intro r
    exact ⟨fun more => act_eq ((coreTile_stands (b := s.start) stands).trans (if_pos more)),
      fun first => act_eq ((coreTile_stands (b := s.start) stands).trans (if_neg (Bool.eq_false_iff.mp first)))⟩
  case metered =>
    exact ⟨meterTile_unmetered held, fun n b' known away op =>
      ⟨fun q passed => meterTile_queue held known away op passed, fun m red => meterTile_red held known away op red⟩⟩

/-- Settles O25: the request in turn is taken, a response frees its tag, and a fence that is done lets go. -/
theorem heldRequestsFencesAndResponses : Obligations.HeldRequestsFencesAndResponses := by
  intro s
  refine ⟨fun r before after runs held oldest room turn => act_eq ?_, fun r found => act_eq ?_,
    fun tag r held fence left done => act_eq (corePortalFenceComplete_done (b := s.start) held fence left done),
    fun b r => fenceDone_remote⟩
  · have runs' : s.start.dpRuns = true := by simp [Block.dpRuns, runs]
    exact corePortalHeldAccept_takes (b := s.start) held oldest runs' room turn
  · exact corePortalResponseTaken_found (b := s.start) found

end

section
/-!
PROOFS. Packets that pass the checks (11_packets_routing_flow.md), check 10 at the home node, the words of a request, and
the answers of the memory port (17_ports_integration.md).
-/

namespace Sys2Proof.Machine

/-! ### Packets that pass the checks -/

/-- A sound packet has left its buffer, with its MATCH record (R634). -/
def packetTaken (a : Arrival) (b : Block) : Block :=
  releaseIngress a.strait a.id (matchPacket true a.strait a.vc.val a.route a.phy b)

section
variable {a : Arrival} {b : Block} {k : Nat} (member : isMember b (rPart a.route) (rSrc a.route) = true)
  (slot : matchSlot b (rWeight a.route) (rKey a.route) (rPart a.route) = some k) (tag : a.tagOk = true) (whole : a.psn = false)
include member slot tag whole

/-- A sound COLL packet goes to the collective engine, with its MATCH record. -/
theorem takePacket_coll (coll : rType a.route = tyColl) :
    takePacket a b = takeColl a (matchPacket true a.strait a.vc.val a.route a.phy b) := by
  simp [takePacket, member, slot, tag, whole, coll]

section
variable (ext : extOk a.ext = true)
include ext

/-- A sound RESP that answers nothing held is late (R180). -/
theorem takePacket_late (type : rType a.route = tyResp) (lost : respHeld (packetTaken a b) a.route a.op = false) :
    takePacket a b = (packetTaken a b).modCtx (rDctx a.route) fun x => { x with late := x.late + 1 } := by
  unfold packetTaken at lost ⊢
  simp [takePacket, member, slot, tag, whole, ext, type, lost, tyColl, tyData, tyResp]

theorem takePacket_resp (type : rType a.route = tyResp) (held : respHeld (packetTaken a b) a.route a.op = true) :
    takePacket a b = takeResp a.route a.op a.payload (packetTaken a b) := by
  unfold packetTaken at held ⊢
  simp [takePacket, member, slot, tag, whole, ext, type, held, tyColl, tyData, tyResp]

theorem takePacket_signal (type : rType a.route = tySignal) : takePacket a b = takeSignal a k (packetTaken a b) := by
  simp [takePacket, packetTaken, member, slot, tag, whole, ext, type, tyColl, tyData, tyResp, tySignal]

theorem takePacket_read (type : rType a.route = tyRead) :
    takePacket a b = takeRead a k (refSlot k (packetTaken a b)) := by
  simp [takePacket, packetTaken, member, slot, tag, whole, ext, type, tyColl, tyData, tyResp, tySignal, tyRead]

theorem takePacket_write (type : rType a.route = tyWrite) :
    takePacket a b = takeWrite a k (refSlot k (packetTaken a b)) := by
  simp [takePacket, packetTaken, member, slot, tag, whole, ext, type, tyColl, tyData, tyResp, tySignal, tyRead, tyWrite]

theorem takePacket_atomic (type : rType a.route = tyAtomic) :
    takePacket a b = takeAtomic a k (refSlot k (packetTaken a b)) := by
  simp [takePacket, packetTaken, member, slot, tag, whole, ext, type, tyColl, tyData, tyResp, tySignal, tyRead, tyWrite,
    tyAtomic]

theorem takePacket_forward (type : rType a.route = tyForward) :
    takePacket a b = takeForward a k (refSlot k (packetTaken a b)) := by
  simp [takePacket, packetTaken, member, slot, tag, whole, ext, type, tyColl, tyData, tyResp, tySignal, tyRead, tyWrite,
    tyAtomic, tyForward]

theorem takePacket_data (type : rType a.route = tyData) :
    takePacket a b = takeData a k (refSlot k (packetTaken a b)) := by
  simp [takePacket, packetTaken, member, slot, tag, whole, ext, type, tyColl, tyData, tyResp, tySignal, tyRead, tyWrite,
    tyAtomic, tyForward]

end
end

/-- A CONTROL packet for this node leaves its buffer and is taken. -/
theorem arrive_control {a : Arrival} {b : Block} (sound : malformed a.route a.op = false)
    (closed : (b.bank (rEpoch a.route).toNat).st ≠ .opened) (here : rDst a.route = b.route.self.toNat)
    (control : rType a.route = tyControl) :
    arrive a true b = releaseIngress a.strait a.id (takeControl a b) := by
  simp [arrive, sound, closed, here, control]

/-- What a CONTROL packet is rejected for (R541). -/
def ctlRejects (a : Arrival) (b : Block) : Prop :=
  a.psn = true ∨ (fmSources b).contains (rSrc a.route) = false ∨ ctlZeros a.route a.op a.tag = false ∨ rLen a.route < 32 ∨
    ctlOk (ctlMsg a) (rLen a.route) = false

section
variable {a : Arrival} {b : Block}

/-- The condition of the model's rejection. -/
theorem ctlRejects_iff : ctlRejects a b ↔ (a.psn = true ∨ (!(fmSources b).contains (rSrc a.route)) = true ∨
    (!ctlZeros a.route a.op a.tag) = true ∨ rLen a.route < 32 ∨ (!ctlOk (ctlMsg a) (rLen a.route)) = true) := by
  simp only [ctlRejects, Bool.not_eq_true']

theorem takeControl_rejected (bad : ctlRejects a b) :
    takeControl a b = { b with fm := { b.fm with rejected := b.fm.rejected + 1 } } :=
  if_pos (ctlRejects_iff.mp bad)

theorem takeControl_dropped (good : ¬ ctlRejects a b) (full : 64 ≤ b.fm.queue.length) :
    takeControl a b = { b with route := { b.route with controlDrops := b.route.controlDrops + 1 } } :=
  (if_neg (mt ctlRejects_iff.mpr good)).trans (if_pos full)

theorem takeControl_queued (good : ¬ ctlRejects a b) (room : b.fm.queue.length < 64) :
    takeControl a b = { b with fm := { b.fm with queue := b.fm.queue ++ [ctlMsg a] } } :=
  (if_neg (mt ctlRejects_iff.mpr good)).trans (if_neg (not_le.mpr room))

end

/-- The command of a packet's TYPE, with no flit struck: the packet meets the checks on the block as it stands. -/
theorem act_packet {s : State} {n : StraitId} {vc : Vc} {acc : Bool} {p : InPkt} {t : Nat} {f : Block → Block}
    (next : nextIn s.blk n vc.val = some p) (type : rType p.route = t)
    (effect : arrive (readIn s.blk n vc p [] acc) p.complete s.start = f s.start) :
    s.act (corePacket (· == t) n vc [] acc) = .next (s.after f) := by
  have is : (rType p.route == t) = true := beq_iff_eq.mpr type
  refine act_eq ?_
  rw [← effect]
  simp only [corePacket, nextIn_start, next, is, readIn_start, List.any_nil, Bool.and_false]
  rfl

/-! ### Check 10 at the home node (R374, R405, R216) -/

section
variable {b : Block} {part dctx acc off len : Nat} {slot : Option Nat}

/-- The context of an access serves the packet's partition (R374). -/
def homeServes (b : Block) (part dctx : Nat) : Prop :=
  (b.ctx dctx).valid = true ∧ (b.ctx dctx).part.val = part ∧ (b.ctx dctx).st = .running

/-- The condition of the model's refusal. -/
theorem homeServes_iff : homeServes b part dctx ↔
    ¬ ((!(b.ctx dctx).valid) = true ∨ (b.ctx dctx).part.val ≠ part ∨ (b.ctx dctx).st ≠ .running) := by
  simp only [homeServes, not_or, Bool.not_eq_true', Bool.not_eq_false, not_not]

theorem check10_unserved (barred : ¬ homeServes b part dctx) : check10 b part dctx acc off len slot none = .fail .access none := by
  rw [homeServes_iff, not_not] at barred
  exact if_pos barred

section
variable (serves : homeServes b part dctx)
include serves

theorem check10_signal (signal : acc = 3) : check10 b part dctx acc off len slot none = .pass 64 :=
  (if_neg (homeServes_iff.mp serves)).trans (if_pos signal)

section
variable (other : acc ≠ 3)
include other

/-- An access other than a SIGNAL needs a window, then its weight keys, then a sound range. -/
theorem check10_noWindow (window : windowFor b dctx acc off len = none) :
    check10 b part dctx acc off len slot none = .fail .access none := by
  unfold check10
  refine (if_neg (homeServes_iff.mp serves)).trans ((if_neg other).trans ?_)
  rw [window]

section
variable {w : Nat} (window : windowFor b dctx acc off len = some w)
include window

theorem check10_protected {j : Nat} (guarded : protectedBy b off len slot = some j) :
    check10 b part dctx acc off len slot none = .fail .access (some j) := by
  unfold check10
  refine (if_neg (homeServes_iff.mp serves)).trans ((if_neg other).trans ?_)
  rw [window]
  simp only [guarded]

variable (open' : protectedBy b off len slot = none)
include open'

theorem check10_quarantined {q : Nat} (poisoned : quarEntry b off = some q) :
    check10 b part dctx acc off len slot none = .fail .dataPoison none := by
  unfold check10
  refine (if_neg (homeServes_iff.mp serves)).trans ((if_neg other).trans ?_)
  rw [window]
  simp only [open', poisoned, reduceCtorEq, if_false]

theorem check10_passes (sound : quarEntry b off = none) : check10 b part dctx acc off len slot none = .pass w := by
  unfold check10
  refine (if_neg (homeServes_iff.mp serves)).trans ((if_neg other).trans ?_)
  rw [window]
  simp only [open', sound]

end
end
end
end

/-! ### READ and SIGNAL at the home node -/

section
variable {b : Block} {a : Arrival} {k : Nat}

/-- The home access of a READ packet (R482). -/
def readOp (a : Arrival) (k : Nat) : HomeOp :=
  remoteOp a k (.read (bits a.op 61 55)) (BitVec.ofNat 2 (bits a.op 54 53)) none

/-- A READ that passes reads its granule and holds its window (R377). -/
theorem takeRead_passes {w : Nat}
    (pass : check10 b (readOp a k).part.val (readOp a k).dctx 0 (readOp a k).off (bits a.op 61 55) (some k) none = .pass w) :
    takeRead a k b = memRead (readOp a k).off (readOp a k).hint (.home (b.home.nextId + 1)) { b with home := { b.home with
      nextId := b.home.nextId + 1, ops := b.home.ops ++ [{ readOp a k with
        window := w, left := 1, id := b.home.nextId + 1, wins := winRefs b (readOp a k).dctx w }] } } := by
  have begun : takeRead a k b = homeBegin { readOp a k with window := w } 0 0 [] b := by
    unfold takeRead homeAccess
    simp only
    rw [show remoteOp a k (.read (bits a.op 61 55)) (BitVec.ofNat 2 (bits a.op 54 53)) none = readOp a k from rfl, pass]
    rfl
  have wins : winRefs b (readOp a k).dctx w ++ (readOp a k).wins = winRefs b (readOp a k).dctx w := List.append_nil _
  rw [begun]
  simp only [homeBegin, addHome, readOp, remoteOp] at wins ⊢
  rw [wins]

/-- A READ that fails is counted and answered. -/
theorem takeRead_fails {st : Status} {prot : Option Nat}
    (fail : check10 b (readOp a k).part.val (readOp a k).dctx 0 (readOp a k).off (bits a.op 61 55) (some k) none = .fail st prot) :
    takeRead a k b = sendResp (rSrc a.route % 2 ^ 13) (rSctx a.route) (readOp a k).dctx (BitVec.ofNat 8 (rInc a.route))
      (BitVec.ofNat 16 (bits a.op 127 112)) (readOp a k).part.val k st false false [] (countNack (readOp a k).dctx st b) := by
  have answered : takeRead a k b = homeAnswer (readOp a k) st 0 0 prot (countNack (readOp a k).dctx st b) := by
    unfold takeRead homeAccess
    simp only
    rw [show remoteOp a k (.read (bits a.op 61 55)) (BitVec.ofNat 2 (bits a.op 54 53)) none = readOp a k from rfl, fail]
    rfl
  have node : (BitVec.ofNat 13 (rSrc a.route)).toNat = rSrc a.route % 2 ^ 13 := BitVec.toNat_ofNat ..
  have empty : (if st = .ok then (granBytes 0).take 0 else []) = ([] : List Byte) := by split <;> rfl
  rw [answered]
  simp only [homeAnswer, readOp, remoteOp, node, empty]

/-- A SIGNAL that wants no answer queues its amount (R485). -/
theorem takeSignal_silent (silent : bits a.op 127 126 = 2) : takeSignal a k b = enqueueIncr
    { ctx := rDctx a.route, idx := bits a.op 111 100, amount := bits a.op 99 68 + bits a.op 67 60 * 2 ^ 32,
      err := bitAt a.op 59, part := some (rPart a.route), seq := none } b :=
  if_pos silent

end

end Sys2Proof.Machine

open Sys2Proof Sys2Proof.Machine

/-- Settles O27: a sound packet for this node is taken by its TYPE. -/
theorem acceptedPacketsTakeEffect : Obligations.AcceptedPacketsTakeEffect := by
  intro s n vc acc p k b a ty next complete sound closed here free taken
  refine ⟨fun member slot tag whole ext => ?keyed, fun control => ?control⟩
  case keyed =>
    have keyed {t : Nat} (type : ty = t) (plain : t ≠ tyControl) {f : Block → Block}
        (effect : takePacket a s.start = f s.start) :
        s.act (corePacket (· == t) n vc [] acc) = .next (s.after f) := by
      refine act_packet next type ?_
      rw [complete]
      have keyedType : rType a.route ≠ tyControl := fun control => plain (type.symm.trans control)
      exact (arrive_takes (a := a) (b := s.start) sound closed here rfl keyedType).trans effect
    exact ⟨fun type => keyed type (by decide) (takePacket_read (a := a) (b := s.start) member slot tag whole ext type),
      fun type => keyed type (by decide) (takePacket_write (a := a) (b := s.start) member slot tag whole ext type),
      fun type => keyed type (by decide) (takePacket_atomic (a := a) (b := s.start) member slot tag whole ext type),
      fun type => keyed type (by decide) (takePacket_forward (a := a) (b := s.start) member slot tag whole ext type),
      fun type => keyed type (by decide) (takePacket_data (a := a) (b := s.start) member slot tag whole ext type),
      fun type => keyed type (by decide) (takePacket_signal (a := a) (b := s.start) member slot tag whole ext type),
      fun type => keyed type (by decide) (takePacket_coll (a := a) (b := s.start) member slot tag whole type),
      fun type held => keyed type (by decide) (takePacket_resp (a := a) (b := s.start) member slot tag whole ext type held),
      fun type lost => keyed type (by decide) (takePacket_late (a := a) (b := s.start) member slot tag whole ext type lost)⟩
  case control =>
    intro bad
    have runs {f : Block → Block} (effect : takeControl a s.start = f s.start) :
        exec (.packetControl ⟨n, vc, [], acc⟩) s = .next (s.after (free f)) := by
      refine act_packet next control ?_
      rw [complete]
      refine (arrive_control (a := a) (b := s.start) sound closed here control).trans ?_
      rw [effect]
      rfl
    exact ⟨fun rejects => runs (takeControl_rejected (b := s.start) rejects),
      fun accepts full => runs (takeControl_dropped (b := s.start) accepts full),
      fun accepts room => runs (takeControl_queued (b := s.start) accepts room)⟩

/-- Settles O28: the branches of check 10, and a READ and a SIGNAL by its outcome. -/
theorem homeAccessesAreChecked : Obligations.HomeAccessesAreChecked := by
  refine ⟨fun b part dctx acc off len slot => ?checks, fun b a k w => takeRead_passes,
    fun b a k st prot => takeRead_fails, fun b a k => takeSignal_silent⟩
  exact ⟨check10_unserved, check10_signal, check10_noWindow, fun w j serves other window => check10_protected serves other window,
    fun w q serves other window free poisoned => check10_quarantined serves other window free poisoned,
    fun w serves other window => check10_passes serves other window⟩

end

section
/-!
PROOFS. The words of a request carry its fields (Tables 11.1 and 11.3): each field of a packed word read back.
-/

namespace Sys2Proof.Machine

/-- A field of a packed word on numbers. -/
theorem bits_quad_eq (l : List (Nat × Nat)) (hi lo : Nat) :
    bits (quad l) hi lo = packNat l % 2 ^ 128 / 2 ^ lo % 2 ^ (hi + 1 - lo) := bits_ofNat ..

/-- A bit of a word that is a Boolean's number. -/
theorem bitAt_of_bits {n i : Nat} {w : BitVec n} {v : Bool} (field : bits w i i = v.toNat) : bitAt w i = v := by
  rw [bitAt_eq_bits, field]
  cases v <;> rfl

/-! ### The route word (Table 11.1) -/

theorem mkRoute_fields {f : RouteFields} (typeLt : f.type < 32) (dstLt : f.dst < 2 ^ 13) (srcLt : f.src < 2 ^ 13) (partLt : f.part < 4)
    (keyLt : f.key < 256) (lenLt : f.len < 2 ^ 13) (dctxLt : f.dctx < 16) (sctxLt : f.sctx < 16) (incLt : f.inc < 256) :
    let w := mkRoute f
    rType w = f.type ∧ rDst w = f.dst ∧ rSrc w = f.src ∧ rPart w = f.part ∧ rWeight w = f.weight ∧ rKey w = f.key ∧
      rPoison w = f.poison ∧ rLen w = f.len ∧ rDctx w = f.dctx ∧ rSctx w = f.sctx ∧ rInc w = f.inc ∧ rHops w = 0 := by
  intro w
  obtain ⟨type, dst, src, part, weight, key, poison, len, dctx, sctx, inc⟩ := f
  simp only at *
  have weighted := Bool.toNat_lt weight
  have poisoned := Bool.toNat_lt poison
  have packed : packNat [(123, type), (103, dst), (90, src), (88, part), (87, weight.toNat), (79, key), (78, poison.toNat),
      (65, len), (61, dctx), (57, sctx), (49, inc)] = type * 2 ^ 123 + (dst * 2 ^ 103 + (src * 2 ^ 90 + (part * 2 ^ 88 +
      (weight.toNat * 2 ^ 87 + (key * 2 ^ 79 + (poison.toNat * 2 ^ 78 + (len * 2 ^ 65 + (dctx * 2 ^ 61 + (sctx * 2 ^ 57 +
      (inc * 2 ^ 49 + 0)))))))))) := by
    simp only [packNat, Nat.shiftLeft_eq]
  have flag {i : Nat} {v : Bool} (field : bits w i i = v.toNat) : bitAt w i = v := bitAt_of_bits field
  refine ⟨?_, ?_, ?_, ?_, flag ?_, ?_, flag ?_, ?_, ?_, ?_, ?_, ?_⟩
  all_goals
    simp only [w, mkRoute, rType, rDst, rSrc, rPart, rKey, rLen, rDctx, rSctx, rInc, rHops, bits_quad_eq, packed]
    omega

/-! ### The operation words (Table 11.3) -/

section
variable {r : PReq}

theorem reqPacket_read {n : Nat} (op : r.op = .read n) :
    reqPacket r = (tyRead, quad [(112, r.tag % 2 ^ 14), (62, r.off), (55, n), (53, r.hint.toNat)], []) := by
  simp only [reqPacket, op, List.singleton_append]

/-- The tally fields of a WRITE. -/
def writeDt (r : PReq) : List (Nat × Nat) := (r.dt.map fun d => [(59, 1), (47, d.1), (46, d.2.toNat)]).getD []

theorem reqPacket_write_masked {m : Word} {d : Granule} (op : r.op = .write m d) (masked : contiguous m = false) :
    reqPacket r = (tyWrite, quad ([(112, r.tag % 2 ^ 14), (62, r.off / 64 * 64), (60, r.hint.toNat), (45, 1)] ++ writeDt r),
      natBytes 8 m.toNat ++ granBytes d) := by
  unfold reqPacket writeDt
  simp only [op, masked, Bool.false_eq_true, if_false]
  cases r.dt <;> rfl

theorem reqPacket_write_whole {m : Word} {d : Granule} (op : r.op = .write m d) (whole : contiguous m = true) :
    reqPacket r = (tyWrite, quad ([(112, r.tag % 2 ^ 14), (62, r.off / 64 * 64 + (maskSpan m).1), (60, r.hint.toNat)] ++ writeDt r),
      slice (granBytes d) (maskSpan m).1 (maskSpan m).2) := by
  unfold reqPacket writeDt
  simp only [op, whole, if_true]
  cases r.dt <;> rfl

/-- The tally fields of an ATOMIC. -/
def atomicDt (r : PReq) : List (Nat × Nat) := (r.dt.map fun d => [(55, 1), (43, d.1)]).getD []

theorem reqPacket_atomic {aop : BitVec 3} {ty : BitVec 2} {res : Bool} {opnd cmp : Word}
    (op : r.op = .atomic aop ty res opnd cmp) :
    reqPacket r = (tyAtomic, quad ([(112, r.tag % 2 ^ 14), (62, r.off), (59, aop.toNat), (57, ty.toNat), (56, res.toNat)] ++ atomicDt r),
      natBytes 8 opnd.toNat ++ natBytes 8 (if aop = 4 then cmp.toNat else 0)) := by
  unfold reqPacket atomicDt
  simp only [op]
  cases r.dt <;> rfl

theorem reqPacket_signal {n : BitVec 32} {t : Option (Node × Nat)} {i : Nat} {u : Bool} (op : r.op = .signal n t)
    (dt : r.dt = some (i, u)) : reqPacket r = (tySignal, quad [(112, r.tag % 2 ^ 14), (100, i), (68, n.toNat)], []) := by
  simp [reqPacket, op, dt]

end

/-- A mask's first byte lies in the granule. -/
theorem maskSpan_lt (m : Word) : (maskSpan m).1 < 64 := by
  unfold maskSpan
  split
  case h_1 first _ head _ =>
    exact List.mem_range.mp (List.mem_filter.mp (List.mem_of_mem_head? head)).1
  case h_2 => decide

section
variable {r : PReq} (tag : r.tag < 2 ^ 14) (off : r.off < 2 ^ 50)
include tag off

theorem readWord_fields {n : Nat} (bytes : n < 128) :
    let op := quad [(112, r.tag % 2 ^ 14), (62, r.off), (55, n), (53, r.hint.toNat)]
    bits op 127 112 = r.tag ∧ bits op 111 62 = r.off ∧ bits op 61 55 = n ∧ bits op 54 53 = r.hint.toNat := by
  have hint := r.hint.isLt
  simp only [bits_quad_eq, packNat, Nat.shiftLeft_eq]
  refine ⟨?_, ?_, ?_, ?_⟩ <;> omega

variable (tally : ∀ i u, r.dt = some (i, u) → i < 4096)
include tally

omit tag off in
/-- The tally fields of a WRITE lie in bits 59 to 46. -/
theorem writeDt_packed : ∃ k < 2 ^ 14, packNat (writeDt r) = k * 2 ^ 46 := by
  unfold writeDt
  cases dt : r.dt with
  | none => exact ⟨0, by decide, rfl⟩
  | some d =>
    obtain ⟨i, u⟩ := d
    have index := tally i u dt
    have unit := Bool.toNat_lt u
    refine ⟨2 ^ 13 + i * 2 + u.toNat, by omega, ?_⟩
    simp only [Option.map_some, Option.getD_some, packNat, Nat.shiftLeft_eq]
    omega

omit tag off in
/-- The tally fields of an ATOMIC lie in bits 55 to 43. -/
theorem atomicDt_packed : ∃ k < 2 ^ 13, packNat (atomicDt r) = k * 2 ^ 43 := by
  unfold atomicDt
  cases dt : r.dt with
  | none => exact ⟨0, by decide, rfl⟩
  | some d =>
    obtain ⟨i, u⟩ := d
    have index := tally i u dt
    refine ⟨2 ^ 12 + i, by omega, ?_⟩
    simp only [Option.map_some, Option.getD_some, packNat, Nat.shiftLeft_eq]
    omega

theorem maskedWord_fields :
    let op := quad ([(112, r.tag % 2 ^ 14), (62, r.off / 64 * 64), (60, r.hint.toNat), (45, 1)] ++ writeDt r)
    bits op 127 112 = r.tag ∧ bits op 111 62 = r.off / 64 * 64 ∧ bitAt op 45 = true := by
  have hint := r.hint.isLt
  obtain ⟨k, small, packed⟩ := writeDt_packed tally
  refine ⟨?_, ?_, bitAt_of_bits ?_⟩
  all_goals
    simp only [bits_quad_eq, List.cons_append, List.nil_append, packNat, packed, Nat.shiftLeft_eq, Bool.toNat_true]
    omega

theorem wholeWord_fields {first : Nat} (inside : first < 64) :
    let op := quad ([(112, r.tag % 2 ^ 14), (62, r.off / 64 * 64 + first), (60, r.hint.toNat)] ++ writeDt r)
    bits op 127 112 = r.tag ∧ bits op 111 62 = r.off / 64 * 64 + first ∧ bitAt op 45 = false := by
  have hint := r.hint.isLt
  obtain ⟨k, small, packed⟩ := writeDt_packed tally
  refine ⟨?_, ?_, bitAt_of_bits ?_⟩
  all_goals
    simp only [bits_quad_eq, List.cons_append, List.nil_append, packNat, packed, Nat.shiftLeft_eq, Bool.toNat_false]
    omega

theorem atomicWord_fields (aop : BitVec 3) (ty : BitVec 2) (res : Bool) :
    let op := quad ([(112, r.tag % 2 ^ 14), (62, r.off), (59, aop.toNat), (57, ty.toNat), (56, res.toNat)] ++ atomicDt r)
    bits op 127 112 = r.tag ∧ bits op 111 62 = r.off ∧ bits op 61 59 = aop.toNat ∧ bits op 58 57 = ty.toNat := by
  have operation := aop.isLt
  have type := ty.isLt
  have result := Bool.toNat_lt res
  obtain ⟨k, small, packed⟩ := atomicDt_packed tally
  refine ⟨?_, ?_, ?_, ?_⟩
  all_goals
    simp only [bits_quad_eq, List.cons_append, List.nil_append, packNat, packed, Nat.shiftLeft_eq]
    omega

omit off in
theorem signalWord_fields (n : BitVec 32) {i : Nat} {u : Bool} (dt : r.dt = some (i, u)) :
    let op := quad [(112, r.tag % 2 ^ 14), (100, i), (68, n.toNat)]
    bits op 127 112 = r.tag ∧ bits op 111 100 = i ∧ bits op 99 68 = n.toNat := by
  have amount := n.isLt
  have index := tally i u dt
  simp only [bits_quad_eq, packNat, Nat.shiftLeft_eq]
  refine ⟨?_, ?_, ?_⟩ <;> omega

end

end Sys2Proof.Machine

open Sys2Proof Sys2Proof.Machine

/-- Settles O29: each word is a packed list of fields, and each field is read back from its bits. -/
theorem requestsCarryTheirFields : Obligations.RequestsCarryTheirFields := by
  refine ⟨fun f type dst src part key len dctx sctx inc => mkRoute_fields type dst src part key len dctx sctx inc,
    fun r tag off tally => ?_⟩
  obtain ⟨⟨ty, op, payload⟩, packet⟩ : ∃ p, reqPacket r = p := ⟨_, rfl⟩
  rw [packet]
  refine ⟨fun n bytes is => ?read, fun m d is masked => ?masked, fun m d is whole => ?whole,
    fun aop at' res opnd cmp is => ?atomic, fun n t i u is dt => ?signal⟩
  case read =>
    rw [reqPacket_read is, Prod.mk.injEq, Prod.mk.injEq] at packet
    obtain ⟨rfl, rfl, rfl⟩ := packet
    obtain ⟨tagged, offset, size, hint⟩ := readWord_fields tag off bytes
    exact ⟨rfl, tagged, offset, size, hint, rfl⟩
  case masked =>
    rw [reqPacket_write_masked is masked, Prod.mk.injEq, Prod.mk.injEq] at packet
    obtain ⟨rfl, rfl, rfl⟩ := packet
    obtain ⟨tagged, offset, flag⟩ := maskedWord_fields tag off tally
    exact ⟨rfl, tagged, offset, flag, rfl⟩
  case whole =>
    rw [reqPacket_write_whole is whole, Prod.mk.injEq, Prod.mk.injEq] at packet
    obtain ⟨rfl, rfl, rfl⟩ := packet
    obtain ⟨tagged, offset, flag⟩ := wholeWord_fields tag off tally (maskSpan_lt m)
    exact ⟨rfl, tagged, offset, flag, rfl⟩
  case atomic =>
    rw [reqPacket_atomic is, Prod.mk.injEq, Prod.mk.injEq] at packet
    obtain ⟨rfl, rfl, rfl⟩ := packet
    obtain ⟨tagged, offset, operation, type⟩ := atomicWord_fields tag off tally aop at' res
    exact ⟨rfl, tagged, offset, operation, type, rfl⟩
  case signal =>
    rw [reqPacket_signal is dt, Prod.mk.injEq, Prod.mk.injEq] at packet
    obtain ⟨rfl, rfl, rfl⟩ := packet
    obtain ⟨tagged, index, amount⟩ := signalWord_fields tag tally n dt
    exact ⟨rfl, tagged, index, amount, rfl⟩

end

section
/-!
PROOFS. Answers of the memory port (Table 17.4): each goes to what asked for it.
-/

open Sys2Proof Sys2Proof.Machine

/-- Settles O30: the outstanding request says what asked for the answer. -/
theorem memoryPortAnswersAreTaken : Obligations.MemoryPortAnswersAreTaken := by
  refine ⟨fun s slice tag poison data o found => ?reads, fun s slice tag o found => ?writes,
    fun s slice tag poison data => ⟨fun none => ?noRead, fun none => ?noWrite⟩,
    fun b id g n data o held what => ⟨?poisoned, ?sound⟩, fun b id o held what last => ?visible⟩
  case reads =>
    replace found : memFind s.start slice.val tag.val false = some o := found
    refine ⟨fun why => ?_, fun id why => ?_, fun id why => ?_, fun i k why => ?_, fun id why => ?_⟩
    all_goals
      refine act_eq (s := s) (?_ : coreMemReadData slice.val tag.val poison data s.start = _)
      simp only [coreMemReadData, found, why]
  case writes =>
    replace found : memFind s.start slice.val tag.val true = some o := found
    refine ⟨fun id why => ?_, fun q why => ?_, fun i why => ?_, fun a why => ?_, fun i k n u why => ?_,
      fun id why => ?_, fun n why => ?_⟩
    all_goals
      refine act_eq (s := s) (?_ : coreMemWriteVisible slice.val tag.val s.start = _)
      simp only [coreMemWriteVisible, found, why]
  case noRead =>
    replace none : memFind s.start slice.val tag.val false = .none := none
    refine act_eq (s := s) (?_ : coreMemReadData slice.val tag.val poison data s.start = _)
    simp only [coreMemReadData, none, id_eq]
  case noWrite =>
    replace none : memFind s.start slice.val tag.val true = .none := none
    refine act_eq (s := s) (?_ : coreMemWriteVisible slice.val tag.val s.start = _)
    simp only [coreMemWriteVisible, none, id_eq]
  case poisoned => simp only [homeRead, held, what, if_true]
  case sound => simp only [homeRead, held, what, Bool.false_eq_true, if_false]
  case visible =>
    simp only [homeVisible, held, what]
    exact if_neg (by omega)

end

section
/-!
PROOFS. CHUNK_ISSUE of a transfer under a partition key, with no checksum and no maintenance entry (R226 to R234).
-/

namespace Sys2Proof.Machine

section
variable {b b' : Block} {e : Nat} {x : Xfer}

/-- The next chunk of a transfer: its length and where it lies. -/
abbrev nextLen (x : Xfer) : Nat := chunkLen x.src.toNat x.dst.toNat x.issued x.len

variable (run : (b.rack e).run = some x)
  (goes : ¬((b.rack e).st ≠ .running ∨ x.stopped ∨ x.len ≤ x.issued ∨ 128 ≤ (b.rack e).inflight.length))
include run goes

theorem chunkIssue_weightless (gone : x.weight.isSome ∧ x.key.isNone) :
    coreChunkIssue e b = xferFail e .access 3 e b := by
  simp only [coreChunkIssue, run, if_neg goes, if_pos gone, rackRefuse]

variable {k : Nat} (key : x.key = some k)
include key

theorem chunkIssue_unpaced (slow : paceNow b.time.loc x.rate (b.rack e) < nextLen x) : coreChunkIssue e b = b := by
  have bound : ¬(x.weight.isSome ∧ x.key.isNone) := by simp [key]
  simp only [coreChunkIssue, run, if_neg goes, if_neg bound, if_pos slow]

variable (paced : nextLen x ≤ paceNow b.time.loc x.rate (b.rack e)) (maint : x.maint = none)
  (srcPlain : checksummed b x.ctx (x.src.toNat + x.issued) (nextLen x) = false)
  (dstPlain : checksummed b x.ctx (x.dst.toNat + x.issued) (nextLen x) = false)
  (inside : x.src.toNat + x.issued + nextLen x ≤ 2 ^ 57 ∧ x.dst.toNat + x.issued + nextLen x ≤ 2 ^ 57)
include paced maint srcPlain dstPlain inside

theorem chunkIssue_waits
    (asked : translateAll e x.ctx [(w64 (x.src.toNat + x.issued), 0), (w64 (x.dst.toNat + x.issued), 1)] b =
      (.error none, b')) : coreChunkIssue e b = b' := by
  have bound : ¬(x.weight.isSome ∧ x.key.isNone) := by simp [key]
  have outside : ¬(2 ^ 57 < x.src.toNat + x.issued + nextLen x ∨ 2 ^ 57 < x.dst.toNat + x.issued + nextLen x) := by
    omega
  simp only [coreChunkIssue, run, if_neg goes, if_neg bound, if_neg (Nat.not_lt.mpr paced), if_neg outside, srcPlain,
    dstPlain, maint, asked, Bool.false_eq_true, false_and, if_false, if_true, Option.isSome_none, List.append_nil, OfNat.zero_ne_ofNat]

theorem chunkIssue_faults {va : Word} {acc cause : Nat}
    (asked : translateAll e x.ctx [(w64 (x.src.toNat + x.issued), 0), (w64 (x.dst.toNat + x.issued), 1)] b =
      (.error (some (va, acc, cause)), b')) : coreChunkIssue e b = rackXlatFault e va acc cause b' := by
  have bound : ¬(x.weight.isSome ∧ x.key.isNone) := by simp [key]
  have outside : ¬(2 ^ 57 < x.src.toNat + x.issued + nextLen x ∨ 2 ^ 57 < x.dst.toNat + x.issued + nextLen x) := by
    omega
  simp only [coreChunkIssue, run, if_neg goes, if_neg bound, if_neg (Nat.not_lt.mpr paced), if_neg outside, srcPlain,
    dstPlain, maint, asked, Bool.false_eq_true, false_and, if_false, if_true, Option.isSome_none, List.append_nil, OfNat.zero_ne_ofNat]

/-- Where a chunk's ends lie decides its kind (Table 5.1). -/
def kindOf (self : Nat) (f t : Trans) : ChunkKind :=
  if f.node = self then (if t.node = self then .locl else .push) else if t.node = self then .pull else .third

variable (partition : k < 12) {f t : Trans}
  (asked : translateAll e x.ctx [(w64 (x.src.toNat + x.issued), 0), (w64 (x.dst.toNat + x.issued), 1)] b =
    (.ok [f, t], b'))
include partition asked

theorem chunkIssue_translated :
    coreChunkIssue e b = if !bufferFits b' e (kindOf b'.route.self.toNat f t) (nextLen x) then b' else
      issueChunk e
        { slot := lowestFree ((b.rack e).inflight.map fun k => k.slot), kind := kindOf b'.route.self.toNat f t
          srcVa := w64 (x.src.toNat + x.issued), dstVa := w64 (x.dst.toNat + x.issued), len := nextLen x,
          srcNode := BitVec.ofNat 13 f.node, srcOff := f.off, srcCtx := f.dctx, dstNode := BitVec.ofNat 13 t.node,
          dstOff := t.off, dstCtx := t.dctx, cs := 0, sside := 0, dside := 0, grans := [], sum := 0, ingest := none } x b' := by
  have outside : ¬(2 ^ 57 < x.src.toNat + x.issued + nextLen x ∨ 2 ^ 57 < x.dst.toNat + x.issued + nextLen x) := by
    omega
  have light : ¬ 12 ≤ k := by omega
  simp only [coreChunkIssue, run, if_neg goes, if_neg (Nat.not_lt.mpr paced), if_neg outside, srcPlain, dstPlain, maint,
    asked, key, if_neg light, Option.isNone_some, and_false, Bool.false_eq_true, false_and, if_false, if_true,
    Option.isSome_none, List.append_nil, OfNat.zero_ne_ofNat, ite_self, kindOf, nextLen, List.getD_cons_zero,
    List.getD_cons_succ, beq_self_eq_true, Bool.and_self, Bool.not_true, Option.isNone_none, Bool.true_or, or_self] <;> rfl

end

end Sys2Proof.Machine

open Sys2Proof Sys2Proof.Machine

/-- Settles O31: what the translation of the chunk's two ends answers decides what becomes of it. -/
theorem chunksAreIssuedByKind : Obligations.ChunksAreIssuedByKind := by
  intro s e x k r len src dst asks ready plain paced
  have goes (h : ready) : ¬((s.start.rack e).st ≠ .running ∨ x.stopped ∨ x.len ≤ x.issued ∨
      128 ≤ (s.start.rack e).inflight.length) := by
    obtain ⟨-, running, unstopped, left, room⟩ := h
    rintro (idle | stopped | done | full)
    · exact idle running
    · exact absurd stopped (by simp [unstopped])
    · exact absurd left (by omega)
    · exact absurd full (Nat.not_le.mpr room)
  refine ⟨?translated, ?waits, ?faults, ?unpaced, ?weightless, ?idle⟩
  case translated =>
    intro b' f t ⟨ready, key, partition, maint, srcPlain, dstPlain, inside⟩ paced asked self kind
    have issued := chunkIssue_translated (b := s.start) ready.1 (goes ready) key paced maint srcPlain dstPlain inside
      partition asked
    refine ⟨fun full => act_eq (s := s) (issued.trans (if_pos ?_)), fun fits => act_eq (s := s) (issued.trans (if_neg ?_))⟩
    · exact (Bool.not_eq_true' _).mpr full
    · exact fun full => Bool.false_ne_true (((Bool.not_eq_true' _).mp full).symm.trans fits)
  case waits =>
    intro b' ⟨ready, key, _, maint, srcPlain, dstPlain, inside⟩ paced asked
    exact act_eq (s := s)
      (chunkIssue_waits (b := s.start) ready.1 (goes ready) key paced maint srcPlain dstPlain inside asked)
  case faults =>
    intro b' va acc cause ⟨ready, key, _, maint, srcPlain, dstPlain, inside⟩ paced asked
    exact act_eq (s := s)
      (chunkIssue_faults (b := s.start) ready.1 (goes ready) key paced maint srcPlain dstPlain inside asked)
  case unpaced =>
    intro ⟨ready, key, _⟩ fast
    exact act_eq (s := s) (chunkIssue_unpaced (b := s.start) ready.1 (goes ready) key (Nat.lt_of_not_le fast))
  case weightless =>
    intro ready weight key
    exact act_eq (s := s) (chunkIssue_weightless (b := s.start) ready.1 (goes ready) ⟨weight, by rw [key]; rfl⟩)
  case idle =>
    intro idle
    replace idle : (s.start.rack e).run = none := idle
    refine act_eq (s := s) (?_ : coreChunkIssue e s.start = _)
    simp only [coreChunkIssue, idle, id_eq]

end

section
/-!
PROOFS. COLL_CHUNK_START and COLL_PIECE_SEND (R283 to R287): how far the start of a chunk gets, by what the pages of its
buffers translate to.
-/

namespace Sys2Proof.Machine

section
variable {b b1 b2 : Block} {i : Nat} {g : Group} (group : groupOf b (b.inst i).group = some g)
  (goes : ¬(!instRuns (b.inst i) ∨ (b.inst i).kind = 7 ∨ (b.inst i).chunksTotal ≤ (b.inst i).next ∨
    !windowFree (b.inst i) g (b.inst i).next))
  (bound : (b.inst i).key.isSome = true)

/-- The elements of the next chunk's result that this node keeps. -/
def nextResult (g : Group) (x : Inst) : Nat × Nat :=
  if x.kind = kBroadcast ∧ x.gd = x.gs ∧ g.rank = x.root then (0, 0) else resultRange g x x.next

/-- The byte ranges of an element range of the next chunk, with the sidecar words of their tiles. -/
def bufferRuns (b : Block) (g : Group) (x : Inst) (result : Bool) (r : Nat × Nat) : List (Nat × Nat) :=
  byteRuns g x result x.next r.1 r.2 ++ sidecarRuns b x.ctx (byteRuns g x result x.next r.1 r.2)

/-- The source of the next chunk. -/
abbrev sourceRuns (b : Block) (g : Group) (x : Inst) : List (Nat × Nat) :=
  bufferRuns b g x false (sourceRange g x x.next)
/-- The result of the next chunk. -/
abbrev resultRuns (b : Block) (g : Group) (x : Inst) : List (Nat × Nat) := bufferRuns b g x true (nextResult g x)

theorem bindInst_bound {b : Block} {i : Nat} (bound : (b.inst i).key.isSome = true) : bindInst i b = (true, b) :=
  if_pos bound

include group goes bound

theorem collChunkStart_unplaced {f : Placed}
    (placed : placePages i 0 (pagesOf (sourceRuns b g (b.inst i))) b = (f, b1)) (bad : ∀ p, f ≠ .ok p) :
    coreCollChunkStart i b = placeFault i 0 f b1 := by
  simp only [sourceRuns, bufferRuns] at placed
  simp only [coreCollChunkStart, group, if_neg goes, bindInst_bound bound, Bool.not_true, Bool.false_eq_true, if_false,
    placed]

/-- The next chunk with its buffers placed. -/
def openedChunk (i k : Nat) (sp : List PagePlace) (b : Block) : Block :=
  modChunk i k (fun c => { c with src := sp, phase := .reading })
    ((openChunk i k b).modInst i fun x => { x with next := x.next + 1 })

/-- The pieces of a source that are quarantined. -/
abbrev badPlaces (o : Block) (i : Nat) (places : List (Nat × Nat × Nat)) : List (Nat × Nat × Nat) :=
  runsPoison o (o.inst i) 0 places
/-- The pieces of a source that are read. -/
abbrev goodPlaces (o : Block) (i : Nat) (places : List (Nat × Nat × Nat)) : List (Nat × Nat × Nat) :=
  places.filter fun r => !(badPlaces o i places).contains r
/-- The granules that are read. -/
abbrev readGrans (o : Block) (i : Nat) (places : List (Nat × Nat × Nat)) : List Nat :=
  (placedGrans (goodPlaces o i places)).filter fun a => !(placedGrans (badPlaces o i places)).contains a
/-- The chunk with what it reads noted. -/
def notedChunk (i k : Nat) (places : List (Nat × Nat × Nat)) (o : Block) : Block :=
  modChunk i k (fun c => { c with
    readBad := placedGrans (badPlaces o i places), readLeft := (readGrans o i places).length }) o

section
variable {sp dp : List PagePlace} (source : placePages i 0 (pagesOf (sourceRuns b g (b.inst i))) b = (.ok sp, b1))
  (result : placePages i 1 (pagesOf (resultRuns b g (b.inst i))) b1 = (.ok dp, b2)) {o : Block}
  (opened : openedChunk i (b.inst i).next sp b2 = o) {places : List (Nat × Nat × Nat)}
  (where_ : placeRuns sp (sourceRuns b g (b.inst i)) = places)
include source result opened where_

theorem collChunkStart_placed :
    coreCollChunkStart i b =
      match runsRefused o (o.inst i) 0 (goodPlaces o i places) with
      | some (c, st, prot) => collRefused i c st prot o
      | none =>
        let n := notedChunk i (b.inst i).next places o
        if places.isEmpty then pressGo (o.inst i).group (gatherSteps i (b.inst i).next
          (modChunk i (b.inst i).next (fun c => { c with phase := .own }) n))
        else if (readGrans o i places).isEmpty then pressGo (o.inst i).group (ownRead i (b.inst i).next n)
        else (beginUse (.coll i) (2 * (b.inst i).next) (o.inst i).ctx (n.ctx (o.inst i).ctx).gen n).each (readGrans o i places)
          fun a r => memReadIn (runWins r (o.inst i).ctx 0 (o.inst i).key (goodPlaces o i places) a) (64 * a) hintStream
            (.collRead i (b.inst i).next) r := by
  simp only [sourceRuns, resultRuns, nextResult, bufferRuns] at source result where_
  unfold openedChunk at opened
  simp only [coreCollChunkStart, group, if_neg goes, bindInst_bound bound, Bool.not_true, Bool.false_eq_true, if_false,
    source, result, opened, where_, notedChunk, readGrans, goodPlaces, badPlaces] <;> rfl

theorem collChunkStart_refused {c : Nat} {st : Status} {prot : Option Nat}
    (refused : runsRefused o (o.inst i) 0 (goodPlaces o i places) = some (c, st, prot)) :
    coreCollChunkStart i b = collRefused i c st prot o := by
  rw [collChunkStart_placed group goes bound source result opened where_, refused]

variable (passed : runsRefused o (o.inst i) 0 (goodPlaces o i places) = none)
include passed

theorem collChunkStart_empty (empty : places = []) :
    coreCollChunkStart i b = pressGo (o.inst i).group (gatherSteps i (b.inst i).next
      (modChunk i (b.inst i).next (fun c => { c with phase := .own }) (notedChunk i (b.inst i).next places o))) := by
  rw [collChunkStart_placed group goes bound source result opened where_, passed]
  exact if_pos (List.isEmpty_iff.mpr empty)

variable (some_ : places ≠ [])
include some_

theorem collChunkStart_nothing_read (unread : readGrans o i places = []) :
    coreCollChunkStart i b =
      pressGo (o.inst i).group (ownRead i (b.inst i).next (notedChunk i (b.inst i).next places o)) := by
  rw [collChunkStart_placed group goes bound source result opened where_, passed]
  exact (if_neg fun e => some_ (List.isEmpty_iff.mp e)).trans (if_pos (List.isEmpty_iff.mpr unread))

theorem collChunkStart_reads (read : readGrans o i places ≠ []) :
    coreCollChunkStart i b =
      let n := notedChunk i (b.inst i).next places o
      (beginUse (.coll i) (2 * (b.inst i).next) (o.inst i).ctx (n.ctx (o.inst i).ctx).gen n).each (readGrans o i places)
        fun a r => memReadIn (runWins r (o.inst i).ctx 0 (o.inst i).key (goodPlaces o i places) a) (64 * a) hintStream
          (.collRead i (b.inst i).next) r := by
  rw [collChunkStart_placed group goes bound source result opened where_, passed]
  exact (if_neg fun e => some_ (List.isEmpty_iff.mp e)).trans (if_neg fun e => read (List.isEmpty_iff.mp e))

end

end

/-! ### Pieces -/

section
variable {b : Block} {gid sequence i k level member : Nat} {struck : Bool} {g : Group} {c : CollChunk} {ct : Contrib}
  (found : instFor b gid sequence = some i) (group : groupOf b (b.inst i).group = some g)
  (chunk : chunkOf (b.inst i) k = some c) (contrib : c.contribs.find? (fun ct => ct.level == level) = some ct)
include found group chunk contrib

/-- The credit that the piece for a member takes. -/
abbrev pieceCredit (g : Group) (x : Inst) (k level member : Nat) : Credit :=
  { node := g.peer level member, slot := x.sequence % g.slots, pos := k % g.window, level }

theorem collPieceSend_uncredited (uncredited : g.credits.contains (pieceCredit g (b.inst i) k level member) = false) :
    coreCollPieceSend gid sequence k level member struck b = b := by
  simp only [coreCollPieceSend, found, group, chunk, contrib, uncredited, Bool.not_false, or_true, if_true]

theorem collPieceSend_credited (runs : instRuns (b.inst i) = true) (other : (g.others level).contains member = true)
    (fresh : c.sent.contains (level, member) = false)
    (credited : g.credits.contains (pieceCredit g (b.inst i) k level member) = true) :
    coreCollPieceSend gid sequence k level member struck b =
      let x := b.inst i
      let b := b.modGroup x.group fun y => { y with credits := y.credits.erase (pieceCredit g (b.inst i) k level member) }
      let b := modChunk i k (fun c => { c with sent := c.sent ++ [(level, member)] }) b
      let b := if struck then divergeInst i 1 k (cellarHit 1 b) else b
      let shard := memberShard g x k level member
      let most := if g.levels.head? == some level then packetInput x.ty else packetCarry x.ty x.carry
      let parts := (cutRuns most shard.1 shard.2).flatMap fun r => splitBad (if struck then [shard] else ct.poison) r.1 r.2
      pressGo x.group (b.each (if parts.isEmpty then [(shard.1, 0, false)] else parts) fun r b =>
        let bytes := wireBytes g x c ct r.1 r.2.1
        instPacket i g (g.peer level member)
          { seq := x.sequence, chunk := k, level, step := 0, elem := r.1, csv := false, low := formatOf x }
          r.2.2 (if r.2.2 then bytes.map fun _ => 0xFF else bytes) b) := by
  simp only [coreCollPieceSend, found, group, chunk, contrib, runs, other, fresh, credited, Bool.not_true,
    Bool.false_eq_true, or_self, if_false, pieceCredit]

end

end Sys2Proof.Machine

open Sys2Proof Sys2Proof.Machine

/-- Settles O32: the start of a chunk goes as far as its buffers' pages and ranges let it; a piece takes its credit. -/
theorem collectiveChunksStartAndPiecesGo : Obligations.CollectiveChunksStartAndPiecesGo := by
  constructor
  case left =>
    intro s i g x k src dst runs sr dr group running kind left free key
    have goes : ¬(!instRuns x ∨ x.kind = 7 ∨ x.chunksTotal ≤ x.next ∨ !windowFree x g x.next) := by
      rintro (stopped | barrier | done | full)
      · exact absurd stopped (by simp [running])
      · exact kind barrier
      · exact absurd left (Nat.not_lt.mpr done)
      · exact absurd (free : windowFree x g x.next = true) (by simpa using full)
    constructor
    case left =>
      intro b1 b2 sp dp source result opened y places bad good badGs gs placed
      refine ⟨fun c st prot refused => ?refused, fun passed => ⟨fun reads some_ => ?reads, fun unread some_ => ?unread,
        fun empty => ?empty⟩⟩
      case refused =>
        exact act_eq (s := s) (collChunkStart_refused (b := s.start) group goes key source result rfl rfl refused)
      case reads =>
        exact act_eq (s := s) (collChunkStart_reads (b := s.start) group goes key source result rfl rfl passed some_ reads)
      case unread =>
        exact act_eq (s := s)
          (collChunkStart_nothing_read (b := s.start) group goes key source result rfl rfl passed some_ unread)
      case empty =>
        exact act_eq (s := s) (collChunkStart_empty (b := s.start) group goes key source result rfl rfl passed empty)
    case right =>
      intro b1 f placed bad
      exact act_eq (s := s) (collChunkStart_unplaced (b := s.start) group goes key placed bad)
  case right =>
    intro s gid sq i k level member struck g c ct x node cr found group chunk contrib runs other fresh
    refine ⟨fun uncredited => ?_, fun credited => ?_⟩
    · exact act_eq (s := s) (collPieceSend_uncredited (b := s.start) found group chunk contrib uncredited)
    · exact act_eq (s := s) (collPieceSend_credited (b := s.start) found group chunk contrib runs other fresh credited)

end

section
/-!
PROOFS. Where an arriving ferry cell goes (R333 to R342). Its ingress buffer, the events and the counters that a cellar
error touches say nothing of where it goes.
-/

namespace Sys2Proof.Machine

/-! ### The cell leaves its buffer -/

/-- A cell has left its ingress buffer, a cellar error that struck it counted. -/
def cellLeft (c : CellIn) (b : Block) : Block :=
  if c.cellarError then cellarHit 0 (releaseIngress c.strait c.id b) else releaseIngress c.strait c.id b

theorem updateXoff_eq (n : Nat) (b : Block) : ∃ x, updateXoff n b = { b with straits := x } := by
  unfold updateXoff
  simp only
  split <;> exact ⟨_, rfl⟩

theorem releaseIngress_eq (n id : Nat) (b : Block) : ∃ x, releaseIngress n id b = { b with straits := x } :=
  updateXoff_eq n (b.modStrait n fun s => { s with
    ingress := s.ingress.filter fun p => p.id != id
    dropVc := (s.dropVc ++ (s.ingress.filter fun p => p.id == id && !p.complete).map fun p => p.vc.val).eraseDups })

theorem cellLeft_eq (c : CellIn) (b : Block) :
    ∃ x e o f u, cellLeft c b = { b with straits := x, evt := e, out := o, free := f, util := u } := by
  obtain ⟨x, released⟩ := releaseIngress_eq c.strait c.id b
  unfold cellLeft
  rw [released]
  split
  · obtain ⟨e, o, f, u, hit⟩ := cellarHit_eq 0 { b with straits := x }
    exact ⟨x, e, o, f, u, hit⟩
  · exact ⟨x, _, _, _, _, rfl⟩

section
variable (c : CellIn) (b : Block)

@[simp] theorem cellLeft_bank (k : Nat) : (cellLeft c b).bank k = b.bank k := by
  obtain ⟨x, e, o, f, u, eq⟩ := cellLeft_eq c b
  rw [eq]; rfl

@[simp] theorem cellLeft_self : (cellLeft c b).route.self = b.route.self := by
  obtain ⟨x, e, o, f, u, eq⟩ := cellLeft_eq c b
  rw [eq]

@[simp] theorem cellLeft_isMember (p n : Nat) : isMember (cellLeft c b) p n = isMember b p n := by
  obtain ⟨x, e, o, f, u, eq⟩ := cellLeft_eq c b
  rw [eq]; rfl

@[simp] theorem cellLeft_cellSlot (h : Quad) : cellSlot (cellLeft c b) h = cellSlot b h := by
  obtain ⟨x, e, o, f, u, eq⟩ := cellLeft_eq c b
  rw [eq]; rfl

@[simp] theorem cellLeft_groupOf (g : Nat) : groupOf (cellLeft c b) g = groupOf b g := by
  obtain ⟨x, e, o, f, u, eq⟩ := cellLeft_eq c b
  rw [eq]; rfl

@[simp] theorem cellLeft_cellInst (h : Quad) : cellInst (cellLeft c b) h = cellInst b h := by
  obtain ⟨x, e, o, f, u, eq⟩ := cellLeft_eq c b
  rw [eq]; rfl

@[simp] theorem cellLeft_inst (i : Nat) : (cellLeft c b).inst i = b.inst i := by
  obtain ⟨x, e, o, f, u, eq⟩ := cellLeft_eq c b
  rw [eq]; rfl

@[simp] theorem cellLeft_ctx (k : Nat) : (cellLeft c b).ctx k = b.ctx k := by
  obtain ⟨x, e, o, f, u, eq⟩ := cellLeft_eq c b
  rw [eq]; rfl

theorem cellLeft_ctxServes (k : Nat) : ctxServes (cellLeft c b) k = ctxServes b k := by
  simp only [ctxServes, ctxRuns, cellLeft_ctx]

end

theorem matchCell_eq (rx : Bool) (n : Nat) (h : Quad) (phy : Word) (b : Block) :
    ∃ t, matchCell rx n h phy b = { b with thief := t } := by
  unfold matchCell matchRecord
  split
  · exact stageRecord_eq ..
  · exact ⟨_, rfl⟩

@[simp] theorem matchCell_ctx (rx : Bool) (n : Nat) (h : Quad) (phy : Word) (b : Block) (k : Nat) :
    (matchCell rx n h phy b).ctx k = b.ctx k := by
  obtain ⟨t, eq⟩ := matchCell_eq rx n h phy b
  rw [eq]; rfl

theorem matchCell_ctxServes (rx : Bool) (n : Nat) (h : Quad) (phy : Word) (b : Block) (k : Nat) :
    ctxServes (matchCell rx n h phy b) k = ctxServes b k := by
  simp only [ctxServes, ctxRuns, matchCell_ctx]

@[simp] theorem matchCell_inst (rx : Bool) (n : Nat) (h : Quad) (phy : Word) (b : Block) (i : Nat) :
    (matchCell rx n h phy b).inst i = b.inst i := by
  obtain ⟨t, eq⟩ := matchCell_eq rx n h phy b
  rw [eq]; rfl

/-! ### Where it goes -/

theorem takeCell_eq (c : CellIn) (b : Block) :
    takeCell c b =
      if (b.bank (cEpoch c.hdr).toNat).st = .opened then staleArrival (cSrc c.hdr) (cEpoch c.hdr) (cellLeft c b)
      else if cDst c.hdr = b.route.self.toNat then cellHere c (cellLeft c b)
      else if c.cellarError then headPoisoned c.strait 0 (cellLeft c b)
      else if (b.bank (cEpoch c.hdr).toNat).torus then forwardCell c (cEpoch c.hdr).toNat (cellLeft c b)
      else { cellLeft c b with route := { (cellLeft c b).route with misdelivered := (cellLeft c b).route.misdelivered + 1 } } := by
  rw [← cellLeft_bank c b, ← cellLeft_self c b]
  rfl

theorem cellHere_stranger {c : CellIn} {b : Block} (stranger : isMember b (cPart c.hdr) (cSrc c.hdr) = false) :
    cellHere c b = cellStranger 2 c.hdr b := if_pos (by rw [stranger]; rfl)

theorem cellHere_slotless {c : CellIn} {b : Block} (member : isMember b (cPart c.hdr) (cSrc c.hdr) = true)
    (slotless : cellSlot b c.hdr = none) : cellHere c b = cellStranger 1 c.hdr b :=
  (if_neg (by simp [member])).trans (if_pos (by rw [slotless]; rfl))

section
variable {c : CellIn} {b : Block} (member : isMember b (cPart c.hdr) (cSrc c.hdr) = true)
  (slot : (cellSlot b c.hdr).isSome = true) {g : Group} (group : groupOf b (cGroup c.hdr) = some g)
include member slot group

section
variable (failed : c.tagOk = false ∨ c.cellarError = true)
include failed

theorem cellHere_copyFailed {i : Nat} (inst : cellInst b c.hdr = some i) (near : fromNeighbour g c.hdr = true)
    (held : (b.inst i).st ≠ .ending) : cellHere c b = copyFailed i c.hdr b := by
  have bad : (!c.tagOk || c.cellarError) = true := by simpa using failed
  have known : (cellSlot b c.hdr).isNone = false := by rw [Option.isNone_eq_false_iff]; exact slot
  simp only [cellHere, member, known, group, bad, inst, near, ne_eq, held, not_false_eq_true, and_self, Bool.not_true,
    Bool.false_eq_true, if_false, if_true]

theorem cellHere_unawaited (unawaited : cellInst b c.hdr = none ∨ fromNeighbour g c.hdr = false) :
    cellHere c b = cellStranger 0 c.hdr b := by
  have bad : (!c.tagOk || c.cellarError) = true := by simpa using failed
  have known : (cellSlot b c.hdr).isNone = false := by rw [Option.isNone_eq_false_iff]; exact slot
  simp only [cellHere, member, known, group, bad, Bool.not_true, Bool.false_eq_true, if_false, if_true]
  cases inst : cellInst b c.hdr with
  | none => rfl
  | some i =>
    obtain none | far := unawaited
    · exact absurd (inst.symm.trans none) (by simp)
    · exact if_neg (by simp [far])

end

variable (tag : c.tagOk = true) (sound : c.cellarError = false) (part : (b.ctx g.ctx).part.val = cPart c.hdr)
  (serves : ctxServes b g.ctx = true) (near : fromNeighbour g c.hdr = true)
include tag sound part serves near

theorem cellHere_unknown (unknown : cellInst b c.hdr = none) (ended : cellEnded g c.hdr = true ∨ cKind c.hdr = 1) :
    cellHere c b = collDiscard (matchCell true c.strait c.hdr c.phy b) := by
  have known : (cellSlot b c.hdr).isNone = false := by rw [Option.isNone_eq_false_iff]; exact slot
  simp only [cellHere, member, known, group, tag, sound, unknown, matchCell_ctx, matchCell_ctxServes, part, serves, near, ended, Bool.not_true,
    Bool.false_eq_true, Bool.or_self, ne_eq, not_true, or_self, if_false, if_true]

theorem cellHere_known {i : Nat} (inst : cellInst b c.hdr = some i) (running : (b.inst i).st = .running)
    (issued : (b.inst i).issued = true) :
    cellHere c b =
      let m := matchCell true c.strait c.hdr c.phy b
      if hadCell (b.inst i) c.hdr then { m with ferry := { m.ferry with duplicates := m.ferry.duplicates + 1 } }
      else cellIn i c m := by
  have known : (cellSlot b c.hdr).isNone = false := by rw [Option.isNone_eq_false_iff]; exact slot
  have open' : ¬((b.inst i).st = .ending ∨ (cKind c.hdr = 1 ∧ !instRuns (b.inst i))) := by
    simp [instRuns, running, issued]
  simp only [cellHere, member, known, group, tag, sound, inst, matchCell_ctx, matchCell_inst, matchCell_ctxServes, part, serves, near,
    if_neg open', Bool.not_true, Bool.false_eq_true, Bool.or_self, ne_eq, not_true, or_self, if_false]

end

/-! ### The two commands -/

theorem cellOf_fields {b : Block} {n : StraitId} {hit store : Bool} {c : CellIn} (next : cellOf b n hit store = some c) :
    c.strait = n ∧ c.cellarError = hit ∧ c.store = store := by
  obtain ⟨p, -, rfl⟩ := Option.map_eq_some_iff.mp next
  exact ⟨rfl, rfl, rfl⟩

section
variable {s : State} {n : StraitId} {hit store : Bool} {c : CellIn} {f : Block → Block}

theorem exec_ferryCell (next : cellOf s.blk n hit store = some c) (taken : takeCell c s.start = f s.start) :
    (cKind c.hdr = 0 → Machine.exec (.ferryCellUp ⟨n, hit, store⟩) s = .next (s.after f)) ∧
    (cKind c.hdr = 1 → Machine.exec (.ferryCellDown ⟨n, hit, store⟩) s = .next (s.after f)) := by
  have next' : cellOf s.start n hit store = some c := next
  refine ⟨fun kind => act_eq (s := s) (?_ : coreFerryCell 0 n hit store s.start = _),
    fun kind => act_eq (s := s) (?_ : coreFerryCell 1 n hit store s.start = _)⟩
  all_goals simp only [coreFerryCell, next', kind, if_true, taken]

end

end Sys2Proof.Machine

open Sys2Proof Sys2Proof.Machine

/-- Settles O33: the cell leaves its buffer, and then its bank, its destination, its sender and what awaits it say where it
goes. -/
theorem ferryCellsAreTaken : Obligations.FerryCellsAreTaken := by
  intro s n hit store c next h left k opened run
  obtain ⟨rfl, rfl, rfl⟩ : c.strait = n ∧ c.cellarError = hit ∧ c.store = store := cellOf_fields next
  have runs {f : Block → Block} (taken : takeCell c s.start = f s.start) : run f := exec_ferryCell next taken
  have kept (fresh : ¬opened) (there : cDst h ≠ s.blk.route.self.toNat) {f : Block → Block}
      (rest : (if c.cellarError then headPoisoned c.strait 0 (cellLeft c s.start)
        else if (s.start.bank k).torus then forwardCell c k (cellLeft c s.start)
        else { cellLeft c s.start with route := { (cellLeft c s.start).route with
          misdelivered := (cellLeft c s.start).route.misdelivered + 1 } }) = f s.start) : run f :=
    runs ((takeCell_eq c s.start).trans ((if_neg fresh).trans ((if_neg there).trans rest)))
  have ours (fresh : ¬opened) (here : cDst h = s.blk.route.self.toNat) {f : Block → Block}
      (taken : cellHere c (cellLeft c s.start) = f s.start) : run f :=
    runs ((takeCell_eq c s.start).trans ((if_neg fresh).trans ((if_pos here).trans taken)))
  refine ⟨fun stale => runs ((takeCell_eq c s.start).trans (if_pos stale)), fun fresh there => ⟨?struck, ?torus, ?stray⟩,
    fun fresh here => ⟨?stranger, ?slotless, ?known⟩⟩
  case struck => exact fun struck => kept fresh there (if_pos struck)
  case torus =>
    exact fun sound torus => kept fresh there ((if_neg (by simp [sound])).trans (if_pos torus))
  case stray =>
    exact fun sound tree => kept fresh there ((if_neg (by simp [sound])).trans (if_neg fun torus => Bool.false_ne_true (tree.symm.trans torus)))
  case stranger =>
    exact fun member => ours fresh here (cellHere_stranger ((cellLeft_isMember c s.start _ _).trans member))
  case slotless =>
    exact fun member slot => ours fresh here
      (cellHere_slotless ((cellLeft_isMember c s.start _ _).trans member) ((cellLeft_cellSlot c s.start _).trans slot))
  case known =>
    intro member slot g group
    have member' := (cellLeft_isMember c s.start (cPart h) (cSrc h)).trans member
    have slot' : (cellSlot (cellLeft c s.start) h).isSome = true := by rw [cellLeft_cellSlot]; exact slot
    have group' := (cellLeft_groupOf c s.start (cGroup h)).trans group
    constructor
    case left =>
      refine fun failed => ⟨fun i inst near held => ours fresh here ?awaited, fun unawaited => ours fresh here ?unawaited⟩
      case awaited =>
        exact cellHere_copyFailed member' slot' group' failed ((cellLeft_cellInst c s.start h).trans inst) near
          (by rw [cellLeft_inst]; exact held)
      case unawaited =>
        exact cellHere_unawaited member' slot' group' failed (by rw [cellLeft_cellInst]; exact unawaited)
    case right =>
      intro tag sound part serves near good
      have part' : ((cellLeft c s.start).ctx g.ctx).part.val = cPart h := by rw [cellLeft_ctx]; exact part
      have serves' := (cellLeft_ctxServes c s.start g.ctx).trans serves
      refine ⟨fun unknown ended => ours fresh here ?ended, fun i inst running issued => ?known⟩
      case ended =>
        exact cellHere_unknown member' slot' group' tag sound part' serves' near
          ((cellLeft_cellInst c s.start h).trans unknown) ended
      case known =>
        have taken := cellHere_known member' slot' group' tag sound part' serves' near
          ((cellLeft_cellInst c s.start h).trans inst) (by rw [cellLeft_inst]; exact running)
          (by rw [cellLeft_inst]; exact issued)
        rw [cellLeft_inst] at taken
        refine ⟨fun had => ours fresh here (taken.trans (if_pos had)), fun new => ours fresh here (taken.trans (if_neg ?_))⟩
        exact fun had => Bool.false_ne_true (new.symm.trans had)

end

section
/-!
PROOFS. Flits received (R427, R436): what every flit goes through, then the control flits by TYPE.
-/

namespace Sys2Proof.Machine

/-! ### What every flit goes through -/

/-- A damaged flit is bad whatever it holds, and is not another command's. -/
theorem damaged_flit : ∀ bad crc heard : Bool, ¬(crc = true ∧ bad = false) →
    (!bad && crc && !heard) = false ∧ (bad || !crc) = true := by decide

section
variable {n : Nat} {rx : Rx} {is : BitVec 1024 → Bool} {k : BitVec 1024 → Block → Block} {b : Block}

theorem flitIn_dark (dark : ¬((b.strait n).st = .up ∨ (b.strait n).st = .drain)) : flitIn n rx is k b = b := if_neg dark

theorem flitIn_incomplete (received : rxFlit n rx (b.strait n) = none) : flitIn n rx is k b = b := by
  unfold flitIn
  simp only [received, ite_self]

variable {flit : BitVec 1024} {bad : Bool} {x : Strait} (carries : (b.strait n).st = .up ∨ (b.strait n).st = .drain)
  (received : rxFlit n rx (b.strait n) = some (flit, bad, x))
include carries received

theorem flitIn_good (sound : bad = false) (crc : flitCrcOk flit = true) (short : x.badRun < 8) (ours : is flit = true) :
    flitIn n rx is k b = k flit (takeAck n (flitTrailer flit) (b.modStrait n fun _ => x)) := by
  have noLoss : ¬(8 ≤ x.badRun ∧ (b.strait n).st = .up) := fun loss => absurd loss.1 (Nat.not_le.mpr short)
  simp only [flitIn, if_pos carries, received, sound, crc, ours, if_neg noLoss, Bool.not_false, Bool.not_true,
    Bool.and_false, Bool.or_false, Bool.false_eq_true, if_false, if_true]

/-- A received flit counted, a failed CRC among them. -/
def flitCounted (n : Nat) (flit : BitVec 1024) (x : Strait) (b : Block) : Block :=
  b.modStrait n fun _ => if flitCrcOk flit then x else { x with crcErrors := x.crcErrors + 1 }

theorem flitIn_loss (damaged : ¬(flitCrcOk flit = true ∧ bad = false)) (long : 8 ≤ x.badRun) (up : (b.strait n).st = .up) :
    flitIn n rx is k b = linkLoss n (flitCounted n flit x b) := by
  have unheard := (damaged_flit bad (flitCrcOk flit) (is flit) damaged).1
  simp only [flitIn, if_pos carries, received, unheard, if_pos (And.intro long up), Bool.false_eq_true, if_false, flitCounted]

theorem flitIn_bad (damaged : ¬(flitCrcOk flit = true ∧ bad = false)) (held : x.badRun < 8 ∨ (b.strait n).st = .drain) :
    flitIn n rx is k b = badFlit n (flitCounted n flit x b) := by
  obtain ⟨unheard, faulty⟩ := damaged_flit bad (flitCrcOk flit) (is flit) damaged
  have noLoss : ¬(8 ≤ x.badRun ∧ (b.strait n).st = .up) := by
    rintro ⟨long, up⟩
    obtain short | drain := held
    · omega
    · exact absurd (up.symm.trans drain) (by decide)
  simp only [flitIn, if_pos carries, received, unheard, faulty, if_neg noLoss, Bool.false_eq_true, if_false, if_true,
    flitCounted]

end

/-! ### Control flits -/

/-- A control flit's ACK and XOFF mask are taken. -/
def ctlTaken (n : Nat) (flit : BitVec 1024) (x : Strait) (b : Block) : Block :=
  refreshElig n ((takeAck n (flitTrailer flit) (b.modStrait n fun _ => x)).modStrait n fun y => { y with txXoff := cfXoff flit })

theorem ctlFlit_good {n : Nat} {rx : Rx} {is : Nat → Bool} {k : BitVec 1024 → Block → Block} {b : Block}
    {flit : BitVec 1024} {x : Strait} (carries : (b.strait n).st = .up ∨ (b.strait n).st = .drain)
    (received : rxFlit n rx (b.strait n) = some (flit, false, x)) (crc : flitCrcOk flit = true) (short : x.badRun < 8)
    (kind : tKind (flitTrailer flit) = 2) (ours : is (cfType flit) = true) :
    ctlFlit n rx is k b = k flit (ctlTaken n flit x b) :=
  flitIn_good carries received rfl crc short (by rw [kind, ours]; rfl)

theorem unheldTime_iff (b : Block) (m : Nat) :
    (b.maint.lost ∨ !timeTypes.contains m) ↔ (b.maint.lost = true ∨ m ∉ [0x0, 0x2, 0x3, 0x8, 0xA]) := by
  rw [Bool.not_eq_true', List.contains_eq_mem, decide_eq_false_iff_not]
  rfl

/-- A time message is heard, and a Pdelay_Req answered in two steps. -/
theorem timeFlit_heard (n : Nat) (flit : BitVec 1024) (stamp : Word) (b : Block) :
    (let msg : BitVec 896 := BitVec.ofNat 896 (flit.toNat >>> 64)
     if b.maint.lost ∨ !timeTypes.contains (msg.toNat % 16) then b
     else
       let b := b.modStrait n fun s => { s with timeIn := keepTimes s.timeIn (msg, phyTime b n stamp) }
       let (w, b) := b.fresh
       let b := { b with time := { b.time with locked := bitAt w 0, srcValid := bitAt w 1, src := BitVec.ofNat 5 (bits w 6 2) } }
       if msg.toNat % 16 = 2 then sendTime n 0xA (sendTime n 0x3 b) else b) =
    (let msg : BitVec 896 := BitVec.ofNat 896 (flit.toNat >>> 64)
     let w := Config.freeWord b.free
     let heard : Block :=
       { b.modStrait n fun x => { x with timeIn := (x.timeIn ++ [(msg, phyTime b n stamp)]).drop (x.timeIn.length - 7) } with
         free := b.free + 1
         time := { b.time with locked := bitAt w 0, srcValid := bitAt w 1, src := BitVec.ofNat 5 (bits w 6 2) } }
     if b.maint.lost = true ∨ msg.toNat % 16 ∉ [0x0, 0x2, 0x3, 0x8, 0xA] then b
     else if msg.toNat % 16 = 2 then
       queueCtrl n (timeCtrl 0xA (Config.timeReply (b.free + 2))) (queueCtrl n (timeCtrl 0x3 (Config.timeReply (b.free + 1)))
         { heard with free := b.free + 3 })
     else heard) :=
  if_congr (unheldTime_iff b _) rfl rfl

theorem minTimer_least (a c : BitVec 16) : (minTimer false a c).toNat = min a.toNat c.toNat := by
  unfold minTimer
  rw [if_neg (by simp)]
  split <;> omega

theorem minTimer_never (a c : BitVec 16) : minTimer true a c = if a = 0 ∨ c = 0 then 0 else minTimer false a c := by
  simp only [minTimer, true_and, Bool.false_eq_true, false_and, if_false]

end Sys2Proof.Machine

open Sys2Proof Sys2Proof.Machine

/-- Settles O34: a good control flit is taken, and then its TYPE says what it does. -/
theorem controlFlitsAct : Obligations.ControlFlitsAct := by
  intro s n rx flit x carries received crc short kind taken agreed ty
  have acts (is : Nat → Bool) (k : BitVec 1024 → Block → Block) (ours : is ty = true) :
      ctlFlit n rx is k s.start = k flit (taken s.start) := ctlFlit_good (b := s.start) carries received crc short kind ours
  refine ⟨fun idle => ?idle, fun state => ?state, fun undefined => ?undefined, fun query => ?query, fun nak => ?nak,
    fun req => ?req, fun ack => ?ack, fun cal => ?cal, fun retrain => ?retrain, fun stamp time => ?time, ?least, ?zero⟩
  case idle => exact act_eq (s := s) (acts _ _ (by simp [idle]))
  case state => exact act_eq (s := s) (acts _ _ (by simp [state]))
  case undefined => exact act_eq (s := s) (acts _ _ (by simp [undefined]))
  case query => exact act_eq (s := s) (acts _ _ (by simp [query]))
  case nak => exact act_eq (s := s) (acts _ _ (by simp [nak]))
  case req => exact act_eq (s := s) (acts _ _ (by simp [req]))
  case ack => exact act_eq (s := s) (acts _ _ (by simp [ack]))
  case cal => exact act_eq (s := s) (acts _ _ (by simp [cal]))
  case retrain => exact act_eq (s := s) (acts _ _ (by simp [retrain]))
  case time =>
    refine act_eq (s := s) ((acts (· == cfTime) _ (by simp [time])).trans ?_)
    exact timeFlit_heard n flit stamp _
  case least => exact fun a c => minTimer_least a c
  case zero => exact fun a c => minTimer_never a c

/-- Settles O35: a flit is unheard, a link loss, bad, or good and in order or not. -/
theorem flitsAreAcceptedOrRefused : Obligations.FlitsAreAcceptedOrRefused := by
  intro s n ⟨stream, parity⟩ stamp carries all
  have same {f : Block → Block} (heard : ∀ is k, flitIn n ⟨stream, parity⟩ is k s.start = f s.start) : all f :=
    ⟨act_eq (s := s) (heard _ _),
      act_eq (s := s) (f := coreIdleFlit n ⟨stream, parity⟩) (by unfold coreIdleFlit ctlFlit; exact heard _ _),
      act_eq (s := s) (f := coreNak n ⟨stream, parity⟩) (by unfold coreNak ctlFlit; exact heard _ _)⟩
  refine ⟨fun dark => same fun is k => flitIn_dark dark, fun received => same fun is k => flitIn_incomplete received, ?_,
    fun b awaited => if_pos awaited, fun b unawaited => if_neg (by simp [unawaited])⟩
  intro flit bad x carries received good counted t taken
  refine ⟨?loss, ?bad, ?reserved, ?sequenced⟩
  case loss =>
    exact fun damaged long up => same fun is k => flitIn_loss (b := s.start) carries received damaged long up
  case bad =>
    exact fun damaged held => same fun is k => flitIn_bad (b := s.start) carries received damaged held
  case reserved =>
    intro good short kind
    refine act_eq (s := s) ((flitIn_good (b := s.start) carries received good.2 good.1 short ?_).trans ?_)
    · exact bne_iff_ne.mpr fun two => absurd (two.symm.trans kind) (by decide)
    · exact if_pos kind
  case sequenced =>
    intro good short kind
    refine act_eq (s := s) ((flitIn_good (b := s.start) carries received good.2 good.1 short ?_).trans ?_)
    · exact bne_iff_ne.mpr (Nat.ne_of_lt kind)
    · refine (if_neg fun reserved : tKind t = 3 => absurd (reserved ▸ kind : 3 < 2) (by decide)).trans ?_
      simp only [decide_eq_true_eq]
      rfl

end

section
/-!
PROOFS. The timers of a strait (R437 to R466), each by its condition.
-/

namespace Sys2Proof.Machine

/-- QUICK_IDLE has run out on a strait. -/
def quietStrait (n : Nat) (b : Block) : Block := b.modStrait n fun y => { y with quiet := y.quiet || y.st == .up }

section
variable {n : Nat} {b : Block}

theorem quickIdleExpiry_offers (ok : dozeOk (quietStrait n b) n = true) (unsent : (b.strait n).dozeSent = false)
    (unheard : (b.strait n).dozeGot = none) (unqueued : ∀ c ∈ (b.strait n).ctrl, isDoze c = false) :
    coreQuickIdleExpiry n b = queueCtrl n (dozeCtrl cfDozeReq ((quietStrait n b).strait n)) (quietStrait n b) := by
  refine if_pos ⟨ok, ?_, ?_, ?_⟩
  · simp only [Block.modStrait_strait, unsent, Bool.not_false]
  · simp only [Block.modStrait_strait, unheard, Option.isNone_none]
  · simp only [Block.modStrait_strait]
    simpa using unqueued

theorem quickIdleExpiry_quiet
    (held : dozeOk (quietStrait n b) n = false ∨ (b.strait n).dozeSent = true ∨ (b.strait n).dozeGot.isSome = true) :
    coreQuickIdleExpiry n b = quietStrait n b := by
  refine if_neg fun offers => ?_
  obtain ⟨ok, unsent, unheard, -⟩ := offers
  simp only [Block.modStrait_strait] at unsent unheard
  obtain busy | sent | heard := held
  · exact Bool.false_ne_true (busy.symm.trans ok)
  · simp [sent] at unsent
  · simp [Option.isNone_iff_eq_none.mp unheard] at heard

theorem replayTimeout_starts {h : HeldFlit} {r : List HeldFlit} (carries : (b.strait n).st = .up ∨ (b.strait n).st = .drain)
    (held : (b.strait n).replay = h :: r) : coreReplayTimeout n b = startReplay n 0 h.fseq b := by
  simp only [coreReplayTimeout, held, if_pos carries]

theorem replayTimeout_empty (empty : (b.strait n).replay = []) : coreReplayTimeout n b = b := by
  simp only [coreReplayTimeout, empty]

end

end Sys2Proof.Machine

open Sys2Proof Sys2Proof.Machine

/-- Settles O36: each timer acts where its condition stands. -/
theorem straitTimersAct : Obligations.StraitTimersAct := by
  intro s n x carries asleep quiet
  refine ⟨fun up waits => act_eq (s := s) (if_pos ⟨up, waits⟩),
    fun h r up held => act_eq (s := s) (replayTimeout_starts (b := s.start) up held),
    fun empty => act_eq (s := s) (replayTimeout_empty (b := s.start) empty),
    fun up off => act_eq (s := s) (if_pos ⟨up, off⟩), fun up => act_eq (s := s) (if_pos up),
    fun down => act_eq (s := s) (if_neg down),
    fun ok unsent unheard unqueued =>
      act_eq (s := s) (quickIdleExpiry_offers (b := s.start) ok unsent unheard unqueued),
    fun held => act_eq (s := s) (quickIdleExpiry_quiet (b := s.start) held),
    fun sent unheard => act_eq (s := s) (if_pos ⟨sent, Option.isNone_iff_eq_none.mpr unheard⟩),
    fun quick still => act_eq (s := s) (if_pos ⟨quick, still⟩),
    fun deep still timed => act_eq (s := s) (if_pos ⟨deep, still, timed⟩),
    fun never => act_eq (s := s) (if_neg fun off => off.2.2 never), fun dozing => act_eq (s := s) (if_pos dozing),
    fun awake => act_eq (s := s) (if_neg ?awake),
    fun sleeps waking => ⟨act_eq (s := s) (if_pos ⟨sleeps, waking⟩), act_eq (s := s) (if_pos ⟨sleeps, waking⟩)⟩,
    fun lane => ⟨fun above => act_eq (s := s) (if_pos above), fun below => act_eq (s := s) (if_neg (Nat.not_lt.mpr below))⟩⟩
  case awake => exact fun dozing => Bool.false_ne_true (awake.symm.trans dozing)

end

section
/-!
PROOFS. How a strait trains, calibrates and drains (Table 10.7, R449 to R454, R468 to R470).
-/

namespace Sys2Proof.Machine

/-! ### Training -/

/-- The lanes of an attempt are noted. -/
def lanesNoted (n : Nat) (r : TrainResult) (b : Block) : Block := b.modStrait n fun y => { y with good := r.good }

/-- The parameter exchange of a SerDes strait is over. -/
def peerSeen (n : Nat) (r : TrainResult) (b : Block) : Block :=
  (sendParams n ((lanesNoted n r b).modStrait n fun y => { y with map := laneMapOf r.good, tuning := r.tuning })).modStrait n
    (takeParams r)

theorem peerSeen_eq (n : Nat) (r : TrainResult) (b : Block) :
    peerSeen n r b = (sendParams n (b.modStrait n fun y => { y with
      good := r.good, map := laneMapOf r.good, tuning := r.tuning })).modStrait n (takeParams r) := by
  unfold peerSeen lanesNoted
  rw [Block.modStrait_modStrait]

theorem lanesNoted_strait (n : Nat) (r : TrainResult) (b : Block) :
    (lanesNoted n r b).strait n = { b.strait n with good := r.good } := Block.modStrait_strait ..

theorem sendParams_strait (n k : Nat) (b : Block) : (sendParams n b).strait k = b.strait k := rfl

theorem peerSeen_strait (n : Nat) (r : TrainResult) (b : Block) :
    (peerSeen n r b).strait n =
      takeParams r { b.strait n with good := r.good, map := laneMapOf r.good, tuning := r.tuning } :=
  by
  unfold peerSeen
  rw [Block.modStrait_strait, sendParams_strait, Block.modStrait_strait, lanesNoted_strait]

theorem peerOk_iff (x : Strait) (r : TrainResult) :
    peerOk x r = true ↔ r.cls = x.cls ∧ (bitAt x.expect 63 = true → r.role = bitAt x.expect 50 ∧
      r.strait.toNat = bits x.expect 20 16 ∧ r.node.toNat = bits x.expect 12 0) := by
  unfold peerOk
  cases bitAt x.expect 63 <;> simp [and_assoc]

theorem resumes_iff (x : Strait) (r : TrainResult) :
    resumes x r = true ↔ x.peerValid = true ∧ r.epoch = x.peerEpoch ∧ r.sawEpoch = x.epoch := by
  simp [resumes, and_assoc]

section
variable {n : Nat} {r : TrainResult} {b : Block}

theorem checkFailed_train {st : StraitSt} {cause : Nat} (train : (b.strait n).st = .train) :
    checkFailed n st cause b = failStrait n st cause b := if_neg (by rw [train]; decide)

theorem checkFailed_retrain {st : StraitSt} {cause : Nat} (retrain : (b.strait n).st = .retrain) :
    checkFailed n st cause b = retryAttempt n b := if_pos retrain

theorem attemptFailed_train {init : Bool} (train : (b.strait n).st = .train) :
    attemptFailed n init b = failStrait n .failed 1 b := by
  simp only [attemptFailed, train]

theorem attemptFailed_retrain {init : Bool} (retrain : (b.strait n).st = .retrain) (other : 2 ≤ n ∨ init = false) :
    attemptFailed n init b = retryAttempt n b := by
  simp only [attemptFailed, retrain]
  refine if_neg fun failed => ?_
  obtain serdes | whole := other
  · omega
  · exact Bool.false_ne_true (whole.symm.trans failed.2)

theorem attemptFailed_module (retrain : (b.strait n).st = .retrain) (causeway : n < 2) :
    attemptFailed n true b = failStrait n .failed 1 b := by
  simp only [attemptFailed, retrain, causeway, and_self, if_true]

variable (training : (b.strait n).st = .train ∨ (b.strait n).st = .retrain) (present : b.maint.lost = false) (serdes : 2 ≤ n)
include training present serdes

theorem trainingComplete_lanes (bad : 2 ≤ (badLanes r.good).length) :
    coreTrainingComplete n r b = attemptFailed n false (lanesNoted n r b) := by
  have wide : ¬ n < 2 := by omega
  have poor : ¬ (badLanes r.good).length < 2 := by omega
  simp only [coreTrainingComplete, training, present, wide, poor, lanesOk, Bool.not_false, and_self, decide_false, if_false,
    if_true, lanesNoted]

variable (good : (badLanes r.good).length < 2)
include good

theorem trainingComplete_checks :
    coreTrainingComplete n r b =
      let p := peerSeen n r b
      let learn (q : Block) : Block := if (b.strait n).st = .retrain then q else q.modStrait n (validPeer r)
      if !peerOk (b.strait n) r then checkFailed n .miswired 4 (learn p)
      else if clsRtt (b.strait n).cls < r.rtt.toNat then checkFailed n .failed 2 (learn p)
      else
        let q := sendResume n p
        let q := if resumes (b.strait n) r then resumeLink n r q
          else (freshStart n q).modStrait n fun y => { y with txXoff := r.xoff }
        let q := q.modStrait n fun y => { validPeer r y with rxXoff := y.xoffNow }
        let q := if (q.strait n).reqWake then goUp n q else endStraitOp n (goUp n q)
        sendReport 0x02 [(115, n), (98, r.node.toNat)] (storeLanes n q) := by
  obtain ⟨p, seen⟩ : ∃ p, peerSeen n r b = p := ⟨_, rfl⟩
  have wide : ¬ n < 2 := by omega
  have strait := peerSeen_strait n r b
  rw [seen] at strait
  have ok : peerOk (p.strait n) r = peerOk (b.strait n) r := by rw [strait]; rfl
  have cls : (p.strait n).cls = (b.strait n).cls := by rw [strait]; rfl
  have epochs : resumes (((lanesNoted n r b).modStrait n fun y => { y with map := laneMapOf r.good, tuning := r.tuning }).strait n) r =
      resumes (b.strait n) r := by
    rw [Block.modStrait_strait, lanesNoted_strait]; rfl
  rw [seen]
  unfold peerSeen at seen
  unfold lanesNoted at seen epochs
  simp only [coreTrainingComplete, training, present, wide, good, lanesOk, Bool.not_false, and_self, decide_true,
    Bool.not_true, Bool.false_eq_true, if_false, if_true, seen, ok, cls, epochs]


theorem trainingComplete_refused {st : StraitSt} {cause : Nat} (refused :
    ((!peerOk (b.strait n) r) = true ∧ st = .miswired ∧ cause = 4) ∨
    (peerOk (b.strait n) r = true ∧ clsRtt (b.strait n).cls < r.rtt.toNat ∧ st = .failed ∧ cause = 2)) :
    ((b.strait n).st = .train →
      coreTrainingComplete n r b = failStrait n st cause ((peerSeen n r b).modStrait n (validPeer r))) ∧
    ((b.strait n).st = .retrain → coreTrainingComplete n r b = retryAttempt n (peerSeen n r b)) := by
  have strait := peerSeen_strait n r b
  have failed : coreTrainingComplete n r b = checkFailed n st cause
      (if (b.strait n).st = .retrain then peerSeen n r b else (peerSeen n r b).modStrait n (validPeer r)) := by
    rw [trainingComplete_checks training present serdes good]
    obtain ⟨other, rfl, rfl⟩ | ⟨same, far, rfl, rfl⟩ := refused
    · exact if_pos other
    · exact (if_neg (by simp [same])).trans (if_pos far)
  refine ⟨fun train => failed.trans ?_, fun retrain => failed.trans ?_⟩
  · rw [if_neg (by rw [train]; decide)]
    refine checkFailed_train ?_
    rw [Block.modStrait_strait, strait]
    exact train
  · rw [if_pos retrain]
    refine checkFailed_retrain ?_
    rw [strait]
    exact retrain

end

/-! ### Drain and calibration -/

section
variable {n : Nat} {b : Block}

theorem drainComplete_iff :
    ((b.strait n).st = .drain ∧ (b.strait n).replay.isEmpty ∧ (b.eg n).cur.isNone ∧ (b.strait n).ingress.all InPkt.complete ∧
      (b.strait n).ctrl.all (fun c => c.type.toNat != cfCalReq)) ↔
    ((b.strait n).st = .drain ∧ (b.strait n).replay = [] ∧ (b.eg n).cur = none ∧
      (∀ p ∈ (b.strait n).ingress, p.need ≤ p.got) ∧ ∀ c ∈ (b.strait n).ctrl, c.type.toNat ≠ cfCalReq) := by
  simp [InPkt.complete]

variable (done : (b.strait n).st = .drain ∧ (b.strait n).replay = [] ∧ (b.eg n).cur = none ∧
  (∀ p ∈ (b.strait n).ingress, p.need ≤ p.got) ∧ ∀ c ∈ (b.strait n).ctrl, c.type.toNat ≠ cfCalReq)
include done

theorem drainComplete_calibrates (req : (b.strait n).req = .calibrate) : coreDrainComplete n b = setState n .calibrate b := by
  refine (if_pos (drainComplete_iff.mpr done)).trans ?_
  simp only [req]

theorem drainComplete_retrains (req : (b.strait n).req = .retrain) :
    coreDrainComplete n b = setState n .retrain (b.modStrait n fun y => { y with attempts := 0, retraining := true }) := by
  refine (if_pos (drainComplete_iff.mpr done)).trans ?_
  simp only [req]

end

section
variable {n : Nat} {b : Block} {good : BitVec 5} {r : TrainResult} (present : b.maint.lost = false)
  (calibrates : (b.strait n).st = .calibrate) (serdes : 2 ≤ n)
include present calibrates serdes

theorem calibrationEnd_eq :
    coreCalibrationEnd n good r b =
      if (List.range 4).all (fun k => bitAt good (bits (b.strait n).map (3 * k + 2) (3 * k))) then
        endStraitOp n (goUp n (resumeLink n r (sendResume n (b.modStrait n fun y => { y with tuning := r.tuning }))))
      else setState n .retrain (b.modStrait n fun y => { y with attempts := 0, retraining := true, req := .retrain }) := by
  have wide : ¬ n < 2 := by omega
  simp only [coreCalibrationEnd, present, calibrates, wide, Bool.false_eq_true, if_false, if_true]

end

end Sys2Proof.Machine

open Sys2Proof Sys2Proof.Machine

/-- Settles O37: each check of Table 10.7 in its order, then the drain and the calibration by what holds them. -/
theorem straitsTrainAndFail : Obligations.StraitsTrainAndFail := by
  intro s n present x training retry
  replace present : s.start.maint.lost = false := present
  have lost : ¬ s.start.maint.lost = true := fun lost => Bool.false_ne_true (present.symm.trans lost)
  refine ⟨fun lanes detect ready signal => ?detected, fun lanes held => ?held, rfl, fun r training serdes => ?complete,
    fun init train => ?trainFails, fun init retrain other => ?retrainFails, fun retrain causeway => ?moduleFails,
    fun good r calibrates serdes => ⟨fun pass => ?passes, fun k four bad => ?fails⟩,
    fun drain held cur whole gone => ⟨fun req => ?calibrates, fun req => ?retrains⟩, fun drain held => ?drains,
    fun drain => act_eq (s := s) (if_pos drain)⟩
  case detected =>
    exact act_eq (s := s) (if_pos ⟨detect, ready, signal, by rw [present]; rfl⟩)
  case held =>
    refine act_eq (s := s) (if_neg fun ⟨detect, ready, signal, _⟩ => ?_)
    obtain other | unready | dark := held
    · exact other detect
    · exact Bool.false_ne_true (unready.symm.trans ready)
    · omega
  case complete =>
    intro lanes params seen known expected
    have exchanged : peerSeen n r s.start = seen s.start := peerSeen_eq n r s.start
    have again {q : Block} (same : (q.strait n).attempts = x.attempts) : retryAttempt n q = retry q := by
      unfold retryAttempt
      rw [same]
    have noted : ((lanesNoted n r s.start).strait n).attempts = x.attempts := by rw [lanesNoted_strait]; rfl
    have seenAttempts : ((peerSeen n r s.start).strait n).attempts = x.attempts := by rw [peerSeen_strait]; rfl
    have peer : peerOk (s.start.strait n) r = true ↔ expected := peerOk_iff (s.start.strait n) r
    have refused {st : StraitSt} {cause : Nat} (good : (badLanes r.good).length < 2) (why :
        ((!peerOk (s.start.strait n) r) = true ∧ st = .miswired ∧ cause = 4) ∨
        (peerOk (s.start.strait n) r = true ∧ clsRtt (s.start.strait n).cls < r.rtt.toNat ∧ st = .failed ∧ cause = 2)) :
        (x.st = .train → Machine.exec (.trainingComplete n r) s = .next (s.after fun b =>
          failStrait n st cause (known (seen b)))) ∧
        (x.st = .retrain → Machine.exec (.trainingComplete n r) s = .next (s.after fun b => retry (seen b))) := by
      obtain ⟨inTrain, inRetrain⟩ := trainingComplete_refused (b := s.start) training present serdes good why
      refine ⟨fun train => act_eq (s := s) ((inTrain train).trans ?_), fun retrain => act_eq (s := s) ((inRetrain retrain).trans ?_)⟩
      · rw [exchanged]; rfl
      · rw [again seenAttempts, exchanged]
    refine ⟨fun bad => ⟨fun train => ?laneless, fun retrain => ?laneRetry⟩, fun good other => ?miswired,
      fun good same far => ?far, fun good same near => ?up⟩
    case laneless =>
      refine act_eq (s := s) ((trainingComplete_lanes (b := s.start) training present serdes bad).trans ?_)
      refine attemptFailed_train ?_
      rw [lanesNoted_strait]
      exact train
    case laneRetry =>
      refine act_eq (s := s) ((trainingComplete_lanes (b := s.start) training present serdes bad).trans ?_)
      refine (attemptFailed_retrain ?_ (.inl serdes)).trans (again noted)
      rw [lanesNoted_strait]
      exact retrain
    case miswired =>
      exact refused good (.inl ⟨by rw [Bool.not_eq_true', ← Bool.not_eq_true, peer]; exact other, rfl, rfl⟩)
    case far => exact refused good (.inr ⟨peer.mpr same, far, rfl, rfl⟩)
    case up =>
      refine act_eq (s := s) ((trainingComplete_checks (b := s.start) training present serdes good).trans ?_)
      refine (if_neg (by rw [peer.mpr same]; decide)).trans ((if_neg (Nat.not_lt.mpr near)).trans ?_)
      rw [exchanged]
      simp only [resumes_iff]
      rfl
  case trainFails =>
    refine act_eq (s := s) ((if_neg lost).trans (attemptFailed_train (b := s.start) train))
  case retrainFails =>
    refine act_eq (s := s) ((if_neg lost).trans (attemptFailed_retrain (b := s.start) retrain other))
  case moduleFails =>
    refine act_eq (s := s) ((if_neg lost).trans (attemptFailed_module (b := s.start) retrain causeway))
  case passes =>
    refine act_eq (s := s) ((calibrationEnd_eq (b := s.start) present calibrates serdes).trans (if_pos ?_))
    exact List.all_eq_true.mpr fun k inside => pass k (List.mem_range.mp inside)
  case fails =>
    refine act_eq (s := s) ((calibrationEnd_eq (b := s.start) present calibrates serdes).trans (if_neg fun pass => ?_))
    exact Bool.false_ne_true (bad.symm.trans (List.all_eq_true.mp pass k (List.mem_range.mpr four)))
  case calibrates =>
    exact act_eq (s := s) (drainComplete_calibrates (b := s.start) ⟨drain, held, cur, whole, gone⟩ req)
  case retrains =>
    exact act_eq (s := s) (drainComplete_retrains (b := s.start) ⟨drain, held, cur, whole, gone⟩ req)
  case drains =>
    refine act_eq (s := s) (if_neg fun done => ?_)
    obtain ⟨-, empty, idle, -, gone⟩ := (drainComplete_iff (b := s.start)).mp done
    obtain holds | sends | ⟨c, queued, cal⟩ := held
    · exact holds empty
    · exact absurd (idle ▸ sends : (none : Option Cur).isSome = true) (by decide)
    · exact gone c queued cal

end

section
/-!
PROOFS. Writes to STRAIT[n].CTRL (Table 10.8): ENABLE, and the requests in the order of their checks.
-/

namespace Sys2Proof.Machine

/-! ### The register -/

/-- A write that asks for one of the two operations, ENABLE as it stands. -/
theorem writeStraitCtrl_request {p : Path} {n : Nat} {v : Word} {b : Block} {retrain force : Bool}
    (enabled : (b.strait n).enable = true) (bonded : bitAt b.maint.straps (32 + n) = true) (enable : bitAt v 0 = true)
    (second : bitAt v 1 = retrain) (third : bitAt v 2 = !retrain) (fourth : bitAt v 3 = force) :
    writeStraitCtrl p n v b = straitRequest (if retrain then .retrain else .calibrate) p.holder n force b := by
  cases retrain <;> simp [writeStraitCtrl, enabled, bonded, enable, second, third, fourth]

section
variable {s : State} {p : Path} {n : StraitId} (writable : s.blk.Writable p (0x10010 + 0x800 * n.val)) {f : Block → Block}
include writable

theorem straitWrite {v : Word} (effect : ∀ w, (writeStraitCtrl p n v (s.marked w)).2 = f (s.marked w)) :
    s.act (busWrite p (0x10010 + 0x800 * n.val) true v s.lees) = .next (s.afterWrite (0x10010 + 0x800 * n.val) f) := by
  have register : Reg.ofOffset (0x10010 + 0x800 * n.val) = .strait n.val 0x10 := by
    rw [← ofOffset_strait n.isLt (by decide : 0x10 < 0x800)]
    congr 1
    omega
  exact regWrite_kicked v f writable (by omega) register effect

theorem exec_straitEnable (effect : ∀ w, (writeStraitCtrl p n 1 (s.marked w)).2 = f (s.marked w)) :
    Machine.exec (.straitEnable p n) s = .next (s.afterWrite (0x10010 + 0x800 * n.val) f) := straitWrite writable effect

theorem exec_straitDisable (effect : ∀ w, (writeStraitCtrl p n 0 (s.marked w)).2 = f (s.marked w)) :
    Machine.exec (.straitDisable p n) s = .next (s.afterWrite (0x10010 + 0x800 * n.val) f) := straitWrite writable effect

theorem exec_straitRequest {retrain force : Bool} (enabled : (s.blk.strait n).enable = true)
    (bonded : bitAt s.blk.maint.straps (32 + n.val) = true)
    (effect : ∀ w, (straitRequest (if retrain then .retrain else .calibrate) p.holder n force (s.marked w)).2 = f (s.marked w)) :
    (if retrain then Machine.exec (.straitRetrain p n force) s else Machine.exec (.straitCalibrate p n force) s) =
      .next (s.afterWrite (0x10010 + 0x800 * n.val) f) := by
  have asks (bit : Nat) (v : Word) (value : BitVec.ofNat 64 (bit + 8 * force.toNat + true.toNat) = v)
      (effect : ∀ w, (writeStraitCtrl p n v (s.marked w)).2 = f (s.marked w)) :
      s.act (straitAction p n bit force s.lees) = .next (s.afterWrite (0x10010 + 0x800 * n.val) f) := by
    refine Eq.trans ?_ (straitWrite writable effect)
    refine (act_eq (s := s) (?_ : _ = busWrite p (0x10010 + 0x800 * n.val) true v s.lees s.start)).trans (act_eq rfl).symm
    have on : (s.start.strait n).enable = true := enabled
    rw [straitAction, on, value]
  have requests (bit : Nat) (v : Word) (value : BitVec.ofNat 64 (bit + 8 * force.toNat + true.toNat) = v)
      (enable : bitAt v 0 = true) (second : bitAt v 1 = retrain) (third : bitAt v 2 = !retrain) (fourth : bitAt v 3 = force) :
      s.act (straitAction p n bit force s.lees) = .next (s.afterWrite (0x10010 + 0x800 * n.val) f) :=
    asks bit v value fun w => (congrArg Prod.snd (writeStraitCtrl_request (b := s.marked w) enabled bonded enable second third
      fourth)).trans (effect w)
  cases retrain
  · exact requests 4 _ rfl (by cases force <;> decide) (by cases force <;> decide) (by cases force <;> decide)
      (by cases force <;> decide)
  · exact requests 2 _ rfl (by cases force <;> decide) (by cases force <;> decide) (by cases force <;> decide)
      (by cases force <;> decide)

end

/-! ### ENABLE -/

section
variable {p : Path} {n : Nat} {v : Word} {b : Block} (quiet : bitAt v 1 = false ∧ bitAt v 2 = false)
include quiet

theorem enableWrite_bonded (enable : bitAt v 0 = true) (bonded : bitAt b.maint.straps (32 + n) = true) (off : (b.strait n).enable = false)
    (disabled : (b.strait n).st = .disabled) :
    writeStraitCtrl p n v b =
      (.ok, startClock (setState n .detect (b.modStrait n fun y => { y with enable := true, attempts := 0, cause := 0 }))) := by
  have st : ((b.modStrait n fun y => { y with enable := true }).strait n).st = .disabled := by
    rw [Block.modStrait_strait]; exact disabled
  have straps : ¬ (!bitAt b.maint.straps (32 + n)) = true := by simp [bonded]
  have enabled : enableStrait n b =
      startClock (setState n .detect (b.modStrait n fun y => { y with enable := true, attempts := 0, cause := 0 })) := by
    refine (if_neg straps).trans ((if_pos st).trans ?_)
    rw [Block.modStrait_modStrait]
  simp [writeStraitCtrl, quiet, enable, bonded, off, enabled, okWrite]

theorem enableWrite_unbonded (enable : bitAt v 0 = true) (unbonded : ¬ bitAt b.maint.straps (32 + n) = true) : writeStraitCtrl p n v b = (.ok, b) := by
  simp [writeStraitCtrl, quiet, enable, unbonded, okWrite]

theorem disableWrite_enabled (disable : bitAt v 0 = false) (on : (b.strait n).enable = true) (other : (b.strait n).st ≠ .disabled) :
    writeStraitCtrl p n v b = (.ok, endStraitOp n (endWake n (discardLink n (setState n .disabled (b.modStrait n fun y =>
      { y with enable := false, cause := 0, retraining := false, peerDrain := false, dozeSent := false, dozeGot := none
               quiet := false }))))) := by
  have st : ¬ ((b.modStrait n fun y => { y with
      enable := false, cause := 0, retraining := false, peerDrain := false, dozeSent := false, dozeGot := none
      quiet := false }).strait n).st = .disabled := by
    rw [Block.modStrait_strait]; exact other
  have disabled : disableStrait n b = _ := if_neg st
  simp [writeStraitCtrl, quiet, disable, on, disabled, okWrite]

theorem disableWrite_disabled (disable : bitAt v 0 = false) (off : (b.strait n).enable = false) : writeStraitCtrl p n v b = (.ok, b) := by
  simp [writeStraitCtrl, quiet, disable, off, okWrite]

end

/-! ### The requests -/

section
variable {kind : StraitReq} {h n : Nat} {force : Bool} {b : Block}

theorem straitRequest_busy (busy : tokenBusy b n h = true) :
    straitRequest kind h n force b = (.busy, straitStatus n .busy (b.token n).holder b) := if_pos busy

variable (mine : ¬ tokenBusy b n h = true)
include mine

theorem straitRequest_disabled (disabled : (b.strait n).st = .disabled) :
    straitRequest kind h n force b = (.access, straitStatus n .access 0 b) := (if_neg mine).trans (if_pos disabled)

section
variable (failed : (b.strait n).st = .failed ∨ (b.strait n).st = .miswired)
include failed

theorem straitRequest_failed_calibrate : straitRequest .calibrate h n force b = (.access, straitStatus n .access 0 b) := by
  have up : (b.strait n).st ≠ .disabled := by rintro disabled; rw [disabled] at failed; simp at failed
  exact (if_neg mine).trans ((if_neg up).trans ((if_pos failed).trans (if_neg (by decide))))

theorem straitRequest_failed_retrain :
    straitRequest .retrain h n force b = (.ok, straitStatus n .ok 0 (startClock (setState n .detect
      ((takeToken n h b).modStrait n fun y => { y with attempts := 0, cause := 0, req := .none, reqHolder := h })))) := by
  have up : (b.strait n).st ≠ .disabled := by rintro disabled; rw [disabled] at failed; simp at failed
  exact (if_neg mine).trans ((if_neg up).trans ((if_pos failed).trans (if_pos rfl)))

end

theorem straitRequest_between (st : (b.strait n).st = .detect ∨ (b.strait n).st = .train ∨ (b.strait n).st = .retrain ∨
    (b.strait n).st = .drain ∨ (b.strait n).st = .calibrate) :
    straitRequest kind h n force b = (.busyActive, straitStatus n .busyActive 0 b) := by
  have sleeps : (b.strait n).st ≠ .disabled ∧ ¬((b.strait n).st = .failed ∨ (b.strait n).st = .miswired) ∧
      (b.strait n).st.carries = false := by
    obtain st | st | st | st | st := st <;> simp [st, StraitSt.carries]
  exact (if_neg mine).trans ((if_neg sleeps.1).trans ((if_neg sleeps.2.1).trans (if_pos (by rw [sleeps.2.2]; rfl))))

variable (carries : (b.strait n).st.carries = true)
include carries

theorem straitRequest_carries :
    straitRequest kind h n force b =
      if kind = .calibrate ∧ b.maint.activating then (.busyActive, straitStatus n .busyActive 0 b)
      else if !force ∧ onlyPath b n then (.noAlternate, straitStatus n .noAlternate 0 b)
      else
        let q := (takeToken n h b).modStrait n fun y => { y with req := kind, reqHolder := h, forced := force }
        if (b.strait n).st = .up then (.ok, straitStatus n .ok 0 (enterDrain n q))
        else (.ok, straitStatus n .ok 0 (wakeStraits [n] (startClock (q.modStrait n fun y => { y with reqWake := true })))) := by
  have lives : (b.strait n).st ≠ .disabled ∧ ¬((b.strait n).st = .failed ∨ (b.strait n).st = .miswired) := by
    constructor <;> intro st
    · rw [st] at carries; exact absurd carries (by decide)
    · obtain st | st := st <;> (rw [st] at carries; exact absurd carries (by decide))
  exact (if_neg mine).trans ((if_neg lives.1).trans ((if_neg lives.2).trans (if_neg (by rw [carries]; decide))))

end

end Sys2Proof.Machine

open Sys2Proof Sys2Proof.Machine

/-- Settles O38: ENABLE by the state it finds, and each request answered at its first check that fails. -/
theorem straitControlWrites : Obligations.StraitControlWrites := by
  intro s p n writable x bonded after
  have quiet (v : Word) (low : v = 0 ∨ v = 1) : bitAt v 1 = false ∧ bitAt v 2 = false := by
    obtain rfl | rfl := low <;> decide
  refine ⟨fun here off disabled => exec_straitEnable writable fun w => ?enable,
    fun there => exec_straitEnable writable fun w => ?unbonded,
    fun on other => exec_straitDisable writable fun w => ?disable,
    fun off => exec_straitDisable writable fun w => ?disabled, fun on here retrain force => ?request⟩
  case enable =>
    rw [enableWrite_bonded (b := s.marked w) (quiet 1 (.inr rfl)) (by decide) here off disabled]
  case unbonded =>
    rw [enableWrite_unbonded (b := s.marked w) (quiet 1 (.inr rfl)) (by decide) there, id_eq]
  case disable =>
    rw [disableWrite_enabled (b := s.marked w) (quiet 0 (.inl rfl)) (by decide) on other]
  case disabled =>
    rw [disableWrite_disabled (b := s.marked w) (quiet 0 (.inl rfl)) (by decide) off, id_eq]
  case request =>
    intro kind exec mine asked free idle
    have answers {st : Status} {f : Block → Block} (effect : ∀ w, straitRequest kind p.holder n force (s.marked w) = (st, f (s.marked w))) :
        exec s = after f := exec_straitRequest writable on here fun w => congrArg Prod.snd (effect w)
    have ours (own : mine) (w : Bool) : ¬ tokenBusy (s.marked w) n p.holder = true :=
      fun busy => Bool.false_ne_true (own.symm.trans busy)
    have rests_iff (w : Bool) : ¬(kind = .calibrate ∧ (s.marked w).maint.activating = true) ↔ idle := by
      cases retrain <;> simp [kind, idle, State.marked]
    have other_iff (w : Bool) : ¬((!force) = true ∧ onlyPath (s.marked w) n = true) ↔ free := by
      have same : onlyPath (s.marked w) n = onlyPath s.start n := rfl
      cases force <;> simp [free, same]
    refine ⟨fun busy => answers fun w => straitRequest_busy (b := s.marked w) busy,
      fun own disabled => answers fun w => straitRequest_disabled (ours own w) disabled, fun own failed calibrate => ?calibrate,
      fun own failed retrains => ?retrain, fun own between => answers fun w => straitRequest_between (ours own w) between,
      fun own carries busy => answers (st := .busyActive) fun w => ?activating, fun own carries rests only => answers (st := .noAlternate) fun w => ?only,
      fun own up rests other => answers (st := .ok) fun w => ?up, fun own carries down rests other => answers (st := .ok) fun w => ?wakes⟩
    case calibrate =>
      subst calibrate
      exact answers fun w => straitRequest_failed_calibrate (ours own w) failed
    case retrain =>
      subst retrains
      exact answers fun w => straitRequest_failed_retrain (ours own w) failed
    case activating =>
      exact (straitRequest_carries (ours own w) carries).trans (if_pos (not_not.mp fun held => busy ((rests_iff w).mp held)))
    case only =>
      exact (straitRequest_carries (ours own w) carries).trans ((if_neg ((rests_iff w).mpr rests)).trans
        (if_pos (not_not.mp fun held => only ((other_iff w).mp held))))
    case up =>
      exact (straitRequest_carries (ours own w) (congrArg StraitSt.carries up)).trans
        ((if_neg ((rests_iff w).mpr rests)).trans ((if_neg ((other_iff w).mpr other)).trans (if_pos up)))
    case wakes =>
      exact (straitRequest_carries (ours own w) carries).trans
        ((if_neg ((rests_iff w).mpr rests)).trans ((if_neg ((other_iff w).mpr other)).trans (if_neg down)))

end

section
/-!
PROOFS. What a strait sends (R336, R431 to R440, R563, R564): the fields of a flit that the block makes, then the choices
at a flit boundary and at a packet boundary.
-/

namespace Sys2Proof.Machine

/-! ### The fields of a flit (Table 10.2) -/

/-- The fields of a trailer above its CRC. -/
def trailerHigh (fseq : BitVec 12) (vc kind : Nat) (ack : BitVec 12) (ackv psn : Bool) : Nat :=
  fseq.toNat * 2 ^ 20 + (vc * 2 ^ 17 + (kind * 2 ^ 15 + (ack.toNat * 2 ^ 3 + (ackv.toNat * 2 ^ 2 + psn.toNat * 2))))

theorem pow_256 (k : Nat) : 256 ^ k = 2 ^ (8 * k) := by rw [Nat.pow_mul]

theorem withCrc_toNat {n : Nat} (fits : n < 2 ^ 992) :
    (withCrc n).toNat = n + bytesNat (natBytes 4 (crc32 (natBytes 124 n)).toNat).reverse * 2 ^ 992 := by
  have crc := bytesNat_lt (natBytes 4 (crc32 (natBytes 124 n)).toNat).reverse
  rw [List.length_reverse, natBytes_length] at crc
  unfold withCrc
  rw [BitVec.toNat_ofNat, Nat.mod_eq_of_lt fits]
  exact Nat.mod_eq_of_lt (by omega)

section
variable {body : BitVec 960} {fseq ack : BitVec 12} {vc kind : Nat} {ackv psn : Bool} (vcFits : vc < 8) (kindFits : kind < 4)
include vcFits kindFits

theorem trailerHigh_lt : trailerHigh fseq vc kind ack ackv psn < 2 ^ 32 := by
  have := fseq.isLt
  have := ack.isLt
  have := Bool.toNat_lt ackv
  have := Bool.toNat_lt psn
  unfold trailerHigh
  omega

omit vcFits kindFits in
theorem flitImage_toNat : ∃ c < 2 ^ 32,
    c = (crc32 (natBytes 124 (body.toNat + bytesNat (natBytes 4 (trailerHigh fseq vc kind ack ackv psn)).reverse * 2 ^ 960))).toNat ∧
    (flitImage body fseq vc kind ack ackv psn).toNat =
      body.toNat + bytesNat ((natBytes 4 (trailerHigh fseq vc kind ack ackv psn)).reverse ++ (natBytes 4 c).reverse) * 2 ^ 960 := by
  have high : packNat [(20, fseq.toNat), (17, vc), (15, kind), (3, ack.toNat), (2, ackv.toNat), (1, psn.toNat)] =
      trailerHigh fseq vc kind ack ackv psn := by
    simp only [packNat, Nat.shiftLeft_eq, trailerHigh]
    omega
  have small := bytesNat_lt (natBytes 4 (trailerHigh fseq vc kind ack ackv psn)).reverse
  rw [List.length_reverse, natBytes_length] at small
  have inside := body.isLt
  refine ⟨_, BitVec.isLt _, rfl, ?_⟩
  unfold flitImage
  rw [high, withCrc_toNat (by omega), bytesNat_append, List.length_reverse, natBytes_length]
  omega

/-- The trailer of a flit that the block makes, and its CRC over the bytes before it. -/
theorem flitImage_trailer : ∃ c < 2 ^ 32,
    flitTrailer (flitImage body fseq vc kind ack ackv psn) =
      BitVec.ofNat 64 (trailerHigh fseq vc kind ack ackv psn * 2 ^ 32 + c) ∧
    (crc32 (flitBytes (flitImage body fseq vc kind ack ackv psn) 0 124)).toNat = c := by
  obtain ⟨c, small, crc, image⟩ :=
    flitImage_toNat (body := body) (fseq := fseq) (vc := vc) (kind := kind) (ack := ack) (ackv := ackv) (psn := psn)
  have inside := body.isLt
  refine ⟨c, small, flitTrailer_of _ _ _ (trailerHigh_lt vcFits kindFits) small ?_, ?_⟩
  · rw [image]
    omega
  · have high := bytesNat_lt (natBytes 4 (trailerHigh fseq vc kind ack ackv psn)).reverse
    rw [List.length_reverse, natBytes_length] at high
    have low : (flitImage body fseq vc kind ack ackv psn).toNat / 2 ^ (8 * 0) % 256 ^ 124 =
        body.toNat + bytesNat (natBytes 4 (trailerHigh fseq vc kind ack ackv psn)).reverse * 2 ^ 960 := by
      rw [image, bytesNat_append, List.length_reverse, natBytes_length, pow_256]
      omega
    rw [crc, flitBytes_eq, ← natBytes_mod, low]

theorem flitImage_fields :
    let f := flitImage body fseq vc kind ack ackv psn
    let t := flitTrailer f
    flitCrcOk f = true ∧ flitBodyOf f = body ∧ tFseq t = fseq ∧ tVc t = vc ∧ tKind t = kind ∧ tAck t = ack ∧
      tAckv t = ackv ∧ tPsn t = psn := by
  intro f t
  obtain ⟨c, small, trailer, crc⟩ :=
    flitImage_trailer (body := body) (fseq := fseq) (ack := ack) (ackv := ackv) (psn := psn) vcFits kindFits
  obtain ⟨_, _, _, image⟩ :=
    flitImage_toNat (body := body) (fseq := fseq) (vc := vc) (kind := kind) (ack := ack) (ackv := ackv) (psn := psn)
  have seq := fseq.isLt
  have last := ack.isLt
  have acked := Bool.toNat_lt ackv
  have poisoned := Bool.toNat_lt psn
  have field (hi lo : Nat) : bits t hi lo =
      (trailerHigh fseq vc kind ack ackv psn * 2 ^ 32 + c) % 2 ^ 64 / 2 ^ lo % 2 ^ (hi + 1 - lo) := by
    rw [show t = _ from trailer, bits_ofNat]
  unfold trailerHigh at field
  refine ⟨beq_iff_eq.mpr ?crc, BitVec.eq_of_toNat_eq ?body, BitVec.eq_of_toNat_eq ?seq, ?vc, ?kind,
    BitVec.eq_of_toNat_eq ?ack, bitAt_of_bits ?acked, bitAt_of_bits ?poisoned⟩
  case crc => rw [crc, field]; omega
  case body => rw [flitBodyOf, BitVec.toNat_ofNat, image]; omega
  case seq => rw [tFseq, BitVec.toNat_ofNat, field]; omega
  case vc => rw [tVc, field]; omega
  case kind => rw [tKind, field]; omega
  case ack => rw [tAck, BitVec.toNat_ofNat, field]; omega
  case acked => rw [field]; omega
  case poisoned => rw [field]; omega

end

/-! ### At a flit boundary -/

theorem sendTime_egress (n type : Nat) (b : Block) : (sendTime n type b).egress = b.egress := rfl

theorem ite_egress {c : Prop} [Decidable c] {x y : Block} {e : Tbl Egress} (left : x.egress = e) (right : y.egress = e) :
    (if c then x else y).egress = e := by
  split <;> assumption

theorem timeDue_egress (n : Nat) (b : Block) : (timeDue n b).egress = b.egress := by
  unfold timeDue
  split
  case isTrue =>
    exact ite_egress ((sendTime_egress n 0x2 _).trans (ite_egress rfl rfl)) (ite_egress rfl rfl)
  case isFalse => rfl

@[simp] theorem timeDue_eg (n k : Nat) (b : Block) : (timeDue n b).eg k = b.eg k := by
  rw [Block.eg, timeDue_egress]; rfl

theorem timeDue_none {n : Nat} {b : Block} (none : bitAt b.time.due n = false ∨ (b.strait n).st ≠ .up ∨ b.maint.lost = true) :
    timeDue n b = b := by
  refine if_neg fun ⟨due, up, present⟩ => ?_
  obtain undue | down | lost := none
  · exact Bool.false_ne_true (undue.symm.trans due)
  · exact down up
  · exact absurd present (by simp [lost])

section
variable {n : Nat} {hit : Bool} {stamp : Word} {b : Block} (carries : ((b.strait n).st = .up ∨ (b.strait n).st = .drain) ∧ b.dpRuns = true)
  {x : Strait} (strait : (timeDue n b).strait n = x)
include carries strait

theorem flitBoundary_doze {deep off : BitVec 16} (up : x.st = .up) (sent : x.dozeSent = true)
    (got : x.dozeGot = some (deep, off)) : coreFlitBoundary n hit stamp b = enterDoze n deep off (timeDue n b) := by
  simp only [coreFlitBoundary, if_pos carries, strait, got, sent, up, beq_self_eq_true, Bool.and_self]

variable (awake : ¬(x.dozeGot.isSome = true ∧ x.dozeSent = true ∧ x.st = .up))
include awake

/-- A strait with no doze agreed sends a NAK that is due, then a control flit, and then goes on. -/
theorem flitBoundary_awake :
    coreFlitBoundary n hit stamp b =
      let b := timeDue n b
      if x.nakDue then
        (sendCtrl n { ctl cfNak with nakSeq := x.expected } b).modStrait n fun s =>
          { s with nakDue := false, naksSent := s.naksSent + 1 }
      else match x.ctrl with
      | c :: rest => sendQueued n c stamp (b.modStrait n fun s => { s with ctrl := rest })
      | [] =>
        match x.replayPos with
        | some i =>
          match x.replay[i]? with
          | some h => sendReplay n i h hit b
          | none => b.modStrait n fun s => { s with replayPos := none }
        | none =>
          if clsReplay x.cls ≤ x.replay.length then sendCtrl n (ctl cfIdle) b
          else
            match (b.eg n).cells, (b.eg n).cur with
            | c :: rest, cur =>
              if !bitAt x.txXoff 0 ∧ x.st = .up ∧ !x.peerDrain then sendCell n c rest b
              else match cur with
                | some k => sendBody n k hit b
                | none => sendCtrl n (ctl cfIdle) b
            | [], some k => sendBody n k hit b
            | [], none => sendCtrl n (ctl cfIdle) b := by
  have quiet : (x.dozeSent && x.st == .up) = false ∨ x.dozeGot = none := by
    cases got : x.dozeGot with
    | none => exact .inr rfl
    | some g =>
      refine .inl (Bool.eq_false_iff.mpr fun dozes => awake ⟨by rw [got]; rfl, ?_⟩)
      simpa using dozes
  unfold coreFlitBoundary
  rw [if_pos carries]
  simp only [strait]
  obtain quiet | quiet := quiet
  · rw [quiet]
    cases x.dozeGot <;> rfl
  · rw [quiet] <;> rfl

theorem flitBoundary_nak (due : x.nakDue = true) :
    coreFlitBoundary n hit stamp b =
      (sendCtrl n { ctl cfNak with nakSeq := x.expected } (timeDue n b)).modStrait n fun y =>
        { y with nakDue := false, naksSent := y.naksSent + 1 } := by
  rw [flitBoundary_awake carries strait awake]
  exact if_pos due

variable (quiet : x.nakDue = false)
include quiet

theorem flitBoundary_control {c : Ctrl} {rest : List Ctrl} (queued : x.ctrl = c :: rest) :
    coreFlitBoundary n hit stamp b =
      sendQueued n c stamp ((timeDue n b).modStrait n fun y => { y with ctrl := rest }) := by
  rw [flitBoundary_awake carries strait awake]
  simp only [quiet, queued, Bool.false_eq_true, if_false]

variable (empty : x.ctrl = [])
include empty

theorem flitBoundary_replay {i : Nat} {h : HeldFlit} (replays : x.replayPos = some i) (held : x.replay[i]? = some h) :
    coreFlitBoundary n hit stamp b = sendReplay n i h hit (timeDue n b) := by
  rw [flitBoundary_awake carries strait awake]
  simp only [quiet, empty, replays, held, Bool.false_eq_true, if_false]

variable (fresh : x.replayPos = none)
include fresh

theorem flitBoundary_full (full : clsReplay x.cls ≤ x.replay.length) :
    coreFlitBoundary n hit stamp b = sendCtrl n (ctl cfIdle) (timeDue n b) := by
  rw [flitBoundary_awake carries strait awake]
  simp only [quiet, empty, fresh, full, Bool.false_eq_true, if_false, if_true]

variable (room : x.replay.length < clsReplay x.cls)
include room

theorem flitBoundary_cell {c : Cell} {rest : List Cell} (cells : (b.eg n).cells = c :: rest)
    (free : bitAt x.txXoff 0 = false ∧ x.st = .up ∧ x.peerDrain = false) :
    coreFlitBoundary n hit stamp b = sendCell n c rest (timeDue n b) := by
  rw [flitBoundary_awake carries strait awake]
  obtain ⟨on, up, stays⟩ := free
  simp only [quiet, empty, fresh, Nat.not_le.mpr room, timeDue_eg, cells, on, up, stays, Bool.false_eq_true, Bool.not_false,
    if_false, and_self, if_true]

variable (noCell : (b.eg n).cells = [] ∨ ¬(bitAt x.txXoff 0 = false ∧ x.st = .up ∧ x.peerDrain = false))
include noCell

/-- With no cell to go, the packet in progress has the flit. -/
theorem flitBoundary_packet :
    coreFlitBoundary n hit stamp b = match (b.eg n).cur with
      | some k => sendBody n k hit (timeDue n b)
      | none => sendCtrl n (ctl cfIdle) (timeDue n b) := by
  rw [flitBoundary_awake carries strait awake]
  simp only [quiet, empty, fresh, Nat.not_le.mpr room, timeDue_eg, Bool.false_eq_true, if_false]
  cases cells : (b.eg n).cells with
  | nil => cases (b.eg n).cur <;> rfl
  | cons c rest =>
    obtain none | held := noCell
    · exact absurd (cells.symm.trans none) (by simp)
    · refine (if_neg ?_).trans ?_
      · simpa using held
      · cases (b.eg n).cur <;> rfl

end

/-! ### At a packet boundary -/

theorem egressPacketStart_starts {n q : Nat} {p : QPkt} {rest : List QPkt} {b : Block} (runs : b.dpRuns = true)
    (up : (b.strait n).st = .up) (stays : (b.strait n).peerDrain = false) (fresh : (b.strait n).replayPos = none)
    (idle : (b.eg n).cur = none) (first : earliest ((refreshElig n b).eg n) = some q)
    (queue : queueOf (refreshElig n b) n q = p :: rest) :
    coreEgressPacketStart n b =
      let b := refreshElig n b
      let l := chargeOf (b.eg n).ovh (pktBytes p.pkt) (pktFlits p.pkt)
      let b := b.modEg n fun y => { y with
        queues := tset y.queues q (afterHead p rest), v := tget 0 y.f q, s := tset y.s q (tget 0 y.f q), strait := charge l y.strait
        parts := match queuePart b q with
          | some k => tmod {} y.parts k (charge l)
          | none => y.parts
        cur := some { qp := p, sent := 0, flits := pktFlits p.pkt } }
      let b := { b with sched := { b.sched with delays := tmod 0 b.sched.delays q (max (b.time.loc - p.since)) } }
      refreshElig n (b.modEg n fun y => { y with f := tset y.f q (headTag b n q (tget 0 y.s q)) }) := by
  have starts : b.dpRuns ∧ (b.strait n).st = .up ∧ !(b.strait n).peerDrain ∧ (b.strait n).replayPos = none ∧ (b.eg n).cur = none :=
    ⟨runs, up, by rw [stays]; rfl, fresh, idle⟩
  unfold coreEgressPacketStart
  rw [if_pos starts]
  simp only [first, queue] <;> rfl

end Sys2Proof.Machine

open Sys2Proof Sys2Proof.Machine

/-- Settles O39: what a flit boundary finds first, in the order of the model's choices, and the head of the first queue. -/
theorem straitsSendInOrder : Obligations.StraitsSendInOrder := by
  intro s n hit stamp x e carries dozes waits cells go idle
  refine ⟨fun dark => act_eq (s := s) (if_neg dark),
    fun deep off runs up sent got => act_eq (s := s) (flitBoundary_doze (b := s.start) runs rfl up sent got),
    fun runs awake due => act_eq (s := s) (flitBoundary_nak (b := s.start) runs rfl awake due),
    fun c rest runs awake quiet queued => act_eq (s := s) (flitBoundary_control (b := s.start) runs rfl awake quiet queued),
    fun i h ⟨runs, awake, quiet, empty⟩ replays held => ?replay,
    fun ⟨runs, awake, quiet, empty⟩ fresh full =>
      act_eq (s := s) (flitBoundary_full (b := s.start) runs rfl awake quiet empty fresh full),
    fun c rest ⟨runs, awake, quiet, empty⟩ fresh room held free =>
      act_eq (s := s) (flitBoundary_cell (b := s.start) runs rfl awake quiet empty fresh room held free),
    fun k ⟨runs, awake, quiet, empty⟩ fresh room noCell cur => ?packet,
    fun ⟨runs, awake, quiet, empty⟩ fresh room noCell cur => ?nothing, fun b none => timeDue_none none,
    fun body fseq ack vc kind ackv psn vcFits kindFits => flitImage_fields vcFits kindFits,
    fun q p rest runs up stays fresh cur first queue =>
      act_eq (s := s) (egressPacketStart_starts (b := s.start) runs up stays fresh cur first queue), rfl⟩
  case replay =>
    refine act_eq (s := s) ((flitBoundary_replay (b := s.start) runs rfl awake quiet empty replays held).trans ?_)
    cases hit <;> rfl
  case packet =>
    refine act_eq (s := s) ((flitBoundary_packet (b := s.start) runs rfl awake quiet empty fresh room noCell).trans ?_)
    rw [show (s.start.eg n).cur = some k from cur]
  case nothing =>
    refine act_eq (s := s) ((flitBoundary_packet (b := s.start) runs rfl awake quiet empty fresh room noCell).trans ?_)
    rw [show (s.start.eg n).cur = none from cur]

end

section
/-!
PROOFS. Invalidations (R362 to R372): what a start covers, and how one is acknowledged.
-/

namespace Sys2Proof.Machine

/-- A field of a register's word on numbers. -/
theorem bits_word_eq (l : List (Nat × Nat)) (hi lo : Nat) :
    bits (word l) hi lo = packNat l % 2 ^ 64 / 2 ^ lo % 2 ^ (hi + 1 - lo) := bits_ofNat ..

/-! ### Starts -/

theorem invWord_fields (c : Ctx) (seq : BitVec 32) {kind : Nat} (small : kind < 4) :
    let v := word [(32, seq.toNat), (8, kind), (0, c.val)]
    bits v 9 8 = kind ∧ bits v 3 0 = c.val ∧ BitVec.ofNat 32 (bits v 63 32) = seq := by
  have context := c.isLt
  have sequence := seq.isLt
  intro v
  have fields (hi lo : Nat) : bits v hi lo =
      (seq.toNat * 2 ^ 32 + (kind * 2 ^ 8 + (c.val * 2 ^ 0 + 0))) % 2 ^ 64 / 2 ^ lo % 2 ^ (hi + 1 - lo) := by
    simp only [v, bits_word_eq, packNat, Nat.shiftLeft_eq]
  refine ⟨?_, ?_, BitVec.eq_of_toNat_eq ?_⟩
  · rw [fields]; omega
  · rw [fields]; omega
  · rw [BitVec.toNat_ofNat, fields]; omega

section
variable {s : State} {p : Path} {a : Agent} {c : Ctx} {seq : BitVec 32}

theorem invWrite (writable : s.blk.Writable p (0x70418 + 0x40 * a.val)) {kind : Nat} (small : kind < 4) {f : Block → Block}
    (effect : ∀ w, invStart a kind c.val seq (s.marked w) = f (s.marked w)) :
    s.act (busWrite p (0x70418 + 0x40 * a.val) true (word [(32, seq.toNat), (8, kind), (0, c.val)]) s.lees) =
      .next (s.afterWrite (0x70418 + 0x40 * a.val) f) := by
  obtain ⟨kindField, ctxField, seqField⟩ := invWord_fields c seq small
  have register : Reg.ofOffset (0x70418 + 0x40 * a.val) = .inv a.val 0x18 := by
    rw [← ofOffset_inv a.isLt (by decide : 0x18 < 0x40)]
    congr 1
    omega
  refine regWrite_kicked _ f writable (by omega) register fun w => Eq.trans ?_ (effect w)
  show invStart a (bits _ 9 8) (bits _ 3 0) (BitVec.ofNat 32 (bits _ 63 32)) (s.marked w) = _
  rw [kindField, ctxField, seqField]

end

section
variable {a kind ctx : Nat} {seq : BitVec 32} {b : Block}

/-- A start has its order, and the contexts that it covers. -/
def invOpened (a : Nat) (seq : BitVec 32) (cs : List Nat) (b : Block) : Block :=
  ({ b with xlat := { b.xlat with
    invalidations := b.xlat.invalidations + 1, nextOrder := b.xlat.nextOrder + 1 } } : Block).modInv a fun y => { y with
      active := true, acking := false, curSeq := seq, curFrozen := 0, curStatus := 0, old := [], ctxs := cs
      order := b.xlat.nextOrder + 1 }

theorem invOpened_order (cs : List Nat) : ((invOpened a seq cs b).inv a).order = b.xlat.nextOrder + 1 := by
  unfold invOpened
  rw [Block.modInv_inv]

theorem invStart_active (active : (b.inv a).active = true) :
    invStart a kind ctx seq b = b.modInv a fun y => { y with refSeq := seq, refCount := y.refCount + 1 } := if_pos active

variable (idle : (b.inv a).active = false)
include idle

theorem invStart_bad (bad : kind = 3 ∨ (kind = 0 ∧ (b.inv a).units.toNat = 0) ∨ (kind = 2 ∧ ctx ≠ 0)) :
    invStart a kind ctx seq b = invComplete a .access 0 (invOpened a seq [] b) := by
  simp only [invStart, idle, bad, decide_true, Bool.false_eq_true, if_false, if_true, invOpened]

theorem invStart_covers {cs : List Nat} (good : ¬(kind = 3 ∨ (kind = 0 ∧ (b.inv a).units.toNat = 0) ∨ (kind = 2 ∧ ctx ≠ 0)))
    (covered : (if kind = 2 then List.range 16 else [ctx]) = cs) :
    invStart a kind ctx seq b = restartWalks cs (dropEntries (fun e => cs.contains e.ctx &&
      (kind != 0 || e.inRange (pageOf (b.inv a).addr) (b.inv a).units.toNat))
      ((invOpened a seq cs b).each cs (raiseGen (b.xlat.nextOrder + 1)))) := by
  rw [← invOpened_order (a := a) (seq := seq) cs]
  simp only [invStart, idle, good, decide_false, Bool.false_eq_true, if_false, covered, invOpened]

end

/-! ### Acknowledgements -/

section
variable {a : Nat} {b : Block} (active : (b.inv a).active = true) (waits : (b.inv a).acking = false)
include active waits

theorem invalidationComplete_acks (gone : invUses b a = []) (first : invBehind b a = false) :
    coreInvalidationComplete a b = invComplete a .ok 0 b := by
  refine if_neg ?_
  simp [active, waits, gone, first]

omit active waits in
theorem invalidationComplete_used (used : invUses b a ≠ []) : coreInvalidationComplete a b = b := by
  refine if_pos (.inr (.inr (.inl ?_)))
  simpa using used

omit active waits in
theorem invalidationBound_behind (behind : invBehind b a = true) : coreInvalidationBound a b = b :=
  if_pos (.inr (.inr (.inr behind)))

theorem invalidationBound_freezes (used : invUses b a ≠ []) (first : invBehind b a = false) :
    coreInvalidationBound a b =
      let cs := ((invUses b a).map fun u => u.ctx).eraseDups
      invComplete a .busyDraining (BitVec.ofNat 16 ((cs.map fun d => 2 ^ d).foldl (· + ·) 0))
        (b.each cs fun d b => freezeCtx d 7 .busyDraining a 0xFF 0 b) := by
  refine if_neg ?_
  cases uses : invUses b a with
  | nil => exact absurd uses used
  | cons u r => simp [active, waits, first, List.eraseDups_cons]

end

end Sys2Proof.Machine

open Sys2Proof Sys2Proof.Machine

/-- Settles O41: a start by what it covers, and an acknowledgement by the uses left and the earlier starts. -/
theorem invalidationsDropAndWait : Obligations.InvalidationsDropAndWait := by
  intro s p a c seq writable i n start opened after covers
  refine ⟨fun active => ?refused, fun idle some_ => ?range, fun idle none => ?empty, fun idle => ?context,
    fun idle zero => ?all, fun idle named => ?named, fun active waits gone first => ?acks,
    fun active waits used => ?used⟩
  case refused =>
    exact ⟨invWrite writable (by decide) fun w => invStart_active (b := s.marked w) active,
      invWrite writable (by decide) fun w => invStart_active (b := s.marked w) active,
      invWrite writable (by decide) fun w => invStart_active (b := s.marked w) active⟩
  case range =>
    refine invWrite writable (by decide) fun w => invStart_covers (b := s.marked w) idle ?_ rfl
    rintro (three | ⟨-, none⟩ | ⟨two, -⟩)
    · omega
    · exact some_ none
    · omega
  case empty =>
    exact invWrite writable (by decide) fun w => invStart_bad (b := s.marked w) idle (.inr (.inl ⟨rfl, none⟩))
  case context =>
    exact invWrite writable (by decide) fun w => invStart_covers (b := s.marked w) idle (by omega) rfl
  case all =>
    exact invWrite writable (by decide) fun w => invStart_covers (b := s.marked w) idle (by omega) rfl
  case named =>
    exact invWrite writable (by decide) fun w => invStart_bad (b := s.marked w) idle (.inr (.inr ⟨rfl, named⟩))
  case acks =>
    exact act_eq (s := s) (invalidationComplete_acks (b := s.start) active waits gone first)
  case used =>
    exact ⟨act_eq (s := s) (invalidationComplete_used (b := s.start) used),
      fun behind => act_eq (s := s) (invalidationBound_behind (b := s.start) behind),
      fun first => act_eq (s := s) (invalidationBound_freezes (b := s.start) active waits used first)⟩

end

section
/-!
PROOFS. The commands of the RoT (Table 9.5, R398 to R404): a command ignored, answered BUSY, or run, and then each by its
refusals in their order.
-/

namespace Sys2Proof.Machine

/-! ### A command of SEC.CMD -/

/-- SEC.RESULT as a command begins. -/
def secReady (b : Block) : Block := { b with keys := { b.keys with resRefs := 0, resHolder := 0 } }

/-- The state after a command of SEC.CMD with an outcome, and what else it does. -/
def State.secDone (s : State) (st : Status) (f : Block → Block) : Host.Outcome State Fault Refusal :=
  .next (s.afterWrite 0xC0000 fun b =>
    let b := f { b with keys := { b.keys with resRefs := 0, resHolder := 0 } }
    { b with keys := { b.keys with resStatus := st.code, key := 0 } })

theorem secWrite {s : State} (writable : s.blk.Writable .rot 0xC0000) {v : Word} {op : Nat} (field : bits v 7 0 = op)
    {f : Block → Block} (effect : ∀ w, coreSecCmd op (s.marked w) = f (s.marked w)) :
    s.act (busWrite .rot 0xC0000 true v s.lees) = .next (s.afterWrite 0xC0000 f) := by
  have register : Reg.ofOffset 0xC0000 = .sec 0 := ofOffset_sec (o := 0) (by decide)
  refine regWrite_kicked v f writable (by decide) register fun w => Eq.trans ?_ (effect w)
  show coreSecCmd (bits v 7 0) (s.marked w) = _
  rw [field]

/-- The command `i` runs `g` under the key-store token. -/
def SecRow (s : State) (i : Instr) (g : Block → Status × Block) : Prop :=
  ∀ f : Block → Block, (∀ w, (if (s.marked w).keys.active then s.marked w else secRun g (s.marked w)) = f (s.marked w)) →
    Machine.exec i s = .next (s.afterWrite 0xC0000 f)

section
variable {s : State} {i : Instr} {g : Block → Status × Block}

theorem secRow (writable : s.blk.Writable .rot 0xC0000) {v : Word} {op : Nat} (field : bits v 7 0 = op)
    (row : Machine.exec i s = s.act (busWrite .rot 0xC0000 true v s.lees))
    (command : ∀ b, coreSecCmd op b = if b.keys.active then b else secRun g b) : SecRow s i g := fun _ effect =>
  row.trans (secWrite writable field fun w => (command _).trans (effect w))

theorem SecRow.ignored (row : SecRow s i g) (active : s.blk.keys.active = true) :
    Machine.exec i s = .next (s.afterWrite 0xC0000 id) := row id fun _ => if_pos active

section
variable (row : SecRow s i g) (idle : s.blk.keys.active = false)
include row idle

theorem SecRow.busy (busy : tokenBusy s.blk resKeystore Path.rot.holder = true) :
    Machine.exec i s = s.secDone .busy fun b => { b with keys := { b.keys with
      resHolder := BitVec.ofNat 8 (s.blk.token resKeystore).holder } } :=
  row _ fun _ => (if_neg (fun active => Bool.false_ne_true (idle.symm.trans active))).trans (if_pos busy)

theorem SecRow.answers (free : tokenBusy s.blk resKeystore Path.rot.holder = false) {st : Status} {f : Block → Block}
    (effect : ∀ w, g (secReady (s.marked w)) = (st, f (secReady (s.marked w)))) : Machine.exec i s = s.secDone st f := by
  refine row _ fun w => (if_neg (fun active => Bool.false_ne_true (idle.symm.trans active))).trans ?_
  refine (if_neg (fun busy => Bool.false_ne_true (free.symm.trans busy))).trans ?_
  exact congrArg secEnd (effect w)

end

section
variable (writable : s.blk.Writable .rot 0xC0000)
include writable

theorem secRow_install : SecRow s .install secInstall := secRow writable (v := 1) (op := 1) (by decide) rfl fun _ => rfl
theorem secRow_activate : SecRow s .activate secActivate := secRow writable (v := 2) (op := 2) (by decide) rfl fun _ => rfl
theorem secRow_retire : SecRow s .retire secRetire := secRow writable (v := 3) (op := 3) (by decide) rfl fun _ => rfl
theorem secRow_retireForce : SecRow s .retireForce secRetireForce :=
  secRow writable (v := 4) (op := 4) (by decide) rfl fun _ => rfl
theorem secRow_weightInstall : SecRow s .weightInstall secWeightInstall :=
  secRow writable (v := 5) (op := 5) (by decide) rfl fun _ => rfl
theorem secRow_weightGrant : SecRow s .weightGrant secWeightGrant :=
  secRow writable (v := 6) (op := 6) (by decide) rfl fun _ => rfl
theorem secRow_rangeSet : SecRow s .rangeSet secRangeSet := secRow writable (v := 7) (op := 7) (by decide) rfl fun _ => rfl
theorem secRow_snapshot : SecRow s .snapshot takeSnapshot := secRow writable (v := 8) (op := 8) (by decide) rfl fun _ => rfl

theorem exec_secCmdUndefined {op : Byte} {f : Block → Block} (effect : ∀ w, coreSecCmd op.toNat (s.marked w) = f (s.marked w)) :
    Machine.exec (.secCmdUndefined op) s = .next (s.afterWrite 0xC0000 f) := by
  refine secWrite writable ?_ effect
  have byte := op.isLt
  simp only [bits, BitVec.toNat_setWidth, Nat.shiftRight_zero]
  omega

end

end

theorem coreSecCmd_undefined {op : Nat} {b : Block} (idle : b.keys.active = false) (undefined : op = 0 ∨ 8 < op) :
    coreSecCmd op b = secEnd (.access, b) := by
  refine (if_neg (fun active => Bool.false_ne_true (idle.symm.trans active))).trans ?_
  split
  case h_9 => rfl
  all_goals omega

/-! ### Slots of a partition -/

theorem mem_partSlots {p j : Nat} : j ∈ partSlots p ↔ j = 3 * p ∨ j = 3 * p + 1 ∨ j = 3 * p + 2 := by
  simp [partSlots]

theorem slotIn_isSome {b : Block} {p : Nat} {st : KeySt} :
    (slotIn b p st).isSome = true ↔ ∃ j, (j = 3 * p ∨ j = 3 * p + 1 ∨ j = 3 * p + 2) ∧ (b.slot j).st = st := by
  simp only [slotIn, List.find?_isSome, mem_partSlots, beq_iff_eq]

theorem slotIn_isNone {b : Block} {p : Nat} {st : KeySt}
    (none : ∀ j, (j = 3 * p ∨ j = 3 * p + 1 ∨ j = 3 * p + 2) → ¬(b.slot j).st = st) : (slotIn b p st).isSome = false := by
  rw [Bool.eq_false_iff, ne_eq, slotIn_isSome]
  rintro ⟨j, mine, holds⟩
  exact none j mine holds

theorem slotIn_none {b : Block} {p : Nat} {st : KeySt} :
    slotIn b p st = none ↔ ∀ j, (j = 3 * p ∨ j = 3 * p + 1 ∨ j = 3 * p + 2) → ¬(b.slot j).st = st := by
  simp only [slotIn, List.find?_eq_none, mem_partSlots, beq_iff_eq]

theorem slotIn_first {b : Block} {p j : Nat} {st : KeySt} (mine : j = 3 * p ∨ j = 3 * p + 1 ∨ j = 3 * p + 2)
    (holds : (b.slot j).st = st)
    (first : ∀ i, (i = 3 * p ∨ i = 3 * p + 1 ∨ i = 3 * p + 2) → i < j → ¬(b.slot i).st = st) : slotIn b p st = some j := by
  have low := first (3 * p) (.inl rfl)
  have middle := first (3 * p + 1) (.inr (.inl rfl))
  obtain rfl | rfl | rfl := mine
  · simp [slotIn, partSlots, holds]
  · simp [slotIn, partSlots, holds, low (by omega)]
  · simp [slotIn, partSlots, holds, low (by omega), middle (by omega)]

/-! ### Partition keys -/

/-- REFS of SEC.RESULT has a count. -/
def refsAnswered (n : Nat) (b : Block) : Block := { b with keys := { b.keys with resRefs := BitVec.ofNat 32 n } }

/-- A key is installed in a slot of its partition. -/
def keyInstalled (j p : Nat) (key : BitVec 256) (v : BitVec 32) (b : Block) : Block :=
  let c := b.modSlot j fun _ => { st := .staged, key := key, vintage := v, pmask := BitVec.ofNat 4 (2 ^ p) }
  { c with
    keys := { c.keys with highest := tset c.keys.highest p v }
    ferry := { c.ferry with nonceHigh := clearBit c.ferry.nonceHigh j } }

/-- The key in a slot becomes the current one. -/
def keyActivated (current : Option Nat) (j : Nat) (b : Block) : Block :=
  (match current with
    | some i => b.modSlot i fun y => { y with st := .previous }
    | none => b).modSlot j fun y => { y with st := .current }

section
variable {b : Block}

theorem heldVintage_iff {p : Nat} {v : BitVec 32} :
    ((partSlots p).any fun k => (b.slot k).st != .empty && bits (b.slot k).vintage 7 0 == bits v 7 0) = true ↔
      ∃ j, (j = 3 * p ∨ j = 3 * p + 1 ∨ j = 3 * p + 2) ∧ ¬(b.slot j).st = .empty ∧ bits (b.slot j).vintage 7 0 = bits v 7 0 := by
  simp only [List.any_eq_true, mem_partSlots, Bool.and_eq_true, bne_iff_ne, beq_iff_eq]

theorem secInstall_staged (staged : (slotIn b (argPart b) .staged).isSome = true) : secInstall b = (.busyActive, b) :=
  if_pos staged

section
variable (unstaged : (slotIn b (argPart b) .staged).isSome = false)
include unstaged

theorem secInstall_access (refused : (argVintage b).toNat ≤ (tget 0 b.keys.highest (argPart b)).toNat ∨
    ∃ j, (j = 3 * argPart b ∨ j = 3 * argPart b + 1 ∨ j = 3 * argPart b + 2) ∧ ¬(b.slot j).st = .empty ∧
      bits (b.slot j).vintage 7 0 = bits (argVintage b) 7 0) : secInstall b = (.access, b) :=
  (if_neg (by simp [unstaged])).trans (if_pos (refused.imp_right (heldVintage_iff).mpr))

variable (above : (tget 0 b.keys.highest (argPart b)).toNat < (argVintage b).toNat)
  (fresh : ∀ j, (j = 3 * argPart b ∨ j = 3 * argPart b + 1 ∨ j = 3 * argPart b + 2) → ¬(b.slot j).st = .empty →
    bits (b.slot j).vintage 7 0 ≠ bits (argVintage b) 7 0)
include above fresh

theorem secInstall_slot :
    secInstall b = match slotIn b (argPart b) .empty with
      | none => (.busyActive, b)
      | some k => (.ok, freshCells k (raiseHighest (argVintage b) (argPart b) (b.modSlot k fun _ =>
          { st := .staged, key := b.keys.key, vintage := argVintage b, pmask := BitVec.ofNat 4 (2 ^ argPart b) }))) := by
  refine (if_neg (by simp [unstaged])).trans (if_neg ?_)
  rintro (low | held)
  · omega
  · obtain ⟨j, mine, full, same⟩ := (heldVintage_iff).mp held
    exact fresh j mine full same

theorem secInstall_full (full : slotIn b (argPart b) .empty = none) : secInstall b = (.busyActive, b) := by
  rw [secInstall_slot unstaged above fresh, full]

theorem secInstall_installs {j : Nat} (empty : slotIn b (argPart b) .empty = some j) {p : Nat} {key : BitVec 256} {v : BitVec 32}
    (part : argPart b = p) (held : b.keys.key = key) (vintage : argVintage b = v) :
    secInstall b = (.ok, keyInstalled j p key v b) := by
  subst part held vintage
  have raised : raiseHighest (argVintage b) (argPart b) (b.modSlot j fun _ =>
      { st := .staged, key := b.keys.key, vintage := argVintage b, pmask := BitVec.ofNat 4 (2 ^ argPart b) }) = _ := if_pos above
  rw [secInstall_slot unstaged above fresh, empty]
  simp only [raised, freshCells, keyInstalled]

end

theorem secActivate_previous (previous : (slotIn b (argPart b) .previous).isSome = true) :
    secActivate b = (.busyActive, b) := if_pos previous

section
variable (none' : slotIn b (argPart b) .previous = none)
include none'

theorem secActivate_unstaged (unstaged : slotIn b (argPart b) .staged = none) : secActivate b = (.access, b) := by
  refine (if_neg (by simp [none'])).trans ?_
  simp only [unstaged]

variable {j : Nat} (staged : slotIn b (argPart b) .staged = some j)
include staged

theorem secActivate_other (other : (b.slot j).vintage ≠ argVintage b) : secActivate b = (.access, b) := by
  refine (if_neg (by simp [none'])).trans ?_
  simp only [staged]
  exact if_pos other

theorem secActivate_activates (same : (b.slot j).vintage = argVintage b) {current : Option Nat}
    (cur : slotIn b (argPart b) .current = current) : secActivate b = (.ok, keyActivated current j b) := by
  subst cur
  refine (if_neg (by simp [none'])).trans ?_
  simp only [staged]
  exact if_neg (not_not.mpr same)

end

theorem secRetire_none (none : retireTarget b = none) :
    secRetire b = (.access, b) ∧ secRetireForce b = (.access, b) := by
  simp only [secRetire, secRetireForce, none, and_self]

section
variable {j : Nat} (target : retireTarget b = some j)
include target

theorem secRetire_eq :
    secRetire b = if (b.slot j).st = .current then (.access, b)
      else if (b.slot j).refs ≠ 0 then (.busyInUse, resultRefs j b) else (.ok, zeroiseSlot j b) := by
  simp only [secRetire, target]

theorem secRetireForce_eq : secRetireForce b = (.ok, forceSlot j b) := by
  simp only [secRetireForce, target]

end

end

end Sys2Proof.Machine

open Sys2Proof Sys2Proof.Machine

/-- Settles O44: a command is ignored, answered BUSY, or meets its refusals in their order. -/
theorem keyCommandsAct : Obligations.KeyCommandsAct := by
  intro s writable k
  have install := secRow_install writable
  have activate := secRow_activate writable
  have retire := secRow_retire writable
  have force := secRow_retireForce writable
  have weight := secRow_weightInstall writable
  have grant := secRow_weightGrant writable
  have range := secRow_rangeSet writable
  have snapshot := secRow_snapshot writable
  constructor
  case left =>
    intro active idle
    exact ⟨install.ignored active, activate.ignored active, retire.ignored active, force.ignored active, weight.ignored active,
      grant.ignored active, range.ignored active, snapshot.ignored active,
      fun op => exec_secCmdUndefined writable fun w => if_pos active⟩
  case right =>
    intro idle p v done holds mine
    refine ⟨fun held => ?busy, fun free => ⟨fun staged => ?staged, fun unstaged => ⟨fun refused => ?access,
      fun above fresh => ⟨fun full => ?full, fun j mine' empty first => ?installs⟩⟩, fun previous => ?previous,
      fun none staged => ?unstaged, fun j none staged => ⟨fun other => ?other, fun same => ?activates⟩, fun none => ?untargeted,
      fun j target => ⟨fun current => ?current, fun other used => ?used, fun other unused => ?zeroised, ?forced⟩⟩,
      fun op undefined => ?undefined⟩
    case busy =>
      exact ⟨install.busy idle held, activate.busy idle held, retire.busy idle held, force.busy idle held, weight.busy idle held,
        grant.busy idle held, range.busy idle held, snapshot.busy idle held⟩
    case staged =>
      exact install.answers idle free fun w => secInstall_staged (b := secReady (s.marked w)) (slotIn_isSome.mpr staged)
    case access =>
      exact install.answers idle free fun w => secInstall_access (b := secReady (s.marked w)) (slotIn_isNone unstaged) refused
    case full =>
      exact install.answers idle free fun w =>
        secInstall_full (b := secReady (s.marked w)) (slotIn_isNone unstaged) above fresh (slotIn_none.mpr full)
    case installs =>
      have slot : slotIn s.blk p .empty = some j := slotIn_first mine' empty first
      change _ = s.secDone .ok (keyInstalled j p k.key v)
      exact install.answers idle free fun w => secInstall_installs (b := secReady (s.marked w)) (slotIn_isNone unstaged) above
        fresh (j := j) slot (p := p) (key := k.key) (v := v) rfl rfl rfl
    case previous =>
      exact activate.answers idle free fun w => secActivate_previous (b := secReady (s.marked w)) previous
    case unstaged =>
      exact activate.answers idle free fun w => secActivate_unstaged (b := secReady (s.marked w)) none staged
    case other =>
      exact activate.answers idle free fun w => secActivate_other (b := secReady (s.marked w)) none staged other
    case activates =>
      obtain ⟨current, cur⟩ : ∃ o, slotIn s.blk p .current = o := ⟨_, rfl⟩
      rw [cur]
      change _ = s.secDone .ok (keyActivated current j)
      exact activate.answers idle free fun w => secActivate_activates (b := secReady (s.marked w)) none staged same cur
    case untargeted =>
      exact ⟨retire.answers idle free fun w => (secRetire_none (b := secReady (s.marked w)) none).1,
        force.answers idle free fun w => (secRetire_none (b := secReady (s.marked w)) none).2⟩
    case current =>
      exact retire.answers idle free fun w => (secRetire_eq (b := secReady (s.marked w)) target).trans (if_pos current)
    case used =>
      change _ = s.secDone .busyInUse (refsAnswered (s.blk.slot j).refs)
      exact retire.answers idle free fun w =>
        (secRetire_eq (b := secReady (s.marked w)) target).trans ((if_neg other).trans (if_pos used))
    case zeroised =>
      exact retire.answers idle free fun w =>
        (secRetire_eq (b := secReady (s.marked w)) target).trans ((if_neg other).trans (if_neg (not_not.mpr unused)))
    case forced =>
      exact force.answers idle free fun w => secRetireForce_eq (b := secReady (s.marked w)) target
    case undefined =>
      exact exec_secCmdUndefined writable fun w => coreSecCmd_undefined (b := s.marked w) idle
        (undefined.imp_left fun zero => by rw [zero]; rfl)

end

section
/-!
PROOFS. The commands of the RoT on weight keys, and SNAPSHOT (R403, R404, R413 to R417).
-/

namespace Sys2Proof.Machine

section
variable {b : Block}

/-! ### WEIGHT_INSTALL and WEIGHT_GRANT -/

/-- Another weight slot holds the low byte of a set tag. -/
def TagClash (b : Block) (w : Nat) (tag : BitVec 16) : Prop :=
  ∃ j, 12 ≤ j ∧ j < 16 ∧ j ≠ w ∧ (b.slot j).st ≠ .empty ∧ bits (b.slot j).setTag 7 0 = bits tag 7 0

theorem tagClash_iff {w : Nat} {tag : BitVec 16} :
    ([12, 13, 14, 15].any fun j => j != w && (b.slot j).st != .empty && bits (b.slot j).setTag 7 0 == bits tag 7 0) = true ↔
      TagClash b w tag := by
  have four {j : Nat} : j ∈ [12, 13, 14, 15] ↔ 12 ≤ j ∧ j < 16 := by simp; omega
  simp only [List.any_eq_true, four, Bool.and_eq_true, bne_iff_ne, beq_iff_eq, TagClash, and_assoc]

theorem secWeightInstall_used (full : (b.slot (argWslot b)).st ≠ .empty) :
    secWeightInstall b = (.busyInUse, resultRefs (argWslot b) b) := if_pos full

section
variable (empty : (b.slot (argWslot b)).st = .empty)
include empty

theorem secWeightInstall_clash (clash : TagClash b (argWslot b) (argSetTag b)) : secWeightInstall b = (.access, b) :=
  (if_neg (not_not.mpr empty)).trans (if_pos (tagClash_iff.mpr clash))

/-- A weight key is installed in a slot. -/
def weightInstalled (w : Nat) (key : BitVec 256) (v : BitVec 32) (tag : BitVec 16) (pm : BitVec 4) (b : Block) : Block :=
  let c := b.modSlot w fun _ => { st := .weight, key := key, vintage := v, setTag := tag, pmask := pm }
  Block.each (b := { c with ferry := { c.ferry with nonceHigh := clearBit c.ferry.nonceHigh w } }) (setBits 4 pm)
    (raiseHighest v)

theorem secWeightInstall_installs (fresh : ¬TagClash b (argWslot b) (argSetTag b)) :
    secWeightInstall b =
      (.ok, weightInstalled (argWslot b) b.keys.key (argVintage b) (argSetTag b) (argPmask b) b) :=
  (if_neg (not_not.mpr empty)).trans (if_neg fun clash => fresh (tagClash_iff.mp clash))

theorem secWeightGrant_empty : secWeightGrant b = (.access, b) := if_pos empty

end

section
variable (full : (b.slot (argWslot b)).st ≠ .empty)
include full

theorem secWeightGrant_used (takes : (b.slot (argWslot b)).pmask &&& ~~~(argPmask b) ≠ 0)
    (used : (b.slot (argWslot b)).refs ≠ 0) : secWeightGrant b = (.busyInUse, resultRefs (argWslot b) b) :=
  (if_neg full).trans (if_pos ⟨takes, used⟩)

theorem secWeightGrant_grants (free : (b.slot (argWslot b)).pmask &&& ~~~(argPmask b) = 0 ∨ (b.slot (argWslot b)).refs = 0) :
    secWeightGrant b = (.ok, b.modSlot (argWslot b) fun y => { y with pmask := argPmask b }) := by
  refine (if_neg full).trans (if_neg ?_)
  rintro ⟨takes, used⟩
  exact free.elim takes used

end

/-! ### RANGE_SET -/

/-- A range of another weight slot overlaps the one asked for. -/
def RangeClash (b : Block) : Prop :=
  ∃ i < 16, i ≠ bits b.keys.arg1 3 0 ∧ (tget ({} : WRange) b.keys.ranges i).valid = true ∧
    (tget ({} : WRange) b.keys.ranges i).wslot ≠ BitVec.ofNat 2 (argWslot b - 12) ∧
    (tget ({} : WRange) b.keys.ranges i).base.toNat < bits b.keys.arg2 49 16 ∧
    bits b.keys.arg1 49 16 < (tget ({} : WRange) b.keys.ranges i).limit.toNat

/-- The ranges with range j replaced. -/
def rangePut (j : Nat) (r : WRange) (b : Block) : Block := { b with keys := { b.keys with ranges := tset b.keys.ranges j r } }

theorem rangeClash_iff :
    ((List.range 16).any fun i =>
      let r := tget ({} : WRange) b.keys.ranges i
      i != bits b.keys.arg1 3 0 && r.valid && r.wslot != BitVec.ofNat 2 (argWslot b - 12) &&
        decide (r.base.toNat < bits b.keys.arg2 49 16) && decide (bits b.keys.arg1 49 16 < r.limit.toNat)) = true ↔
      RangeClash b := by
  simp only [List.any_eq_true, List.mem_range, Bool.and_eq_true, bne_iff_ne, decide_eq_true_eq, RangeClash, and_assoc]

theorem secRangeSet_used (used : (b.slot (argWslot b)).refs ≠ 0) :
    secRangeSet b = (.busyInUse, resultRefs (argWslot b) b) := if_pos used

variable (free : (b.slot (argWslot b)).refs = 0)
include free

theorem secRangeSet_clears (invalid : bitAt b.keys.arg1 63 = false) :
    secRangeSet b = (.ok, rangePut (bits b.keys.arg1 3 0) {} b) := by
  refine (if_neg (not_not.mpr free)).trans ((if_neg ?_).trans ?_)
  · simp [invalid]
  · simp only [invalid, Bool.false_eq_true, if_false, rangePut]

variable (valid : bitAt b.keys.arg1 63 = true)
include valid

theorem secRangeSet_refused (bad : bits b.keys.arg2 49 16 ≤ bits b.keys.arg1 49 16 ∨ RangeClash b) :
    secRangeSet b = (.access, b) :=
  (if_neg (not_not.mpr free)).trans (if_pos ⟨valid, bad.imp_right rangeClash_iff.mpr⟩)

theorem secRangeSet_sets (some_ : bits b.keys.arg1 49 16 < bits b.keys.arg2 49 16) (alone : ¬RangeClash b) :
    secRangeSet b = (.ok, rangePut (bits b.keys.arg1 3 0)
      { valid := true, wslot := BitVec.ofNat 2 (argWslot b - 12), base := BitVec.ofNat 34 (bits b.keys.arg1 49 16)
        limit := BitVec.ofNat 34 (bits b.keys.arg2 49 16) } b) := by
  refine (if_neg (not_not.mpr free)).trans ((if_neg ?_).trans ?_)
  · rintro ⟨-, empty | clash⟩
    · omega
    · exact alone (rangeClash_iff.mp clash)
  · simp only [valid, if_true, rangePut]

end

/-! ### SNAPSHOT -/

/-- SEC.ATT has the measured values of a block; the configuration's hash is taken over the block itself. -/
def snapshotTaken (o b : Block) : Block :=
  { b with keys := { b.keys with
    attGen := o.keys.generation, attStatus := Status.ok.code
    attTag := if resetScopes o ≠ 0 then 2 else if o.maint.bState == .staged || o.maint.bState == .booting then 1 else 0
    attTime := o.time.net
    attRun := imageHash (if o.maint.runImage.isEmpty then none else some o.maint.runImage)
    attStaged := imageHash (stagedImage o)
    attConfig := Config.configHash (configWords b ++ [o.maint.straps])
    attStraps := o.maint.straps, attScopes := resetScopes o } }

theorem takeSnapshot_ready {o b : Block} (ready : snapshotNotReady b = false) (generation : b.keys.generation = o.keys.generation)
    (maint : b.maint = o.maint) (time : b.time = o.time) (scopes : resetScopes b = resetScopes o)
    (staged : stagedImage b = stagedImage o) : takeSnapshot b = (.ok, snapshotTaken o b) := by
  unfold snapshotTaken
  rw [← generation, ← maint, ← time, ← scopes, ← staged]
  exact if_neg fun unready => Bool.false_ne_true (ready.symm.trans unready)

end Sys2Proof.Machine

open Sys2Proof Sys2Proof.Machine

/-- Settles O45: each command by its refusals in their order, on a block whose result is cleared. -/
theorem weightCommandsAndSnapshot : Obligations.WeightCommandsAndSnapshot := by
  intro s writable idle free k w done inUse clash
  have install := secRow_weightInstall writable
  have grant := secRow_weightGrant writable
  have range := secRow_rangeSet writable
  have snapshot := secRow_snapshot writable
  have used : inUse = s.secDone .busyInUse (refsAnswered (s.blk.slot w).refs) := rfl
  refine ⟨fun full => ?full, fun empty clash => ?clash, fun empty fresh => ?installs, fun empty => ?ungranted,
    fun full takes held => ?held, fun full unheld => ?grants, ⟨fun held => ?rangeHeld, fun unheld valid bad => ?refused,
      fun unheld valid some_ alone => ?sets, fun unheld invalid => ?clears⟩, fun unready => ?unready, fun ready => ?snapshot⟩
  case full =>
    rw [used]
    exact install.answers idle free fun m => secWeightInstall_used (b := secReady (s.marked m)) full
  case clash =>
    exact install.answers idle free fun m => secWeightInstall_clash (b := secReady (s.marked m)) empty clash
  case installs =>
    change _ = s.secDone .ok (weightInstalled w k.key (argVintage s.blk) (argSetTag s.blk) (argPmask s.blk))
    exact install.answers idle free fun m => secWeightInstall_installs (b := secReady (s.marked m)) empty fresh
  case ungranted =>
    exact grant.answers idle free fun m => secWeightGrant_empty (b := secReady (s.marked m)) empty
  case held =>
    rw [used]
    exact grant.answers idle free fun m => secWeightGrant_used (b := secReady (s.marked m)) full takes held
  case grants =>
    change _ = s.secDone .ok fun b => b.modSlot w fun y => { y with pmask := argPmask s.blk }
    exact grant.answers idle free fun m => secWeightGrant_grants (b := secReady (s.marked m)) full unheld
  case rangeHeld =>
    rw [used]
    exact range.answers idle free fun m => secRangeSet_used (b := secReady (s.marked m)) held
  case refused =>
    exact range.answers idle free fun m => secRangeSet_refused (b := secReady (s.marked m)) unheld valid bad
  case sets =>
    change _ = s.secDone .ok (rangePut (bits k.arg1 3 0) { valid := true, wslot := BitVec.ofNat 2 (w - 12)
                                                           base := BitVec.ofNat 34 (bits k.arg1 49 16)
                                                           limit := BitVec.ofNat 34 (bits k.arg2 49 16) })
    exact range.answers idle free fun m => secRangeSet_sets (b := secReady (s.marked m)) unheld valid some_ alone
  case clears =>
    change _ = s.secDone .ok (rangePut (bits k.arg1 3 0) {})
    exact range.answers idle free fun m => secRangeSet_clears (b := secReady (s.marked m)) unheld invalid
  case unready =>
    exact snapshot.answers idle free fun m => if_pos unready
  case snapshot =>
    change _ = s.secDone .ok (snapshotTaken s.blk)
    exact snapshot.answers idle free fun m => takeSnapshot_ready (b := secReady (s.marked m)) ready rfl rfl rfl rfl rfl

end

section
/-!
PROOFS. The power manager, the datapath clock and HOST_AWAKE (R41 to R43, R590 to R602, R705), and the meters
(R576, R577).
-/

namespace Sys2Proof.Machine

section
variable {b : Block}

/-! ### Grants and requests (R600 to R602, R705, R706) -/

/-- A request that is granted is outstanding no more, and its units are held. -/
def grantTaken (id : Nat) (r : PermitReq) (b : Block) : Block :=
  { b with pwr := { b.pwr with
    outstanding := b.pwr.outstanding.filter fun x => x.id != id, held := b.pwr.held + r.units
    grants := b.pwr.grants + 1, waitNs := b.pwr.waitNs + w64 (b.time.loc - r.since) } }

/-- The units of a cancelled request go back unused. -/
def grantUnused (r : PermitReq) (b : Block) : Block :=
  returnUnits r.units { b with pwr := { b.pwr with returnedUnused := b.pwr.returnedUnused + w64 r.units } }

theorem corePmGrant_dead {id : Nat} (dead : b.pwr.alive = false) : corePmGrant id b = b := by
  unfold corePmGrant
  split
  · rfl
  · exact if_pos (by rw [dead]; rfl)

theorem corePmGrant_none {id : Nat} (absent : ∀ r ∈ b.pwr.outstanding, r.id ≠ id) : corePmGrant id b = b := by
  have none : (b.pwr.outstanding.find? fun r => r.id == id) = none :=
    List.find?_eq_none.mpr fun r mem same => absent r mem (beq_iff_eq.mp same)
  unfold corePmGrant
  rw [none]

theorem corePmGrant_found {id : Nat} {r : PermitReq} (alive : b.pwr.alive = true)
    (found : (b.pwr.outstanding.find? fun x => x.id == id) = some r) :
    corePmGrant id b =
      if r.cancelled then grantUnused r (grantTaken id r b) else useGrant r.who r.units (grantTaken id r b) := by
  unfold corePmGrant
  rw [found]
  exact if_neg (by rw [alive]; decide)

/-- The request IDs that no outstanding request has. -/
def freeIds (b : Block) : List Nat :=
  (List.range 8).filter fun i => !(b.pwr.outstanding.any fun r => r.id == i)

theorem freeIds_nil (all : ∀ i < 8, ∃ r ∈ b.pwr.outstanding, r.id = i) : freeIds b = [] := by
  refine List.filter_eq_nil_iff.mpr fun i mem => ?_
  simpa using all i (List.mem_range.mp mem)

theorem freeIds_cons {i : Nat} (small : i < 8) (free : ∀ x ∈ b.pwr.outstanding, x.id ≠ i)
    (taken : ∀ j < i, ∃ x ∈ b.pwr.outstanding, x.id = j) : ∃ l, freeIds b = i :: l := by
  have first : (freeIds b).head? = some i := by
    unfold freeIds
    rw [List.head?_filter, List.find?_range_eq_some]
    exact ⟨by simpa using free, List.mem_range.mpr small, fun j below => by simpa using taken j below⟩
  exact List.head?_eq_some_iff.mp first

theorem corePmRequestPresent_idle
    (idle : b.pwr.alive = false ∨ b.pwr.waiting = [] ∨ ∀ i < 8, ∃ r ∈ b.pwr.outstanding, r.id = i) :
    corePmRequestPresent b = b := by
  change (match b.pwr.waiting, freeIds b with
    | r :: rest, i :: _ => if !b.pwr.alive then b else _
    | _, _ => b) = b
  obtain dead | none | full := idle
  · split
    · exact if_pos (by rw [dead]; rfl)
    · rfl
  · rw [none]
  · rw [freeIds_nil full]
    split
    · contradiction
    · rfl

theorem corePmRequestPresent_asks {r : PermitReq} {rest : List PermitReq} {i : Nat} (alive : b.pwr.alive = true)
    (waits : b.pwr.waiting = r :: rest) (small : i < 8) (free : ∀ x ∈ b.pwr.outstanding, x.id ≠ i)
    (taken : ∀ j < i, ∃ x ∈ b.pwr.outstanding, x.id = j) :
    corePmRequestPresent b = ({ b with pwr := { b.pwr with
      waiting := rest
      outstanding := b.pwr.outstanding ++ [{ r with id := i, since := b.time.loc }] } }).emit (.pmRequest i r.units) := by
  obtain ⟨l, ids⟩ := freeIds_cons small free taken
  unfold corePmRequestPresent
  rw [waits, show (List.range 8).filter _ = i :: l from ids]
  exact if_neg (by rw [alive]; decide)

/-! ### The datapath clock (R41 to R43) -/

theorem coreDpClockStop_stops (runs : b.dpRuns = true) (may : dpMayStop b = true) :
    coreDpClockStop b = { b with pwr := { b.pwr with dp := .stopped } } := if_pos ⟨runs, may⟩

theorem coreDpClockStop_goes (busy : b.dpRuns = false ∨ dpMayStop b = false) : coreDpClockStop b = b := by
  refine if_neg ?_
  rintro ⟨runs, may⟩
  obtain stands | not := busy
  · exact Bool.false_ne_true (stands.symm.trans runs)
  · exact Bool.false_ne_true (not.symm.trans may)

theorem exec_dpClockStop {s : State} :
    exec .dpClockStop s = s.act (if s.blk.kicked then id else coreDpClockStop) := rfl

end

section
variable {s : State} {p : Path}

theorem dpClockStop_cases :
    (s.blk.dpRuns = true → dpMayStop s.start = true → s.blk.kicked = false →
      exec .dpClockStop s = .next (s.after fun b => { b with pwr := { b.pwr with dp := .stopped } })) ∧
    ((s.blk.dpRuns = false ∨ dpMayStop s.start = false ∨ s.blk.kicked = true) →
      exec .dpClockStop s = .next (s.after id)) := by
  refine ⟨fun runs may calm => ?_, fun busy => ?_⟩
  · rw [exec_dpClockStop, calm]
    exact act_eq (s := s) (coreDpClockStop_stops (b := s.start) runs may)
  · rw [exec_dpClockStop]
    obtain stands | held | kicked := busy
    · split
      · rfl
      · exact act_eq (s := s) (coreDpClockStop_goes (b := s.start) (.inl stands))
    · split
      · rfl
      · exact act_eq (s := s) (coreDpClockStop_goes (b := s.start) (.inr held))
    · rw [kicked]
      rfl

/-- HOST_AWAKE is no datapath register: its write takes effect with no start of the clock but its own (R42). -/
theorem exec_hostAwakeWrite {v : Word} {g : Block → Block} (writable : s.blk.Writable p 0xA0010)
    (effect : writeHostAwake v s.start = g s.start) : exec (.hostAwakeWrite p v) s = .next (s.after g) :=
  regWrite_plain v g writable (by decide) (ofOffset_pwr (o := 0x10) (by decide)) rfl effect

end

/-! ### Meters (R576, R577) -/

section
variable {b : Block} {m : Nat}

/-- The head of a hold line leaves it, metered with a colour. -/
def heldCounted (m : Nat) (rest : List QPkt) (out : Colour × Meter) (b : Block) : Block :=
  b.modMeter m fun _ => { countColour out.1 out.2 with hold := rest }

/-- The head of a hold line goes to SCAVENGER. -/
def heldScavenged (m : Nat) (p : QPkt) (rest : List QPkt) (out : Colour × Meter) (b : Block) : Block :=
  routeOut { p with q := ctxQueue (p.q / 8) 7 } (heldCounted m rest out b)

theorem releaseHeld_nil (none : (b.meter m).hold = []) : releaseHeld m b = b := by
  unfold releaseHeld
  simp only [none]

section
variable {p : QPkt} {rest : List QPkt} (waits : (b.meter m).hold = p :: rest)
include waits

theorem releaseHeld_green (green : (meterRun (b.meter m) b.time.loc (pktBytes p.pkt)).1 = .green) :
    releaseHeld m b = routeOut p (heldCounted m rest (meterRun (b.meter m) b.time.loc (pktBytes p.pkt)) b) := by
  unfold releaseHeld
  simp only [waits, heldCounted, green]

theorem releaseHeld_yellow (yellow : (meterRun (b.meter m) b.time.loc (pktBytes p.pkt)).1 = .yellow) :
    releaseHeld m b = heldScavenged m p rest (meterRun (b.meter m) b.time.loc (pktBytes p.pkt)) b := by
  unfold releaseHeld
  simp only [waits, heldScavenged, heldCounted, yellow]

theorem releaseHeld_red (red : (meterRun (b.meter m) b.time.loc (pktBytes p.pkt)).1 = .red) :
    releaseHeld m b = if bitAt (b.meter m).ctrl 61 then b
      else heldScavenged m p rest (meterRun (b.meter m) b.time.loc (pktBytes p.pkt)) b := by
  unfold releaseHeld
  simp only [waits, heldScavenged, heldCounted, red]

end

theorem writeMeterCtrl_invalid {v : Word} (off : bitAt v 63 = false) :
    writeMeterCtrl m v b = Block.each (b.meter m).hold routeOut
      ((b.modMeter m fun y => { y with ctrl := keep v 63 61 ||| keep v 59 48 }).modMeter m fun y => { y with hold := [] }) :=
  if_pos (by rw [off]; rfl)

theorem writeMeterCtrl_valid {v : Word} (on : bitAt v 63 = true) :
    writeMeterCtrl m v b =
      if !bitAt v 61 then
        Block.each (b.meter m).hold (fun _ => releaseHeld m) (b.modMeter m fun y => { y with ctrl := keep v 63 61 ||| keep v 59 48 })
      else b.modMeter m fun y => { y with ctrl := keep v 63 61 ||| keep v 59 48 } :=
  if_neg (by rw [on]; decide)

end

section
variable {s : State} {p : Path} {m : MeterId}

theorem ofOffset_meterAt (m : MeterId) {o : Nat} (h : o < 0x40) :
    Reg.ofOffset (0x81000 + o + 0x40 * m.val) = .meter m.val o := by
  rw [Nat.add_right_comm]
  exact ofOffset_meter m.isLt h

theorem exec_meterRateWrite {v : Word} (writable : s.blk.Writable p (0x81008 + 0x40 * m.val)) :
    exec (.meterSettingWrite p m false v) s = .next (s.afterWrite (0x81008 + 0x40 * m.val) (writeMeterSetting m false v)) :=
  regWrite_kicked (off := 0x81008 + 0x40 * m.val) v _ writable (by omega) (ofOffset_meterAt m (o := 8) (by decide)) fun _ => rfl

theorem exec_meterSizeWrite {v : Word} (writable : s.blk.Writable p (0x81010 + 0x40 * m.val)) :
    exec (.meterSettingWrite p m true v) s = .next (s.afterWrite (0x81010 + 0x40 * m.val) (writeMeterSetting m true v)) :=
  regWrite_kicked (off := 0x81010 + 0x40 * m.val) v _ writable (by omega) (ofOffset_meterAt m (o := 0x10) (by decide)) fun _ => rfl

theorem exec_meterCtrlWrite {v : Word} {g : Block → Block} (writable : s.blk.Writable p (0x81000 + 0x40 * m.val))
    (effect : ∀ w, writeMeterCtrl m v (s.marked w) = g (s.marked w)) :
    exec (.meterCtrlWrite p m v) s = .next (s.afterWrite (0x81000 + 0x40 * m.val) g) :=
  regWrite_kicked v g writable (by omega) (ofOffset_meterAt m (o := 0) (by decide)) effect

end

end Sys2Proof.Machine

open Sys2Proof Sys2Proof.Machine

/-- Settles O46: a grant goes to what asked or back, the first need takes the lowest free ID, and the datapath clock
stops and runs by its conditions. -/
theorem powerRequestsAndClock : Obligations.PowerRequestsAndClock := by
  intro s
  refine ⟨fun k none => ?_, fun id r alive found => ⟨fun live => ?_, fun cancelled => ?_⟩, fun idle => ?_,
    fun r rest i alive waits small free taken => ?_, dpClockStop_cases.1, dpClockStop_cases.2, fun runs => ?_,
    fun starting => ?_, fun p v writable => ⟨fun zero => ?_, fun some => ?_⟩⟩
  case refine_1 => exact act_eq (s := s) (none.elim (corePmGrant_dead (b := s.start)) (corePmGrant_none (b := s.start)))
  case refine_2 => exact act_eq (s := s) ((corePmGrant_found (b := s.start) alive found).trans (by rw [live]; rfl))
  case refine_3 => exact act_eq (s := s) ((corePmGrant_found (b := s.start) alive found).trans (by rw [cancelled]; rfl))
  case refine_4 => exact act_eq (s := s) (corePmRequestPresent_idle (b := s.start) idle)
  case refine_5 => exact act_eq (s := s) (corePmRequestPresent_asks (b := s.start) alive waits small free taken)
  case refine_6 => exact act_eq (s := s) (if_pos runs)
  case refine_7 => exact act_eq (s := s) (if_neg (not_not.mpr starting))
  case refine_8 => exact exec_hostAwakeWrite writable ((if_pos zero).trans (by rw [zero]))
  case refine_9 => exact exec_hostAwakeWrite writable (if_neg some)

/-- Settles O47: the head of a hold line goes by its new colour, RATE and SIZE fill the buckets, and CTRL frees or
meters the line. -/
theorem metersHoldAndRelease : Obligations.MetersHoldAndRelease := by
  intro s m
  refine ⟨fun none => act_eq (s := s) (releaseHeld_nil (b := s.start) none), fun p rest waits => ?_,
    fun p v writable => ?_, fun p v writable => ?_, fun p v writable => ⟨fun off => ?_, fun on mark => ?_, fun on drop => ?_⟩⟩
  case refine_1 =>
    refine ⟨fun green => ?_, fun yellow => ?_, fun red mark => ?_, fun red drop => ?_⟩
    · exact act_eq (s := s) (releaseHeld_green (b := s.start) waits green)
    · exact act_eq (s := s) (releaseHeld_yellow (b := s.start) waits yellow)
    · exact act_eq (s := s) ((releaseHeld_red (b := s.start) waits red).trans
        (if_neg fun t => Bool.false_ne_true (mark.symm.trans t)))
    · exact act_eq (s := s) ((releaseHeld_red (b := s.start) waits red).trans (if_pos drop))
  case refine_2 => exact exec_meterRateWrite writable
  case refine_3 => exact exec_meterSizeWrite writable
  case refine_4 => exact exec_meterCtrlWrite writable fun w => writeMeterCtrl_invalid (b := s.marked w) off
  case refine_5 =>
    exact exec_meterCtrlWrite writable fun w => (writeMeterCtrl_valid (b := s.marked w) on).trans (if_pos (by rw [mark]; rfl))
  case refine_6 =>
    exact exec_meterCtrlWrite writable fun w => (writeMeterCtrl_valid (b := s.marked w) on).trans (if_neg (by rw [drop]; decide))

end

section
/-!
PROOFS. Tide tables, steps of network time and queue samples (R579 to R588).
-/

namespace Sys2Proof.Machine

section
variable {b : Block} {n : Nat}

/-! ### TIDE[n].CHANGE and the switch of the lists (R586) -/

/-- The admin list is outside its bounds. -/
def AdminBad (t : Tide) : Prop :=
  bits t.adminCycle 38 32 < 1 ∨ 64 < bits t.adminCycle 38 32 ∨ bits t.adminCycle 26 0 < 125 ∨
    125000000 < bits t.adminCycle 26 0 ∨ ∃ j < bits t.adminCycle 38 32, tideBad (tget 0 t.admin j) = true

/-- The bounds as CHANGE asks for them. -/
theorem adminBad_iff {t : Tide} :
    AdminBad t ↔ bits t.adminCycle 38 32 < 1 ∨ 64 < bits t.adminCycle 38 32 ∨ bits t.adminCycle 26 0 < 125 ∨
      125000000 < bits t.adminCycle 26 0 ∨
      ((List.range (bits t.adminCycle 38 32)).any fun j => tideBad (tget 0 t.admin j)) = true := by
  simp only [AdminBad, List.any_eq_true, List.mem_range]

theorem writeTideChange_pending {T : Word} (pending : (b.tide n).pending = true) :
    (writeTideChange n T b).2 = tideStatus n .busyActive b := congrArg Prod.snd (if_pos pending)

section
variable {T : Word} (idle : (b.tide n).pending = false)
include idle

theorem writeTideChange_bad (bad : AdminBad (b.tide n)) : (writeTideChange n T b).2 = tideStatus n .access b :=
  congrArg Prod.snd ((if_neg fun t => Bool.false_ne_true (idle.symm.trans t)).trans (if_pos (adminBad_iff.mp bad)))

theorem writeTideChange_good (good : ¬AdminBad (b.tide n)) :
    (writeTideChange n T b).2 = b.modTide n fun y => { y with
      pending := true
      switchTime := tideSwitchAt b.time.net T y.adminBase (8 * bits (b.tide n).adminCycle 26 0)
      status := Status.ok.code } :=
  congrArg Prod.snd ((if_neg fun t => Bool.false_ne_true (idle.symm.trans t)).trans
    (if_neg fun t => good (adminBad_iff.mpr t)))

end

/-- The lists of a tide table change places at its switch instant. -/
def tideSwitched (t : Tide) : Tide := { t with
  pending := false, operValid := true, switchTime := 0
  oper := t.admin, operBase := t.adminBase, operCycle := t.adminCycle
  admin := t.oper, adminBase := t.operBase, adminCycle := t.operCycle
  began := t.switchTime, entry := 0, cycles := t.cycles + 1 }

theorem coreTideListSwitch_waits (early : (b.tide n).pending = false ∨ b.time.net.toNat < (b.tide n).switchTime.toNat) :
    coreTideListSwitch n b = b :=
  if_pos (early.imp_left fun idle => by rw [idle]; rfl)

theorem coreTideListSwitch_switches (pending : (b.tide n).pending = true)
    (due : (b.tide n).switchTime.toNat ≤ b.time.net.toNat) :
    coreTideListSwitch n b = tideWake [n] (b.modTide n fun _ => tideSwitched (b.tide n)) := by
  refine if_neg ?_
  rintro (idle | early)
  · rw [pending] at idle
    exact Bool.false_ne_true idle
  · exact absurd early (Nat.not_lt.mpr due)

/-! ### An entry begins, and network time is stepped (R579, R583) -/

theorem coreTideEntryStart_goes
    (same : tideRuns (b.tide n) = false ∨ (tideEnter b.time.net (b.tide n)).began = (b.tide n).began) :
    coreTideEntryStart n b = b :=
  if_pos (same.imp_left fun idle => by rw [idle]; rfl)

theorem coreTideEntryStart_begins (runs : tideRuns (b.tide n) = true)
    (new : (tideEnter b.time.net (b.tide n)).began ≠ (b.tide n).began) :
    coreTideEntryStart n b = tideWake [n] (b.modTide n fun _ => tideEnter b.time.net (b.tide n)) := by
  refine if_neg ?_
  rintro (idle | same)
  · rw [runs] at idle
    exact Bool.false_ne_true idle
  · exact new same

theorem coreTimeStep_lost {time : Word} (lost : b.maint.lost = true) : coreTimeStep time b = b := if_pos lost

theorem coreTimeStep_steps {time : Word} (led : b.maint.lost = false) :
    coreTimeStep time b =
      tideWake ((List.range 32).filter fun k => tideRuns (b.tide k))
        (Block.each ((List.range 32).filter fun k => tideRuns (b.tide k)) (fun k b => b.modTide k (tideEnter time))
          { b.emit .timeStepped with time := { b.time with net := time, steps := b.time.steps + 1 } }) :=
  if_neg fun t => Bool.false_ne_true (led.symm.trans t)

/-! ### Queue samples (R588) -/

theorem coreSchedQueueSample_waits
    (early : 10 ≤ b.time.net.toNat % samplePeriodNs b ∨ b.sched.sampled = some (b.time.net.toNat / samplePeriodNs b)) :
    coreSchedQueueSample b = b := by
  refine if_neg ?_
  rintro ⟨now, new⟩
  exact early.elim (fun late => absurd now (Nat.not_lt.mpr late)) new

theorem coreSchedQueueSample_samples (now : b.time.net.toNat % samplePeriodNs b < 10)
    (new : b.sched.sampled ≠ some (b.time.net.toNat / samplePeriodNs b)) :
    coreSchedQueueSample b = queuesRecord { b with sched := { b.sched with
      samples := (List.range 133).foldl (fun x q => tset x q
        { depth := BitVec.ofNat 32 (depthOf b q)
          delay := BitVec.ofNat 32 (min (2 ^ 32 - 1) (max (tget 0 b.sched.delays q) (headWait b q))) }) b.sched.samples
      delays := [], sampleSeq := b.sched.sampleSeq + 1
      sampled := some (b.time.net.toNat / samplePeriodNs b) } } :=
  if_pos ⟨now, new⟩

end

section
variable {s : State} {p : Path} {n : StraitId} {time : Word}

theorem ofOffset_tideChange (n : StraitId) : Reg.ofOffset (0x82078 + 0x100 * n.val) = .chart n.val 0x78 := by
  rw [← ofOffset_chart n.isLt (o := 0x78) (by decide)]
  congr 1
  omega

theorem exec_tideChange {g : Block → Block} (writable : s.blk.Writable p (0x82078 + 0x100 * n.val))
    (effect : (writeTideChange n time s.start).2 = g s.start) : exec (.tideChange p n time) s = .next (s.after g) :=
  regWrite_plain (off := 0x82078 + 0x100 * n.val) time g writable (by omega) (ofOffset_tideChange n) rfl effect

end

end Sys2Proof.Machine

open Sys2Proof Sys2Proof.Machine

/-- Settles O48: CHANGE, the switch of the lists, an entry that begins, a step of network time and a queue sample, each
by its condition. -/
theorem tidesAndTimeAdvance : Obligations.TidesAndTimeAdvance := by
  intro s n
  refine ⟨fun p time writable => ⟨fun pending => ?_, fun idle bad => ?_, fun idle good => ?_⟩, fun early => ?_,
    fun pending due => ?_, ⟨fun same => ?_, fun runs new => ?_⟩, fun time => ⟨fun lost => ?_, fun led => ?_⟩,
    fun early => ?_, fun now new => ?_⟩
  case refine_1 => exact exec_tideChange writable (writeTideChange_pending (b := s.start) pending)
  case refine_2 => exact exec_tideChange writable (writeTideChange_bad (b := s.start) idle bad)
  case refine_3 => exact exec_tideChange writable (writeTideChange_good (b := s.start) idle good)
  case refine_4 => exact act_eq (s := s) (coreTideListSwitch_waits (b := s.start) early)
  case refine_5 => exact act_eq (s := s) (coreTideListSwitch_switches (b := s.start) pending due)
  case refine_6 => exact act_eq (s := s) (coreTideEntryStart_goes (b := s.start) same)
  case refine_7 => exact act_eq (s := s) (coreTideEntryStart_begins (b := s.start) runs new)
  case refine_8 => exact act_eq (s := s) (coreTimeStep_lost (b := s.start) lost)
  case refine_9 => exact act_eq (s := s) (coreTimeStep_steps (b := s.start) led)
  case refine_10 => exact act_eq (s := s) (coreSchedQueueSample_waits (b := s.start) early)
  case refine_11 => exact act_eq (s := s) (coreSchedQueueSample_samples (b := s.start) now new)

end

section
/-!
PROOFS. Records of the thief and its ring (R611 to R624).
-/

namespace Sys2Proof.Machine

section
variable {b : Block}

/-! ### SAMPLE and PC_SAMPLE records -/

theorem coreSampleCapture_off {lees : List Host.Cell} (off : thiefOn b 1 = false) : coreSampleCapture lees b = b :=
  if_pos (by rw [off]; rfl)

/-- The values of a SAMPLE record, those of compatibility sets as a latch takes them. -/
def sampleValues (lees : List Host.Cell) (b : Block) : List Word :=
  (sampleEntries b).map fun r => match valueOf r with
    | some (k, i) => compatValue lees b k i
    | none => readReg lees b r

/-- The sets at a boundary that a SAMPLE record names a VALUE of. -/
def sampleMask (b : Block) : List Nat :=
  (List.range 8).filter fun k =>
    (b.compat k).boundary && (sampleEntries b).any fun r => (valueOf r).map (fun x => x.1) == some k

theorem coreSampleCapture_on {lees : List Host.Cell} (on : thiefOn b 1 = true) :
    coreSampleCapture lees b = stageRecord 0x01 (1 + ceilDiv (sampleEntries b).length 8) 0 b.time.net
      (natBytes 2 (sampleEntries b).length ++ natBytes 2 0 ++
        natBytes 1 (((sampleMask b).map fun k => 2 ^ k).foldl (· + ·) 0) ++
        natBytes 43 0 ++ (sampleValues lees b).flatMap fun v => natBytes 8 v.toNat) b :=
  if_neg (by rw [on]; decide)

theorem corePcSample_off (off : thiefOn b 3 = false) : corePcSample b = b := if_pos (by rw [off]; rfl)

theorem corePcSample_on (on : thiefOn b 3 = true) :
    corePcSample b = stageRecord 0x03 5 0 b.time.net
      (natBytes 8 b.thief.pcMask.toNat ++ natBytes 40 0 ++ (List.range 64).flatMap fun q =>
        natBytes 4 (if bitAt b.thief.pcMask q then pcEntry (b.seq q) else 0)) b :=
  if_neg (by rw [on]; decide)

/-! ### The oldest staged record goes to the ring (R612, R614) -/

/-- Where granule i of the record goes that the records `before` stand in front of. -/
def ringPlace (b : Block) (before : List Staged) (i : Nat) : Nat :=
  bits b.thief.ringBase 49 0 +
    64 * (ringAdd (ringAdd b.thief.head.toNat (stagedGrans before) (ringSize b)) i (ringSize b) % ringSize b)

/-- The memory port has room for the granules of a record. -/
def ringFree (b : Block) (before : List Staged) (r : Staged) : Bool :=
  portFree ((List.range r.grans.length).map fun i => ringPlace b before i / 64) b

/-- A record goes to the ring, granule by granule. -/
def ringWritten (before : List Staged) (r : Staged) (b : Block) : Block :=
  Block.each ((List.range r.grans.length).zip r.grans)
    (fun x c => memWrite (ringPlace b before x.1) hintStream (~~~0) x.2 (.thief r.serial) c)
    { b with thief := { b.thief with
      staged := b.thief.staged.map fun (x : Staged) => if x.serial = r.serial then { x with issued := true } else x } }

theorem coreThiefRecordWrite_none (all : ∀ r ∈ b.thief.staged, r.issued = true) : coreThiefRecordWrite b = b := by
  have none : b.thief.staged.dropWhile (fun r => r.issued) = [] := List.dropWhile_eq_nil_iff.mpr all
  unfold coreThiefRecordWrite
  rw [none]

theorem coreThiefRecordWrite_some {before rest : List Staged} {r : Staged} (staged : b.thief.staged = before ++ r :: rest)
    (old : ∀ x ∈ before, x.issued = true) (new : r.issued = false) :
    coreThiefRecordWrite b = if !b.dpRuns ∨ !ringFree b before r then b else ringWritten before r b := by
  have kept : b.thief.staged.dropWhile (fun x => x.issued) = r :: rest := by
    rw [staged, List.dropWhile_append_of_pos old]
    exact List.dropWhile_cons_of_neg (by rw [new]; decide)
  have passed : b.thief.staged.takeWhile (fun x => x.issued) = before := by
    rw [staged, List.takeWhile_append_of_pos old, List.takeWhile_cons_of_neg (by rw [new]; decide), List.append_nil]
  unfold coreThiefRecordWrite
  rw [kept, passed]
  rfl

theorem coreThiefRecordWrite_stands (stands : b.dpRuns = false) : coreThiefRecordWrite b = b := by
  unfold coreThiefRecordWrite
  split
  · rfl
  · exact if_pos (.inl (by rw [stands]; rfl))

/-! ### THIEF.CTRL (R611) -/

/-- THIEF.CTRL takes a value. -/
def thiefSet (v : Word) (b : Block) : Block := { b with thief := { b.thief with ctrl := BitVec.ofNat 6 v.toNat } }

theorem writeThiefCtrl_rise {v : Word} (off : bitAt b.thief.ctrl 0 = false) (on : bitAt v 0 = true) :
    writeThiefCtrl v b =
      ringCheck { thiefSet v b with thief := { (thiefSet v b).thief with head := b.thief.tail, seq := 0 } } :=
  if_pos (by rw [on, off]; rfl)

theorem writeThiefCtrl_keep {v : Word} (keeps : bitAt v 0 = false ∨ bitAt b.thief.ctrl 0 = true) :
    writeThiefCtrl v b = thiefSet v b := by
  refine if_neg ?_
  obtain off | on := keeps
  · rw [off, Bool.false_and]
    decide
  · rw [on, Bool.not_true, Bool.and_false]
    decide

end

section
variable {s : State} {p : Path} {v : Word} {g : Block → Block}

theorem exec_thiefEnable (writable : s.blk.Writable p 0x90000)
    (effect : ∀ w, writeThiefCtrl (v ||| 1) (s.marked w) = g (s.marked w)) :
    exec (.thiefEnable p v) s = .next (s.afterWrite 0x90000 g) :=
  regWrite_kicked (v ||| 1) g writable (by decide) (ofOffset_thief (o := 0) (by decide)) effect

theorem exec_thiefDisable (writable : s.blk.Writable p 0x90000)
    (effect : ∀ w, writeThiefCtrl (v &&& ~~~1) (s.marked w) = g (s.marked w)) :
    exec (.thiefDisable p v) s = .next (s.afterWrite 0x90000 g) :=
  regWrite_kicked (v &&& ~~~1) g writable (by decide) (ofOffset_thief (o := 0) (by decide)) effect

end

end Sys2Proof.Machine

open Sys2Proof Sys2Proof.Machine

/-- Settles O49: the records of the thief by its enable bits, their way to the ring, and THIEF.CTRL. -/
theorem thiefRecordsAndRing : Obligations.ThiefRecordsAndRing := by
  intro s
  have low_or (v : Word) : bitAt (v ||| 1) 0 = true := by simp [bitAt]
  have low_and (v : Word) : bitAt (v &&& ~~~1) 0 = false := by simp [bitAt]
  refine ⟨fun off => ?_, fun on => ?_, fun off => ?_, fun on => ?_, fun idle => ?_,
    fun before r rest runs staged old new => ⟨fun busy => ?_, fun free => ?_⟩,
    fun p v writable => ⟨fun off => ?_, fun on => ?_, ?_⟩⟩
  case refine_1 => exact actInCycle_eq (s := s) (coreSampleCapture_off (b := { s.blk with out := [] }) off)
  case refine_2 => exact actInCycle_eq (s := s) (coreSampleCapture_on (b := { s.blk with out := [] }) on)
  case refine_3 => exact act_eq (s := s) (corePcSample_off (b := s.start) off)
  case refine_4 => exact act_eq (s := s) (corePcSample_on (b := s.start) on)
  case refine_5 =>
    exact act_eq (s := s) (idle.elim (coreThiefRecordWrite_stands (b := s.start)) (coreThiefRecordWrite_none (b := s.start)))
  case refine_6 =>
    refine act_eq (s := s) ((coreThiefRecordWrite_some (b := s.start) staged old new).trans (if_pos (.inr ?_)))
    rw [show ringFree s.start before r = false from busy]
    rfl
  case refine_7 =>
    refine act_eq (s := s) ((coreThiefRecordWrite_some (b := s.start) staged old new).trans (if_neg ?_))
    rw [show ringFree s.start before r = true from free, show s.start.dpRuns = true from runs]
    decide
  case refine_8 => exact exec_thiefEnable writable fun w => writeThiefCtrl_rise (b := s.marked w) off (low_or v)
  case refine_9 => exact exec_thiefEnable writable fun w => writeThiefCtrl_keep (b := s.marked w) (.inr on)
  case refine_10 => exact exec_thiefDisable writable fun w => writeThiefCtrl_keep (b := s.marked w) (.inl (low_and v))

end

section
/-!
PROOFS. Compatibility sets, the event ring and its windows (R412, R520, R630 to R633, R711, R712).
-/

namespace Sys2Proof.Machine

section
variable {b : Block}

/-! ### The vectors and the event ring (R711, R712) -/

/-- The moderation time of a vector is over. -/
def ModerationOver (b : Block) (x : VecState) : Prop :=
  ∀ t, x.sent = some t → t + b.evt.moderation.toNat ≤ b.time.loc

theorem moderationOver_iff {x : VecState} :
    ModerationOver b x ↔ (match x.sent with
      | none => true
      | some t => decide (t + b.evt.moderation.toNat ≤ b.time.loc)) = true := by
  unfold ModerationOver
  cases x.sent <;> simp

section
variable {v : Nat}

theorem coreMsixExpiry_sends (further : (tget ({} : VecState) b.evt.vecs v).further = true)
    (due : ModerationOver b (tget ({} : VecState) b.evt.vecs v)) :
    coreMsixExpiry v b = ({ b with evt := { b.evt with
      vecs := tset b.evt.vecs v { sent := some b.time.loc, further := false } } }).emit (.msix v) :=
  if_pos ⟨further, moderationOver_iff.mp due⟩

theorem coreMsixExpiry_rests (rests : (tget ({} : VecState) b.evt.vecs v).further = false ∨
    ¬ModerationOver b (tget ({} : VecState) b.evt.vecs v)) : coreMsixExpiry v b = b := by
  refine if_neg ?_
  rintro ⟨further, due⟩
  obtain none | early := rests
  · exact Bool.false_ne_true (none.symm.trans further)
  · exact early (moderationOver_iff.mpr due)

end

/-- Setting bit 0 leaves the fields above it. -/
theorem bits_or_one (v : Word) {hi lo : Nat} (above : 1 ≤ lo) : bits (v ||| 1) hi lo = bits v hi lo := by
  have gone : 1 >>> lo = 0 := Nat.shiftRight_eq_zero 1 lo (Nat.one_lt_two_pow (Nat.one_le_iff_ne_zero.mp above))
  have parts : (v ||| 1).toNat >>> lo = v.toNat >>> lo := by
    rw [BitVec.toNat_or, Nat.shiftRight_or_distrib, show (1 : Word).toNat = 1 from rfl, gone, Nat.or_zero]
  unfold bits
  rw [parts]

theorem writeEvtCtrl_refused {v : Word} (on : bitAt v 0 = true) (small : ringSizeOk b.evt.log2.toNat = false) :
    writeEvtCtrl v b = b := if_pos ⟨on, by rw [small]; rfl⟩

theorem writeEvtCtrl_enables {v : Word} (fits : ringSizeOk b.evt.log2.toNat = true) :
    writeEvtCtrl (v ||| 1) b = { b with evt := { b.evt with
      completeVec := BitVec.ofNat 4 (bits v 11 8), faultVec := BitVec.ofNat 4 (bits v 7 4), enable := true
      head := if b.evt.enable then b.evt.head else b.evt.tail } } := by
  have on : bitAt (v ||| 1) 0 = true := by simp [bitAt]
  unfold writeEvtCtrl
  simp only [on, fits, bits_or_one v (show 1 ≤ 8 by decide), bits_or_one v (show 1 ≤ 4 by decide)]
  cases b.evt.enable <;> rfl

/-! ### The windows (R412, R520) -/

theorem coreStrangerWindow_rests
    (rests : tget 0 b.keys.strangers 0 + tget 0 b.keys.strangers 1 + tget 0 b.keys.strangers 2 = b.keys.strangerMark ∨
      b.keys.strangerMs = some (netMs b)) : coreStrangerWindow b = b := if_pos rests

theorem coreStrangerWindow_raises
    (moved : tget 0 b.keys.strangers 0 + tget 0 b.keys.strangers 1 + tget 0 b.keys.strangers 2 ≠ b.keys.strangerMark)
    (new : b.keys.strangerMs ≠ some (netMs b)) :
    coreStrangerWindow b = raiseEvent 0x0D 0 0xFF 0xFF (strangerLast b) 0 { b with keys := { b.keys with
      strangerMark := tget 0 b.keys.strangers 0 + tget 0 b.keys.strangers 1 + tget 0 b.keys.strangers 2
      strangerMs := some (netMs b) } } :=
  if_neg (not_or_intro moved new)

theorem coreStaleWindow_rests (rests : b.route.staleEpoch = b.route.staleMark ∨ b.route.staleMs = some (netMs b)) :
    coreStaleWindow b = b := if_pos rests

theorem coreStaleWindow_raises (moved : b.route.staleEpoch ≠ b.route.staleMark) (new : b.route.staleMs ≠ some (netMs b)) :
    coreStaleWindow b = raiseEvent 0x0E 0 0xFF 0xFF (staleLast b) 0
      { b with route := { b.route with staleMark := b.route.staleEpoch, staleMs := some (netMs b) } } :=
  if_neg (not_or_intro moved new)

end

section
variable {s : State} {p : Path}

/-! ### BIND, LATCH and EVT.CTRL as writes -/

theorem ofOffset_compatAt (k : Fin 8) {o : Nat} (h : o < 0x100) :
    Reg.ofOffset (0x90800 + o + 0x100 * k.val) = .compat k.val o := by
  rw [Nat.add_right_comm]
  exact ofOffset_compat k.isLt h

theorem exec_compatBindWrite {k : Fin 8} {v : Word} (writable : s.blk.Writable p (0x90800 + 0x100 * k.val)) :
    exec (.compatBindWrite p k v) s =
      .next (s.afterWrite (0x90800 + 0x100 * k.val) (coreCompatBind s.lees k v)) :=
  regWrite_kicked (off := 0x90800 + 0x100 * k.val) v _ writable (by omega) (ofOffset_compatAt k (o := 0) (by decide))
    fun _ => rfl

theorem exec_compatLatch {k : Fin 8} (writable : s.blk.Writable p (0x90808 + 0x100 * k.val)) :
    exec (.compatLatch p k) s =
      .next (s.afterInCycle fun b => coreCompatLatch s.lees k (kickAt (0x90808 + 0x100 * k.val) b)) := by
  refine actInCycle_eq (s := s) ?_
  have here : Block.Writable { s.blk with out := [] } p (0x90808 + 0x100 * k.val) := writable
  rw [busWrite_now 1 s.lees here (by omega), show Reg.ofOffset _ = .compat k.val 8 from ofOffset_compatAt k (by decide)]
  rfl

theorem exec_evtRingEnable {v : Word} {g : Block → Block} (writable : s.blk.Writable p 0x1020)
    (effect : writeEvtCtrl (v ||| 1) s.start = g s.start) : exec (.evtRingEnable p v) s = .next (s.after g) :=
  regWrite_plain (v ||| 1) g writable (by decide) (ofOffset_glob (o := 0x20) (by decide)) rfl effect

end

end Sys2Proof.Machine

open Sys2Proof Sys2Proof.Machine

/-- Settles O50: BIND and LATCH of a set, the moderation of a vector, EVT.CTRL, and the two windows. -/
theorem setsLatchAndEventsFollow : Obligations.SetsLatchAndEventsFollow := by
  intro s
  refine ⟨fun p k v writable => exec_compatBindWrite writable, fun p k writable => exec_compatLatch writable,
    fun v => ⟨fun further due => ?_, fun rests => ?_⟩, fun p v writable => ⟨fun small => ?_, fun fits => ?_⟩,
    ⟨fun rests => ?_, fun moved new => ?_⟩, fun rests => ?_, fun moved new => ?_⟩
  case refine_1 => exact act_eq (s := s) (coreMsixExpiry_sends (b := s.start) further due)
  case refine_2 => exact act_eq (s := s) (coreMsixExpiry_rests (b := s.start) rests)
  case refine_3 =>
    exact exec_evtRingEnable writable (writeEvtCtrl_refused (b := s.start) (by simp [bitAt]) small)
  case refine_4 => exact exec_evtRingEnable writable (writeEvtCtrl_enables (b := s.start) fits)
  case refine_5 => exact act_eq (s := s) (coreStrangerWindow_rests (b := s.start) rests)
  case refine_6 => exact act_eq (s := s) (coreStrangerWindow_raises (b := s.start) moved new)
  case refine_7 => exact act_eq (s := s) (coreStaleWindow_rests (b := s.start) rests)
  case refine_8 => exact act_eq (s := s) (coreStaleWindow_raises (b := s.start) moved new)

end

section
/-!
PROOFS. The control message at the head of the queue, and reports (R541 to R553, R665).
-/

namespace Sys2Proof.Machine

section
variable {b : Block} {m : CtlMsg} {ms : List CtlMsg}

/-- The control queue without its head. -/
def ctlPopped (ms : List CtlMsg) (b : Block) : Block := { b with fm := { b.fm with queue := ms } }

/-! ### The head of the queue (R549, R665) -/

section
variable {sel : CtlMsg → Bool} {f : CtlMsg → Block → Block}

theorem withHead_lost (lost : b.maint.lost = true) : withHead sel f b = b := if_pos lost

theorem withHead_takes (led : b.maint.lost = false) (queue : b.fm.queue = m :: ms) (named : sel m = true) :
    withHead sel f b = f m (ctlPopped ms b) := by
  refine (if_neg fun t => Bool.false_ne_true (led.symm.trans t)).trans ?_
  rw [queue]
  exact if_pos named

end

/-! ### A sequenced message (R544) -/

/-- A message whose sequence is too old is counted. -/
def ctlTooOld (b : Block) : Block := { b with fm := { b.fm with tooOld := b.fm.tooOld + 1 } }

/-- A duplicate is counted. -/
def ctlDuplicate (b : Block) : Block := { b with fm := { b.fm with duplicates := b.fm.duplicates + 1 } }

/-- A fresh message is recorded and answered with its outcome. -/
def ctlAnswered (m : CtlMsg) (r : Status × Nat × Block) : Block :=
  respond m false r.1.code r.2.1 [] (recordOutcome (mSeq m) r.1.code r.2.1 r.2.2)

section
variable {f : Block → Status × Nat × Block}

theorem sequenced_tooOld (old : copyOf b (mSeq m) = .tooOld) : sequenced m f b = ctlTooOld b := by
  unfold sequenced
  rw [old]
  rfl

theorem sequenced_duplicate {st : Byte} {i : Nat} (known : copyOf b (mSeq m) = .duplicate st i) :
    sequenced m f b = respond m true st i [] (ctlDuplicate b) := by
  unfold sequenced
  rw [known]
  rfl

theorem sequenced_fresh (fresh : copyOf b (mSeq m) = .fresh) : sequenced m f b = ctlAnswered m (f b) := by
  unfold sequenced
  rw [fresh]
  rfl

end

/-! ### The messages -/

theorem writeMessage_lost {lees : List Host.Cell} {kind : Nat} (lost : b.maint.lost = true) :
    writeMessage lees kind b = b := withHead_lost lost

section
variable (led : b.maint.lost = false) (queue : b.fm.queue = m :: ms)
include led queue

theorem writeMessage_waits {lees : List Host.Cell} {kind : Nat} (named : mKind m = kind) (waits : itemsWait m b = true) :
    writeMessage lees kind b = startClock b :=
  (withHead_takes (sel := fun m => mKind m == kind) led queue (beq_iff_eq.mpr named)).trans (if_pos waits)

theorem writeMessage_goes {lees : List Host.Cell} {kind : Nat} (named : mKind m = kind) (goes : itemsWait m b = false) :
    writeMessage lees kind b = sequenced m (applyItems lees 0 (itemsOf m)) (ctlPopped ms b) :=
  (withHead_takes (sel := fun m => mKind m == kind) led queue (beq_iff_eq.mpr named)).trans (if_neg fun t => Bool.false_ne_true (goes.symm.trans t))

theorem notice_takes {sel : Nat → Bool} {f : CtlMsg → Block → Status × Block} (named : mKind m = 4)
    (code : sel (mCode m) = true) :
    notice sel f b = sequenced m (fun b => ((f m b).1, 0, (f m b).2)) (ctlPopped ms b) :=
  withHead_takes led queue (Bool.and_eq_true_iff.mpr ⟨beq_iff_eq.mpr named, code⟩)

end

theorem coreReportResend_lost (lost : b.maint.lost = true) : coreReportResend b = b := if_pos lost

theorem coreReportResend_sends (led : b.maint.lost = false) :
    coreReportResend b = b.each b.fm.reports transmitReport := if_neg fun t => Bool.false_ne_true (led.symm.trans t)

end

/-- What becomes of a sequenced message by R544: too old, recorded before, or fresh. -/
def sequencedOutcome (s : State) (m : CtlMsg) (ms : List CtlMsg) (f : Block → Status × Nat × Block) :
    Host.Outcome State Fault Refusal :=
  match copyOf s.blk (mSeq m) with
  | .tooOld => .next (s.after fun b => ctlTooOld (ctlPopped ms b))
  | .duplicate st i => .next (s.after fun b => respond m true st i [] (ctlDuplicate (ctlPopped ms b)))
  | .fresh => .next (s.after fun b => ctlAnswered m (f (ctlPopped ms b)))

theorem act_sequenced {s : State} {m : CtlMsg} {ms : List CtlMsg} {f : Block → Status × Nat × Block} {core : Block → Block}
    (effect : core s.start = sequenced m f (ctlPopped ms s.start)) : s.act core = sequencedOutcome s m ms f := by
  unfold sequencedOutcome
  cases copy : copyOf s.blk (mSeq m) with
  | tooOld => exact act_eq (s := s) (effect.trans (sequenced_tooOld (b := ctlPopped ms s.start) copy))
  | duplicate st i => exact act_eq (s := s) (effect.trans (sequenced_duplicate (b := ctlPopped ms s.start) copy))
  | fresh => exact act_eq (s := s) (effect.trans (sequenced_fresh (b := ctlPopped ms s.start) copy))

section
variable {s : State} {m : CtlMsg} {ms : List CtlMsg} (led : s.blk.maint.lost = false) (queue : s.blk.fm.queue = m :: ms)
include led queue

theorem exec_fmWrite_goes (goes : itemsWait m s.start = false) (kind : mKind m = 1) :
    exec .fmWrite s = sequencedOutcome s m ms (applyItems s.lees 0 (itemsOf m)) :=
  act_sequenced (writeMessage_goes (b := s.start) led queue kind goes)

theorem exec_writeBlock_goes (goes : itemsWait m s.start = false) (kind : mKind m = 2) :
    exec .writeBlock s = sequencedOutcome s m ms (applyItems s.lees 0 (itemsOf m)) :=
  act_sequenced (writeMessage_goes (b := s.start) led queue kind goes)

theorem exec_noticeDiverged (kind : mKind m = 4) (code : mCode m = 1) :
    exec .noticeDiverged s = sequencedOutcome s m ms fun b =>
      (.ok, 0, noticeDiverged (bits m.w1 119 110) (bits m.w1 109 78) b) :=
  act_sequenced (notice_takes (b := s.start) led queue kind (beq_iff_eq.mpr code))

theorem exec_noticePeerFault (kind : mKind m = 4) (code : mCode m = 2) :
    exec .noticePeerFault s = sequencedOutcome s m ms fun b =>
      (.ok, 0, raiseEvent 0x11 0 0xFF 0xFF (BitVec.ofNat 64 (bits m.w1 119 107)) 0 b) :=
  act_sequenced (notice_takes (b := s.start) led queue kind (beq_iff_eq.mpr code))

theorem exec_noticeUndefined (kind : mKind m = 4) (not_diverged : mCode m ≠ 1) (not_peer : mCode m ≠ 2) :
    exec .noticeUndefined s = sequencedOutcome s m ms fun b => (.access, 0, b) :=
  act_sequenced (notice_takes (b := s.start) led queue kind
    (Bool.and_eq_true_iff.mpr ⟨bne_iff_ne.mpr not_diverged, bne_iff_ne.mpr not_peer⟩))

end

end Sys2Proof.Machine

open Sys2Proof Sys2Proof.Machine

/-- Settles O51: the head of the control queue acts once, by its kind and by R544. -/
theorem controlMessagesAct : Obligations.ControlMessagesAct := by
  intro s m ms queue
  refine ⟨fun lost => ⟨?_, ?_, ?_, ?_, ?_, ?_, ?_, ?_⟩, fun led waits => ⟨fun kind => ?_, fun kind => ?_⟩,
    fun led goes => ⟨fun kind => ?_, fun kind => ?_⟩, fun led kind => ?_,
    fun led kind => ⟨fun code => ?_, fun code => ?_, fun c1 c2 => ?_⟩, fun led kind => ?_, fun led => ?_⟩
  case refine_1 => exact act_eq (s := s) (writeMessage_lost (b := s.start) lost)
  case refine_2 => exact act_eq (s := s) (writeMessage_lost (b := s.start) lost)
  case refine_3 => exact act_eq (s := s) (withHead_lost (b := s.start) lost)
  case refine_4 => exact act_eq (s := s) (withHead_lost (b := s.start) lost)
  case refine_5 => exact act_eq (s := s) (withHead_lost (b := s.start) lost)
  case refine_6 => exact act_eq (s := s) (withHead_lost (b := s.start) lost)
  case refine_7 => exact act_eq (s := s) (withHead_lost (b := s.start) lost)
  case refine_8 => exact act_eq (s := s) (coreReportResend_lost (b := s.start) lost)
  case refine_9 => exact act_eq (s := s) (writeMessage_waits (b := s.start) led queue kind waits)
  case refine_10 => exact act_eq (s := s) (writeMessage_waits (b := s.start) led queue kind waits)
  case refine_11 => exact exec_fmWrite_goes led queue goes kind
  case refine_12 => exact exec_writeBlock_goes led queue goes kind
  case refine_13 => exact act_eq (s := s) (withHead_takes (b := s.start) led queue (beq_iff_eq.mpr kind))
  case refine_14 => exact exec_noticeDiverged led queue kind code
  case refine_15 => exact exec_noticePeerFault led queue kind code
  case refine_16 => exact exec_noticeUndefined led queue kind c1 c2
  case refine_17 => exact act_eq (s := s) (withHead_takes (b := s.start) led queue (beq_iff_eq.mpr kind))
  case refine_18 => exact act_eq (s := s) (coreReportResend_sends (b := s.start) led)

end

section
/-!
PROOFS. Resets of an engine, of a partition and of the block, and power-on (R648 to R653, R679 to R681, R706).
-/

namespace Sys2Proof.Machine

/-! ### Registers of the reset and maintenance block (Table 16.12) -/

/-- A reset or maintenance register is outside the datapath: its write takes effect with no start of the clock. -/
theorem rstWrite {s : State} {p : Path} {o : Nat} {v : Word} {g : Block → Block} (small : o < 0x10000) (aligned : o % 8 = 0)
    (writable : s.blk.Writable p (0xB0000 + o)) (effect : writeRst p o v s.start = g s.start) :
    s.act (busWrite p (0xB0000 + o) true v s.lees) = .next (s.after g) :=
  regWrite_plain v g writable (by omega) (ofOffset_rst small) rfl effect

section
variable {b : Block}

/-! ### Engine resets (R648, R653) -/

theorem engineReset_refused {u : EngUnit} (refused : b.maint.block = true ∨ u ∈ b.maint.engines) :
    engineReset u b = rstStatus .busyActive b :=
  if_pos (refused.imp_right List.contains_iff_mem.mpr)

theorem engineReset_starts {u : EngUnit} (up : b.maint.block = false) (rests : u ∉ b.maint.engines) :
    engineReset u b = rstStatus .ok (resetUnit u { b with maint := { b.maint with engines := b.maint.engines ++ [u] } }) := by
  refine if_neg ?_
  rintro (block | mem)
  · exact Bool.false_ne_true (up.symm.trans block)
  · exact rests (List.contains_iff_mem.mp mem)

/-- Something that the reset of a unit ended is left. -/
def endingLeft (u : EngUnit) (b : Block) : Bool := b.press.insts.any fun x => x.2.st == .ending && unitInst u x.2

/-- The contexts that run and hold a use that the reset of XLAT waits for. -/
def xlatHolders (b : Block) : List Nat := ((invUses b xlatReset).map fun u => u.ctx).eraseDups.filter (ctxRuns b)

/-- The reset of XLAT ends at its bound: the contexts of the uses left freeze (R369, R648). -/
def xlatForced (cs : List Nat) (b : Block) : Block :=
  let b := b.each cs fun c b => freezeCtx c 7 .busyDraining 0xFF 0xFF 0 b
  endEngineReset .xlat .busyDraining { b with maint := { b.maint with
    frozen := BitVec.ofNat 16 ((cs.map fun c => 2 ^ c).foldl (· + ·) 0) } }

theorem coreEngineResetDone_none {u : EngUnit} (rests : u ∉ b.maint.engines) : coreEngineResetDone u b = b := by
  refine if_pos ?_
  rw [Bool.not_eq_true']
  exact Bool.eq_false_iff.mpr fun t => rests (List.contains_iff_mem.mp t)

theorem engine_in_reset {u : EngUnit} (resets : u ∈ b.maint.engines) : ¬(!b.maint.engines.contains u) = true := by
  rw [List.contains_iff_mem.mpr resets]
  decide

theorem coreEngineResetDone_unit {u : EngUnit} (resets : u ∈ b.maint.engines) (unit : u = .press ∨ u = .ferry) :
    coreEngineResetDone u b = if endingLeft u b then b else endEngineReset u .ok b := by
  refine (if_neg (engine_in_reset resets)).trans ?_
  obtain rfl | rfl := unit <;> rfl

theorem coreEngineResetDone_xlat (resets : EngUnit.xlat ∈ b.maint.engines) :
    coreEngineResetDone .xlat b =
      if (xlatHolders b).isEmpty then endEngineReset .xlat .ok b else xlatForced (xlatHolders b) b :=
  if_neg (engine_in_reset resets)

/-! ### Partition resets (R649) -/

/-- The contexts of a partition freeze, are dumped and enter reset. -/
def partReset (p : Nat) (b : Block) : Block :=
  let b := rstStatus .ok { b with maint := { b.maint with parts := b.maint.parts ++ [p] } }
  let b := b.each (partCtxs b p) coreCtxFreeze
  let b := b.each (partCtxs b p) fun c b => (dumpCtx c b).modCtx c fun x => { x with st := .resetting }
  partStep p b

/-- A partition reset ends. -/
def partResetEnded (p : Nat) (b : Block) : Block :=
  raiseEvent 0x14 0 0xFF 1 (w64 p) 0
    (rstStatus .ok { b with maint := { b.maint with parts := b.maint.parts.filter fun x => x != p } })

section
variable {p : Nat}

theorem corePartitionReset_refused (refused : b.maint.block = true ∨ p ∈ b.maint.parts) :
    corePartitionReset p b = rstStatus .busyActive b :=
  if_pos (refused.imp_right List.contains_iff_mem.mpr)

theorem corePartitionReset_starts (up : b.maint.block = false) (rests : p ∉ b.maint.parts) :
    corePartitionReset p b = partReset p b := by
  refine if_neg ?_
  rintro (block | mem)
  · exact Bool.false_ne_true (up.symm.trans block)
  · exact rests (List.contains_iff_mem.mp mem)

theorem corePartitionResetDone_waits (waits : p ∉ b.maint.parts ∨ partBusy b p = true ∨ partHeld b p = true) :
    corePartitionResetDone p b = b := by
  refine if_pos (waits.imp_left fun rests => ?_)
  rw [Bool.not_eq_true']
  exact Bool.eq_false_iff.mpr fun t => rests (List.contains_iff_mem.mp t)

theorem corePartitionResetDone_ends (resets : p ∈ b.maint.parts) (idle : partBusy b p = false) (clear : partHeld b p = false) :
    corePartitionResetDone p b = partResetEnded p b := by
  refine if_neg ?_
  rintro (rests | busy | held)
  · rw [List.contains_iff_mem.mpr resets] at rests
    exact Bool.false_ne_true rests
  · exact Bool.false_ne_true (idle.symm.trans busy)
  · exact Bool.false_ne_true (clear.symm.trans held)

end

/-! ### The block reset (R650 to R653, R680) -/

/-- A block reset begins, its cause kept in its dump. -/
def blockResetting (cause : Nat) (b : Block) : Block :=
  startBoot (resetBlock ((dumpBlock cause b).emit (.pmAlive false)))

theorem blockResetBy_refused {cause : Nat} (under : b.maint.block = true) :
    blockResetBy cause b = rstStatus .busyActive b := if_pos under

theorem blockResetBy_starts {cause : Nat} (up : b.maint.block = false) : blockResetBy cause b = blockResetting cause b :=
  if_neg fun t => Bool.false_ne_true (up.symm.trans t)

theorem coreBlkRstReq_off (off : bitAt b.maint.straps 2 = false) : coreBlkRstReq b = b :=
  if_neg fun t => Bool.false_ne_true (off.symm.trans t)

theorem coreBlkRstReq_on (on : bitAt b.maint.straps 2 = true) : coreBlkRstReq b = blockResetBy 3 b := if_pos on

/-- The last step of a boot. -/
def bootEnded (b : Block) : Block :=
  let b := rstStatus .ok { b with
    maint := { b.maint with block := false, boot := .idle, cold := false }
    pwr := { b.pwr with alive := true } }
  let held := b.fm.heldReports
  let b := sendReport 0x05 [] (raiseEvent 0x14 0 0xFF 2 0 0 (({ b with fm := { b.fm with heldReports := [] } } : Block).emit (.pmAlive true)))
  Block.each held (fun x => sendReport x.1 x.2) b

theorem straits_settled_iff : ((List.range 32).all fun n => straitSettled (b.strait n)) = true ↔
    ∀ n < 32, straitSettled (b.strait n) = true := by
  simp only [List.all_eq_true, List.mem_range]

theorem coreBlockResetDone_ends (done : b.maint.boot = .done) (settled : ∀ n < 32, straitSettled (b.strait n) = true) :
    coreBlockResetDone b = bootEnded b := by
  refine if_neg ?_
  rw [straits_settled_iff.mpr settled]
  rintro (not_done | unsettled)
  · exact not_done done
  · exact Bool.false_ne_true unsettled

theorem coreBlockResetDone_waits
    (waits : b.maint.boot ≠ .done ∨ ¬ ∀ n < 32, straitSettled (b.strait n) = true) : coreBlockResetDone b = b := by
  refine if_pos (waits.imp_right fun unsettled => ?_)
  rw [Bool.not_eq_true']
  exact Bool.eq_false_iff.mpr fun t => unsettled (straits_settled_iff.mp t)

end

section
variable {s : State} {p : Path} {g : Block → Block}

theorem exec_engineResetPress (writable : s.blk.Writable p 0xB0000) (effect : engineReset .press s.start = g s.start) :
    exec (.engineResetPress p) s = .next (s.after g) :=
  rstWrite (o := 0) (by decide) (by decide) writable effect

theorem exec_engineResetFerry (writable : s.blk.Writable p 0xB0000) (effect : engineReset .ferry s.start = g s.start) :
    exec (.engineResetFerry p) s = .next (s.after g) :=
  rstWrite (o := 0) (by decide) (by decide) writable effect

theorem exec_engineResetXlat (writable : s.blk.Writable p 0xB0000) (effect : engineReset .xlat s.start = g s.start) :
    exec (.engineResetXlat p) s = .next (s.after g) :=
  rstWrite (o := 0) (by decide) (by decide) writable effect

/-- The word that names a partition to reset. -/
theorem partWord_fields (part : Part) :
    let v : Word := BitVec.ofNat 64 (4 + part.val)
    bitAt v 2 = true ∧ bits v 1 0 = part.val := by
  have small := part.isLt
  intro v
  refine ⟨bitAt_of_bits ?_, ?_⟩
  · rw [bits_ofNat, Bool.toNat_true]
    omega
  · rw [bits_ofNat]
    omega

theorem exec_partitionReset {part : Part} (writable : s.blk.Writable p 0xB0008)
    (effect : corePartitionReset part.val s.start = g s.start) : exec (.partitionReset p part) s = .next (s.after g) := by
  obtain ⟨go, field⟩ := partWord_fields part
  refine rstWrite (o := 8) (by decide) (by decide) writable ((if_pos go).trans ?_)
  rw [field]
  exact effect

/-- The word that asks for a block reset. -/
theorem confirmWord_fields (c : BitVec 16) :
    let v := word [(48, c.toNat), (0, 1)]
    bitAt v 0 = true ∧ bits v 63 48 = c.toNat := by
  have small := c.isLt
  intro v
  have fields (hi lo : Nat) : bits v hi lo = (c.toNat * 2 ^ 48 + (1 * 2 ^ 0 + 0)) % 2 ^ 64 / 2 ^ lo % 2 ^ (hi + 1 - lo) := by
    simp only [v, bits_word_eq, packNat, Nat.shiftLeft_eq]
  refine ⟨bitAt_of_bits ?_, ?_⟩
  · rw [fields, Bool.toNat_true]
    omega
  · rw [fields]
    omega

theorem exec_blockReset {c : BitVec 16} (confirmed : c.toNat = 0xD1B3) (writable : s.blk.Writable p 0xB0010)
    (effect : blockResetBy (resetCause p) s.start = g s.start) : exec (.blockReset p c) s = .next (s.after g) := by
  obtain ⟨go, field⟩ := confirmWord_fields c
  exact rstWrite (o := 0x10) (by decide) (by decide) writable ((if_pos ⟨go, field.trans confirmed⟩).trans effect)

theorem exec_blockReset_unconfirmed {c : BitVec 16} (writable : s.blk.Writable p 0xB0010) (wrong : c ≠ 0xD1B3) :
    exec (.blockReset p c) s = .next (s.after id) := by
  obtain ⟨go, field⟩ := confirmWord_fields c
  refine rstWrite (o := 0x10) (by decide) (by decide) writable (if_neg ?_)
  rintro ⟨_, confirmed⟩
  exact wrong (BitVec.eq_of_toNat_eq (field.symm.trans confirmed))

end

end Sys2Proof.Machine

open Sys2Proof Sys2Proof.Machine

/-- Settles O52: an engine's reset and a partition's start unless one is under way, and end once nothing of them is
left. -/
theorem enginesAndPartitionsReset : Obligations.EnginesAndPartitionsReset := by
  intro s p
  refine ⟨fun writable u => ⟨fun refused => ?_, fun up rests => ?_⟩,
    fun u => ⟨fun rests => ?_, fun resets unit => ⟨fun left => ?_, fun gone => ?_⟩⟩,
    fun resets => ⟨fun none => ?_, fun some => ?_⟩,
    fun part => ⟨fun writable => ⟨fun refused => ?_, fun up rests => ?_⟩, fun waits => ?_, fun resets idle clear => ?_⟩⟩
  case refine_1 =>
    have effect := engineReset_refused (b := s.start) refused
    cases u with
    | press => exact exec_engineResetPress writable effect
    | ferry => exact exec_engineResetFerry writable effect
    | xlat => exact exec_engineResetXlat writable effect
  case refine_2 =>
    have effect := engineReset_starts (b := s.start) up rests
    cases u with
    | press => exact exec_engineResetPress writable effect
    | ferry => exact exec_engineResetFerry writable effect
    | xlat => exact exec_engineResetXlat writable effect
  case refine_3 => exact act_eq (s := s) (coreEngineResetDone_none (b := s.start) rests)
  case refine_4 => exact act_eq (s := s) ((coreEngineResetDone_unit (b := s.start) resets unit).trans (if_pos left))
  case refine_5 =>
    exact act_eq (s := s) ((coreEngineResetDone_unit (b := s.start) resets unit).trans
      (if_neg fun t => Bool.false_ne_true (gone.symm.trans t)))
  case refine_6 =>
    exact act_eq (s := s) ((coreEngineResetDone_xlat (b := s.start) resets).trans (if_pos (List.isEmpty_iff.mpr none)))
  case refine_7 =>
    exact act_eq (s := s) ((coreEngineResetDone_xlat (b := s.start) resets).trans
      (if_neg fun t => some (List.isEmpty_iff.mp t)))
  case refine_8 => exact exec_partitionReset writable (corePartitionReset_refused (b := s.start) refused)
  case refine_9 => exact exec_partitionReset writable (corePartitionReset_starts (b := s.start) up rests)
  case refine_10 => exact act_eq (s := s) (corePartitionResetDone_waits (b := s.start) waits)
  case refine_11 => exact act_eq (s := s) (corePartitionResetDone_ends (b := s.start) resets idle clear)

/-- Settles O53: the block reset by a path and by the pin, its end, and the steps of power-on. -/
theorem blockResetsAndPowerOn : Obligations.BlockResetsAndPowerOn := by
  intro s
  refine ⟨fun p writable => ⟨fun under => ?_, fun up => ?_, fun c wrong => ?_⟩, fun off => ?_, fun on up => ?_,
    fun on under => ?_, ⟨fun done settled => ?_, fun waits => ?_⟩, fun straps => rfl, fun boot => ?_, fun late => ?_⟩
  case refine_1 => exact exec_blockReset rfl writable (blockResetBy_refused (b := s.start) under)
  case refine_2 => exact exec_blockReset rfl writable (blockResetBy_starts (b := s.start) up)
  case refine_3 => exact exec_blockReset_unconfirmed writable wrong
  case refine_4 => exact act_eq (s := s) (coreBlkRstReq_off (b := s.start) off)
  case refine_5 => exact act_eq (s := s) ((coreBlkRstReq_on (b := s.start) on).trans (blockResetBy_starts (b := s.start) up))
  case refine_6 =>
    exact act_eq (s := s) ((coreBlkRstReq_on (b := s.start) on).trans (blockResetBy_refused (b := s.start) under))
  case refine_7 => exact act_eq (s := s) (coreBlockResetDone_ends (b := s.start) done settled)
  case refine_8 => exact act_eq (s := s) (coreBlockResetDone_waits (b := s.start) waits)
  case refine_9 => exact act_eq (s := s) (if_pos boot)
  case refine_10 => exact act_eq (s := s) (if_neg late)

end

section
/-!
PROOFS. Maintenance registers: dumps, slots, tokens, the BIST and the quarantine list (R639, R644, R655 to R661).
-/

namespace Sys2Proof.Machine

section
variable {b : Block}

/-! ### Maintenance tokens (R655, R657) -/

section
variable {h r : Nat}

theorem maintAcquireBy_unlisted (unlisted : 0x24 ≤ r) : maintAcquireBy h r b = maintStatus h r .access 0 b :=
  if_pos (by simpa [resourceListed] using unlisted)

theorem maintReleaseBy_unlisted (unlisted : 0x24 ≤ r) : maintReleaseBy h r b = maintStatus h r .access 0 b :=
  if_pos (.inl (by simpa [resourceListed] using unlisted))

theorem maintReleaseBy_other (other : (b.token r).holder ≠ h) : maintReleaseBy h r b = maintStatus h r .access 0 b :=
  if_pos (.inr other)

section
variable (listed : r < 0x24)
include listed

theorem resource_is_listed : ¬(!resourceListed r) = true := by simpa [resourceListed] using listed

theorem maintAcquireBy_busy (busy : tokenBusy b r h = true) :
    maintAcquireBy h r b = maintStatus h r .busy (b.token r).holder b :=
  (if_neg (resource_is_listed listed)).trans (if_pos busy)

theorem maintAcquireBy_idle (idle : tokenBusy b r h = false) :
    maintAcquireBy h r b =
      if r = resPress ∧ b.press.permit = .held then maintStatus h r .busyActive 0 b
      else maintStatus h r .ok 0 (b.setToken r { holder := h, explicit := true }) :=
  (if_neg (resource_is_listed listed)).trans (if_neg fun t => Bool.false_ne_true (idle.symm.trans t))

/-- A token is released; the press may ask for its permit again (R291). -/
def maintReleased (h r : Nat) (b : Block) : Block :=
  let b := maintStatus h r .ok 0 (b.setToken r {})
  if r = resPress then pressAgain b else b

theorem maintReleaseBy_own (own : (b.token r).holder = h) : maintReleaseBy h r b = maintReleased h r b :=
  if_neg (not_or_intro (resource_is_listed listed) (not_not.mpr own))

end

end

/-! ### The BIST (R660) -/

/-- The BIST starts under the CELLAR token. -/
def bistStarted (h : Nat) (b : Block) : Block :=
  let b := bistStatus .ok (takeToken resCellar h b)
  askPermit .bist 16 { b with maint := { b.maint with
    bistState := 1, bistWaiting := true, bistErrors := 0, bistFirst := 0, bistHolder := h } }

/-- The BIST ends. -/
def bistEnded (errors first : BitVec 24) (b : Block) : Block :=
  raiseEvent 0x16 0 0xFF 0xFF (BitVec.setWidth 64 errors) (BitVec.setWidth 64 first)
    (endToken resCellar (returnUnits 16 { b with maint := { b.maint with
      bistState := if errors = 0 then 2 else 3, bistErrors := errors, bistFirst := first } }))

section
variable {h : Nat}

theorem bistStartBy_running (running : b.maint.bistState = 1) : bistStartBy h b = bistStatus .busyActive b := if_pos running

section
variable (rests : b.maint.bistState ≠ 1)
include rests

theorem bistStartBy_busy (busy : tokenBusy b resCellar h = true) : bistStartBy h b = bistStatus .busy b :=
  (if_neg rests).trans (if_pos busy)

theorem bistStartBy_clear (idle : tokenBusy b resCellar h = false) :
    bistStartBy h b = if !bistClear b then bistStatus .busyActive b else bistStarted h b :=
  (if_neg rests).trans (if_neg fun t => Bool.false_ne_true (idle.symm.trans t))

end

theorem bistStartBy_busyActive
    (refused : b.maint.bistState = 1 ∨ (tokenBusy b resCellar h = false ∧ bistClear b = false)) :
    bistStartBy h b = bistStatus .busyActive b := by
  by_cases running : b.maint.bistState = 1
  · exact bistStartBy_running running
  · obtain ⟨idle, held⟩ := refused.resolve_left running
    exact (bistStartBy_clear running idle).trans (if_pos (by rw [held]; rfl))

end

theorem coreBistDone_none {errors first : BitVec 24} (none : b.maint.bistState ≠ 1 ∨ b.maint.bistWaiting = true) :
    coreBistDone errors first b = b := if_pos none

theorem coreBistDone_ends {errors first : BitVec 24} (runs : b.maint.bistState = 1) (granted : b.maint.bistWaiting = false) :
    coreBistDone errors first b = bistEnded errors first b := by
  refine if_neg ?_
  rintro (rests | waits)
  · exact rests runs
  · exact Bool.false_ne_true (granted.symm.trans waits)

/-! ### The quarantine list (R661) -/

/-- QUAR.LIFT.STATUS. -/
def quarStatus (st : Status) (b : Block) : Block := { b with maint := { b.maint with quarStatus := st.code } }

/-- A transfer maintains an entry of the quarantine list. -/
def Maintained (b : Block) (k : Nat) : Prop :=
  ∃ e < 16, (b.rack e).maintValid = true ∧ (b.rack e).maintEntry.toNat = k

theorem maintained_iff {k : Nat} :
    ((List.range 16).any fun e => (b.rack e).maintValid && (b.rack e).maintEntry.toNat == k) = true ↔ Maintained b k := by
  simp only [List.any_eq_true, List.mem_range, Bool.and_eq_true, beq_iff_eq, Maintained]

theorem quarLift_used {k : Nat} (used : Maintained b k) : quarLift k b = quarStatus .busyActive b :=
  if_pos (maintained_iff.mpr used)

section
variable {k : Nat} (unused : ¬Maintained b k)
include unused

theorem quarLift_absent (absent : tget none b.home.quar k = none) : quarLift k b = quarStatus .access b :=
  (if_neg fun t => unused (maintained_iff.mp t)).trans (if_pos (by rw [absent]; rfl))

theorem quarLift_lifts (held : tget none b.home.quar k ≠ none) :
    quarLift k b = quarStatus .ok { b with home := { b.home with quar := tset b.home.quar k none } } :=
  (if_neg fun t => unused (maintained_iff.mp t)).trans (if_neg fun t => held (Option.isNone_iff_eq_none.mp t))

end

/-! ### LEES.SLOTS (R644) -/

theorem coreLeesDump_frozen {c : Nat} (frozen : (b.ctx c).st = .frozen) : coreLeesDump c b = dumpCtx c b := if_pos frozen

theorem coreLeesDump_ignored {c : Nat} (runs : (b.ctx c).st ≠ .frozen) : coreLeesDump c b = b := if_neg runs

/-- Slots named in LEES.SLOTS are free. -/
def slotsCleared (mask : BitVec 11) (b : Block) : Block :=
  let gone := (List.range 11).filter fun k => bitAt mask k && bitAt b.evt.slots k
  Block.each gone (fun k b => leesOp (.clear (0x100 + 32 * k) 1) b)
    { b with evt := { b.evt with slots := w1c b.evt.slots mask } }

theorem writeSlots_clears (mask : BitVec 11) : writeSlots (mask.setWidth 64) b = slotsCleared mask b := by
  have named : ((List.range 11).filter fun k => bitAt (mask.setWidth 64) k && bitAt b.evt.slots k) =
      (List.range 11).filter fun k => bitAt mask k && bitAt b.evt.slots k := by
    refine List.filter_congr fun k mem => ?_
    have below : k < 64 := Nat.lt_trans (List.mem_range.mp mem) (by decide)
    simp only [bitAt, BitVec.getLsbD_setWidth, below, decide_true, Bool.true_and]
  have same : BitVec.ofNat 11 (mask.setWidth 64).toNat = mask := by
    rw [BitVec.ofNat_toNat, BitVec.setWidth_setWidth_of_le _ (by decide), BitVec.setWidth_eq]
  unfold writeSlots slotsCleared
  rw [named, same]

end

/-! ### The words of the rows -/

theorem acquireWord_fields (r : Byte) :
    bitAt (r.setWidth 64) 8 = false ∧ bits (r.setWidth 64) 7 0 = r.toNat := by
  have small := r.isLt
  have word : r.setWidth 64 = BitVec.ofNat 64 r.toNat := (BitVec.ofNat_toNat 64 r).symm
  refine ⟨bitAt_of_bits ?_, ?_⟩
  · rw [word, bits_ofNat, Bool.toNat_false]
    omega
  · rw [word, bits_ofNat]
    omega

theorem releaseWord_fields (r : Byte) :
    bitAt (BitVec.ofNat 64 (0x100 + r.toNat)) 8 = true ∧ bits (BitVec.ofNat 64 (0x100 + r.toNat)) 7 0 = r.toNat := by
  have small := r.isLt
  refine ⟨bitAt_of_bits ?_, ?_⟩
  · rw [bits_ofNat, Bool.toNat_true]
    omega
  · rw [bits_ofNat]
    omega

theorem liftWord_fields (k : Fin 32) :
    bitAt (BitVec.ofNat 64 (0x20 + k.val)) 5 = true ∧ bits (BitVec.ofNat 64 (0x20 + k.val)) 4 0 = k.val := by
  have small := k.isLt
  refine ⟨bitAt_of_bits ?_, ?_⟩
  · rw [bits_ofNat, Bool.toNat_true]
    omega
  · rw [bits_ofNat]
    omega

section
variable {s : State} {p : Path} {g : Block → Block}

theorem exec_leesSlotsClear {mask : BitVec 11} (writable : s.blk.Writable p 0xB0308) :
    exec (.leesSlotsClear p mask) s = .next (s.after (slotsCleared mask)) :=
  rstWrite (o := 0x308) (by decide) (by decide) writable (writeSlots_clears mask)

theorem exec_maintAcquire {res : Byte} (writable : s.blk.Writable p 0xB0100)
    (effect : maintAcquireBy p.holder res.toNat s.start = g s.start) : exec (.maintAcquire p res) s = .next (s.after g) := by
  obtain ⟨acquire, field⟩ := acquireWord_fields res
  refine rstWrite (o := 0x100) (by decide) (by decide) writable ?_
  refine (if_neg fun t => Bool.false_ne_true (acquire.symm.trans t)).trans ?_
  rw [field]
  exact effect

theorem exec_maintRelease {res : Byte} (writable : s.blk.Writable p 0xB0100)
    (effect : maintReleaseBy p.holder res.toNat s.start = g s.start) : exec (.maintRelease p res) s = .next (s.after g) := by
  obtain ⟨release, field⟩ := releaseWord_fields res
  refine rstWrite (o := 0x100) (by decide) (by decide) writable ((if_pos release).trans ?_)
  rw [field]
  exact effect

theorem exec_bistStart (writable : s.blk.Writable p 0xB0180) (effect : bistStartBy p.holder s.start = g s.start) :
    exec (.bistStart p) s = .next (s.after g) :=
  rstWrite (o := 0x180) (by decide) (by decide) writable effect

theorem exec_quarLift {k : Fin 32} (writable : s.blk.Writable p 0xB0500) (effect : quarLift k.val s.start = g s.start) :
    exec (.quarLift p k) s = .next (s.after g) := by
  obtain ⟨go, field⟩ := liftWord_fields k
  refine rstWrite (o := 0x500) (by decide) (by decide) writable ((if_pos go).trans ?_)
  rw [field]
  exact effect

end

end Sys2Proof.Machine

open Sys2Proof Sys2Proof.Machine

/-- Settles O54: each maintenance register's write by what stands in its way. -/
theorem maintenanceActs : Obligations.MaintenanceActs := by
  intro s p
  refine ⟨fun c writable => ⟨fun frozen => ?_, fun runs => ?_⟩, fun mask writable => exec_leesSlotsClear writable,
    fun res writable => ⟨fun unlisted => ⟨?_, ?_⟩, fun listed busy => ?_, fun listed idle press held => ?_,
      fun listed idle free => ?_, fun _ other => ?_, fun listed own => ?_⟩,
    fun writable => ⟨fun refused => ?_, fun rests busy => ?_, fun rests idle clear => ?_⟩,
    fun errors first => ⟨fun none => ?_, fun runs granted => ?_⟩,
    fun k writable => ⟨fun used => ?_, fun unused absent => ?_, fun unused held => ?_⟩⟩
  case refine_1 => exact (exec_leesDump writable).trans (act_eq (s := s) (coreLeesDump_frozen (b := s.start) frozen))
  case refine_2 => exact (exec_leesDump writable).trans (act_eq (s := s) (coreLeesDump_ignored (b := s.start) runs))
  case refine_3 => exact exec_maintAcquire writable (maintAcquireBy_unlisted (b := s.start) unlisted)
  case refine_4 => exact exec_maintRelease writable (maintReleaseBy_unlisted (b := s.start) unlisted)
  case refine_5 => exact exec_maintAcquire writable (maintAcquireBy_busy (b := s.start) listed busy)
  case refine_6 =>
    exact exec_maintAcquire writable ((maintAcquireBy_idle (b := s.start) listed idle).trans (if_pos ⟨press, held⟩))
  case refine_7 =>
    exact exec_maintAcquire writable ((maintAcquireBy_idle (b := s.start) listed idle).trans
      (if_neg fun t => free.elim (fun other => other t.1) fun unheld => unheld t.2))
  case refine_8 => exact exec_maintRelease writable (maintReleaseBy_other (b := s.start) other)
  case refine_9 => exact exec_maintRelease writable (maintReleaseBy_own (b := s.start) listed own)
  case refine_10 => exact exec_bistStart writable (bistStartBy_busyActive (b := s.start) refused)
  case refine_11 => exact exec_bistStart writable (bistStartBy_busy (b := s.start) rests busy)
  case refine_12 =>
    refine exec_bistStart writable ((bistStartBy_clear (b := s.start) rests idle).trans (if_neg ?_))
    rw [clear]
    decide
  case refine_13 => exact act_eq (s := s) (coreBistDone_none (b := s.start) none)
  case refine_14 => exact act_eq (s := s) (coreBistDone_ends (b := s.start) runs granted)
  case refine_15 => exact exec_quarLift writable (quarLift_used (b := s.start) used)
  case refine_16 => exact exec_quarLift writable (quarLift_absent (b := s.start) unused absent)
  case refine_17 => exact exec_quarLift writable (quarLift_lifts (b := s.start) unused held)

end

section
/-!
PROOFS. Firmware activation, and the cellarers' self-tests and fail-over (R663 to R670).
-/

namespace Sys2Proof.Machine

section
variable {b : Block}

/-! ### ACTIVATE (R655, R658, R670) -/

/-- The healthy standby, where there is one. -/
def standbyOf (b : Block) : Option Nat :=
  match activeCellarer b with
  | some a => if standbyHealthy b (1 - a) then some (1 - a) else none
  | none => none

/-- The staged image boots on cellarer k, and the RoT is asked to verify it. -/
def fwActivated (holder k : Nat) (b : Block) : Block :=
  let b := takeToken resFwslot holder (fwStatus .ok b)
  let b := b.modCellarer k fun c => { c with role := .booting }
  let b := { b with maint := { b.maint with
    bState := .booting, activating := true, actHolder := holder, verified := none } }
  mboxPut [verifyMsg b] b

section
variable {h : Nat}

theorem fwActivateBy_busy (busy : tokenBusy b resFwslot h = true ∨ b.maint.bState = .staging) :
    fwActivateBy h b = fwStatus .busy b := if_pos busy

section
variable (idle : ¬(tokenBusy b resFwslot h = true ∨ b.maint.bState = .staging))
include idle

theorem fwActivateBy_calibrating (calibrates : calibrating b = true) : fwActivateBy h b = fwStatus .busyActive b :=
  (if_neg idle).trans (if_pos calibrates)

section
variable (still : calibrating b = false)
include still

theorem fwActivateBy_idle :
    fwActivateBy h b = match b.maint.bState, standbyOf b with
      | .staged, some k => fwActivated h k b
      | _, _ => fwStatus .notReady b :=
  (if_neg idle).trans ((if_neg fun t => Bool.false_ne_true (still.symm.trans t)).trans rfl)

theorem fwActivateBy_notReady (missing : b.maint.bState ≠ .staged ∨ standbyOf b = none) :
    fwActivateBy h b = fwStatus .notReady b := by
  rw [fwActivateBy_idle idle still]
  split
  case h_1 k staged standby =>
    exact (missing.elim (fun other => other staged) fun none => Option.some_ne_none k (standby.symm.trans none)).elim
  case h_2 => rfl

theorem fwActivateBy_boots {k : Nat} (staged : b.maint.bState = .staged) (standby : standbyOf b = some k) :
    fwActivateBy h b = fwActivated h k b := by
  rw [fwActivateBy_idle idle still, staged, standby]

end

end

end

/-! ### The end of an activation (R670) -/

/-- The image that a boot verified runs. -/
def bootVerified (v : BitVec 32) (b : Block) : Block :=
  mboxPut settingsReads (cellarersRun (firmwareEvent 1 v .ok { (runStaged b) with
    maint := { (runStaged b).maint with cold := false } }))

/-- A staged image is BAD, with a status of the block's own. -/
def imageBad (b : Block) : Status × Block :=
  freeStatus { b with maint := { b.maint with bState := .bad, verified := none } }

/-- The image that a boot verified is BAD, and the boot begins again. -/
def bootFailed (v : BitVec 32) (b : Block) : Block :=
  startBoot (firmwareEvent 2 v (imageBad b).1 (imageBad b).2)

/-- An activation is over. -/
def activationEnded (b : Block) : Block := endToken resFwslot { b with maint := { b.maint with activating := false } }

/-- The image runs, and control goes to the other cellarer. -/
def activationDone (v : BitVec 32) (b : Block) : Block :=
  let b := runStaged (activationEnded b)
  let b := match activeCellarer b with
    | some a => takeOver a (1 - a) 0 b
    | none => b
  mboxPut settingsReads (firmwareEvent 1 v .ok b)

/-- The image of an activation is BAD. -/
def activationFailed (v : BitVec 32) (b : Block) : Block :=
  let r := imageBad (activationEnded b)
  firmwareEvent 2 v r.1 (fwStatus r.1 r.2)

theorem coreFwActivateDone_none {ok : Bool}
    (none : b.maint.verified = none ∨ (b.maint.boot ≠ .verifying ∧ b.maint.activating = false)) :
    coreFwActivateDone ok b = b := by
  unfold coreFwActivateDone
  split
  case h_1 => rfl
  case h_2 v verified =>
    obtain ⟨boot, rests⟩ := none.resolve_left fun none => Option.some_ne_none v (verified.symm.trans none)
    exact (if_neg boot).trans (if_neg fun t => Bool.false_ne_true (rests.symm.trans t))

section
variable {ok v : Bool} (verified : b.maint.verified = some v)
include verified

theorem coreFwActivateDone_boot (boot : b.maint.boot = .verifying) :
    coreFwActivateDone ok b =
      if v ∧ ok then bootVerified b.maint.stagedVersion b else bootFailed b.maint.stagedVersion b := by
  unfold coreFwActivateDone
  rw [verified]
  exact if_pos boot

theorem coreFwActivateDone_activation (boot : b.maint.boot ≠ .verifying) (activating : b.maint.activating = true) :
    coreFwActivateDone ok b =
      if v ∧ ok then activationDone b.maint.stagedVersion b else activationFailed b.maint.stagedVersion b := by
  unfold coreFwActivateDone
  rw [verified]
  exact (if_neg boot).trans (if_pos activating)

end

theorem not_both {v ok : Bool} (failed : v = false ∨ ok = false) : ¬(v = true ∧ ok = true) := by
  rintro ⟨rfl, rfl⟩
  exact failed.elim Bool.noConfusion Bool.noConfusion

/-! ### Self-tests and fail-over (R663 to R665) -/

/-- A self-test of the standby passes. -/
def selftestPassed (k : Nat) (b : Block) : Block := b.modCellarer k fun c =>
  { c with role := .standby, selftests := c.selftests + 1, lastPass := b.time.loc }

section
variable {k : Nat}

theorem coreSelftestPass_standby (standby : (b.cellarer k).role = .standby) : coreSelftestPass k b = selftestPassed k b := by
  unfold coreSelftestPass
  simp only [standby]
  rfl

theorem coreSelftestPass_booting (booting : (b.cellarer k).role = .booting) :
    coreSelftestPass k b = if (activeCellarer b).isSome ∧ !b.maint.activating then
      selftestPassed k { b with maint := { b.maint with restarting := false } } else b := by
  unfold coreSelftestPass
  simp only [booting]
  rfl

theorem coreSelftestPass_other (other : (b.cellarer k).role = .active ∨ (b.cellarer k).role = .failed) :
    coreSelftestPass k b = b := by
  unfold coreSelftestPass
  obtain role | role := other <;> simp only [role]

end

/-- The active cellarer's fault is recorded. -/
def missRecorded (a : Nat) (fault : Byte) (b : Block) : Block := b.modCellarer a fun c => { c with faultCode := fault }

/-- No healthy standby is left: the cellarers are lost. -/
def cellarersLost (a : Nat) (fault : Byte) (b : Block) : Block :=
  let b := dropCellarerTokens (b.modCellarer a fun c => { c with role := .failed })
  raiseEvent 0x13 0 0xFF a (BitVec.setWidth 64 fault) 0 { b with
    maint := { b.maint with lost := true }
    time := { b.time with locked := false }
    straits := b.straits.map fun y => (y.1, if y.2.st = StraitSt.off then { y.2 with wake := .none } else y.2) }

theorem coreHeartbeatMiss_none {fault : Byte} (none : activeCellarer b = none) : coreHeartbeatMiss fault b = b := by
  unfold coreHeartbeatMiss
  rw [none]

theorem coreHeartbeatMiss_active {fault : Byte} {a : Nat} (active : activeCellarer b = some a) :
    coreHeartbeatMiss fault b =
      if standbyHealthy (missRecorded a fault b) (1 - a) then takeOver a (1 - a) fault (missRecorded a fault b)
      else cellarersLost a fault (missRecorded a fault b) := by
  unfold coreHeartbeatMiss
  rw [active]
  rfl

end

theorem exec_fwActivate {s : State} {p : Path} {g : Block → Block} (writable : s.blk.Writable p 0xB0200)
    (effect : fwActivateBy p.holder s.start = g s.start) : exec (.fwActivate p) s = .next (s.after g) :=
  rstWrite (o := 0x200) (by decide) (by decide) writable effect

end Sys2Proof.Machine

open Sys2Proof Sys2Proof.Machine

/-- Settles O55: ACTIVATE and its end, a self-test of the standby, and a missed heartbeat. -/
theorem firmwareAndCellarersAct : Obligations.FirmwareAndCellarersAct := by
  intro s x standby
  refine ⟨fun p writable => ⟨fun busy => ?_, fun idle calibrates => ?_, fun idle still missing => ?_,
      fun k idle still staged healthy => ?_⟩,
    fun ok => ⟨fun none => ?_, fun v verified boot activating => ⟨fun pass well => ?_, fun failed => ?_⟩,
      fun v verified boot => ⟨fun pass well => ?_, fun failed => ?_⟩⟩,
    fun k => ⟨fun stands => ?_, fun booting boots => ?_, fun other => ?_⟩,
    fun fault => ⟨fun none => ?_, fun a active => ⟨fun healthy => ?_, fun unhealthy => ?_⟩⟩⟩
  case refine_1 => exact exec_fwActivate writable (fwActivateBy_busy (b := s.start) busy)
  case refine_2 => exact exec_fwActivate writable (fwActivateBy_calibrating (b := s.start) idle calibrates)
  case refine_3 => exact exec_fwActivate writable (fwActivateBy_notReady (b := s.start) idle still missing)
  case refine_4 => exact exec_fwActivate writable (fwActivateBy_boots (b := s.start) idle still staged healthy)
  case refine_5 => exact act_eq (s := s) (coreFwActivateDone_none (b := s.start) none)
  case refine_6 =>
    exact act_eq (s := s) ((coreFwActivateDone_activation (b := s.start) verified boot activating).trans (if_pos ⟨pass, well⟩))
  case refine_7 =>
    exact act_eq (s := s) ((coreFwActivateDone_activation (b := s.start) verified boot activating).trans
      (if_neg (not_both failed)))
  case refine_8 =>
    exact act_eq (s := s) ((coreFwActivateDone_boot (b := s.start) verified boot).trans (if_pos ⟨pass, well⟩))
  case refine_9 =>
    exact act_eq (s := s) ((coreFwActivateDone_boot (b := s.start) verified boot).trans (if_neg (not_both failed)))
  case refine_10 => exact act_eq (s := s) (coreSelftestPass_standby (b := s.start) stands)
  case refine_11 =>
    refine act_eq (s := s) ((coreSelftestPass_booting (b := s.start) booting).trans (if_pos ⟨boots.1, ?_⟩))
    rw [show s.start.maint.activating = false from boots.2]
    rfl
  case refine_12 =>
    obtain active | failed | ⟨booting, stays⟩ := other
    · exact act_eq (s := s) (coreSelftestPass_other (b := s.start) (.inl active))
    · exact act_eq (s := s) (coreSelftestPass_other (b := s.start) (.inr failed))
    · refine act_eq (s := s) ((coreSelftestPass_booting (b := s.start) booting).trans (if_neg ?_))
      rintro ⟨led, rests⟩
      exact stays ⟨led, Bool.not_eq_true' _ ▸ rests⟩
  case refine_13 => exact act_eq (s := s) (coreHeartbeatMiss_none (b := s.start) none)
  case refine_14 =>
    exact act_eq (s := s) ((coreHeartbeatMiss_active (b := s.start) active).trans (if_pos healthy))
  case refine_15 =>
    exact act_eq (s := s) ((coreHeartbeatMiss_active (b := s.start) active).trans
      (if_neg fun t => Bool.false_ne_true (unhealthy.symm.trans t)))

end

section
/-!
PROOFS. The service port and the mailbox (R665, R667, R671 to R673, R700 to R704).
-/

namespace Sys2Proof.Machine

section
variable {b : Block}

/-! ### Status and reads (R702) -/

theorem coreReadStatus_ready (ready : portsReady b = true) :
    coreReadStatus b = b.emit (.service (natBytes 8 (serviceStatus b).toNat).reverse) := if_pos ready

theorem coreReadStatus_early (early : portsReady b = false) : coreReadStatus b = b :=
  if_neg fun t => Bool.false_ne_true (early.symm.trans t)

section
variable {lees : List Host.Cell} {addr len : Nat}

theorem coreSvcRead_ready (ready : portsReady b = true) :
    coreSvcRead lees addr len b =
      b.emit (.service ((List.range len).map fun i => if addr + i < leesBytes then lget lees (addr + i) else 0)) :=
  if_pos ready

theorem coreSvcRead_early (early : portsReady b = false) : coreSvcRead lees addr len b = b :=
  if_neg fun t => Bool.false_ne_true (early.symm.trans t)

end

/-! ### Staging (R703, R704) -/

/-- A page that WRITE may put into the B slot. -/
def PageGood (b : Block) (addr : Nat) (data : List Byte) : Prop :=
  b.maint.bState = .staging ∧ 0x01000000 ≤ addr ∧ addr < 0x01400000 ∧ addr % 256 = 0 ∧ data ≠ [] ∧ data.length ≤ 256

/-- A page lands in the B slot. -/
def pageTaken (addr : Nat) (data : List Byte) (b : Block) : Block :=
  svcLast .ok { b with maint := { b.maint with
    svcBusy := true, pages := tset b.maint.pages ((addr - 0x01000000) / 256) data } }

theorem not_pageGood_iff {addr : Nat} {data : List Byte} :
    ¬PageGood b addr data ↔ b.maint.bState ≠ .staging ∨ addr < 0x01000000 ∨ 0x01400000 ≤ addr ∨ addr % 256 ≠ 0 ∨
      data.isEmpty = true ∨ 256 < data.length := by
  simp only [PageGood, Classical.not_and_iff_not_or_not, Nat.not_le, Nat.not_lt, not_not, List.isEmpty_iff, ne_eq]

/-- The pages of an image cover its length. -/
def ImageWhole (b : Block) (len : Nat) : Prop := 1 ≤ len ∧ len ≤ 4194304 ∧ pagesCover b.maint.pages len = true

/-- The image is STAGED; a power-on that waits for one goes on. -/
def imageStaged (len : Nat) (b : Block) : Block :=
  let b := endToken resFwslot b
  let b := { b with maint := { b.maint with bState := .staged, imageLen := len } }
  let v := Config.imageVersion ((stagedImage b).getD [])
  let b := firmwareEvent 0 v .ok (svcLast .ok { b with maint := { b.maint with stagedVersion := v } })
  if b.maint.boot = .waitImage then startBoot b else b

/-- The image is BAD. -/
def imageTorn (b : Block) : Block :=
  svcLast .access { (endToken resFwslot b) with maint := { (endToken resFwslot b).maint with bState := .bad } }

theorem endToken_pages (r : Nat) : (endToken r b).maint.pages = b.maint.pages := by
  unfold endToken
  split <;> rfl

section
variable (off : stagingOff b = true)
include off

theorem coreStageBegin_off : coreStageBegin b = b := if_pos off
theorem coreSvcWrite_off {addr : Nat} {data : List Byte} : coreSvcWrite addr data b = b := if_pos off
theorem coreStageEnd_off {len : Nat} : coreStageEnd len b = b := if_pos off
theorem coreStageAbort_off : coreStageAbort b = b := if_pos (.inl off)

end

section
variable (on : stagingOff b = false)
include on

theorem staging_is_on : ¬stagingOff b = true := fun t => Bool.false_ne_true (on.symm.trans t)

section
variable {st : Status} (refused : svcRefused b = some st)
include refused

theorem coreStageBegin_refused : coreStageBegin b = svcLast st b :=
  (if_neg (staging_is_on on)).trans (by rw [refused])

theorem coreSvcWrite_refused {addr : Nat} {data : List Byte} : coreSvcWrite addr data b = svcLast st b :=
  (if_neg (staging_is_on on)).trans (by rw [refused])

theorem coreStageEnd_refused {len : Nat} : coreStageEnd len b = svcLast st b :=
  (if_neg (staging_is_on on)).trans (by rw [refused])

end

section
variable (free : svcRefused b = none)
include free

theorem coreStageBegin_begins :
    coreStageBegin b = svcLast .ok (takeToken resFwslot Path.cellarer.holder { b with maint := { b.maint with
      bState := .staging, stagedVersion := 0, pages := [], imageLen := 0 } }) :=
  (if_neg (staging_is_on on)).trans (by rw [free])

section
variable {addr : Nat} {data : List Byte}

theorem coreSvcWrite_good (good : PageGood b addr data) : coreSvcWrite addr data b = pageTaken addr data b := by
  refine (if_neg (staging_is_on on)).trans ?_
  rw [free]
  exact if_neg fun t => not_pageGood_iff.mpr t good

theorem coreSvcWrite_bad (bad : ¬PageGood b addr data) : coreSvcWrite addr data b = svcLast .access b := by
  refine (if_neg (staging_is_on on)).trans ?_
  rw [free]
  exact if_pos (not_pageGood_iff.mp bad)

end

section
variable {len : Nat}

theorem coreStageEnd_other (other : b.maint.bState ≠ .staging) : coreStageEnd len b = svcLast .access b := by
  refine (if_neg (staging_is_on on)).trans ?_
  rw [free]
  exact if_pos other

section
variable (staging : b.maint.bState = .staging)
include staging

theorem coreStageEnd_whole (whole : ImageWhole b len) : coreStageEnd len b = imageStaged len b := by
  refine (if_neg (staging_is_on on)).trans ?_
  rw [free]
  refine (if_neg (not_not.mpr staging)).trans (if_pos ?_)
  rw [endToken_pages]
  exact whole

theorem coreStageEnd_torn (torn : ¬ImageWhole b len) : coreStageEnd len b = imageTorn b := by
  refine (if_neg (staging_is_on on)).trans ?_
  rw [free]
  refine (if_neg (not_not.mpr staging)).trans (if_neg ?_)
  rw [endToken_pages]
  exact torn

end

end

end

theorem coreStageAbort_empties (settled : b.maint.bState ≠ .booting) :
    coreStageAbort b =
      let b := if (b.token resFwslot).holder = Path.cellarer.holder then endToken resFwslot b else b
      svcLast .ok { b with maint := { b.maint with bState := .empty, stagedVersion := 0, pages := [], imageLen := 0 } } :=
  if_neg (not_or_intro (staging_is_on on) settled)

end

/-! ### Replies of the RoT (R671 to R673, R700) -/

section
variable (led : b.maint.lost = false)
include led

theorem cellarers_led : ¬b.maint.lost = true := fun t => Bool.false_ne_true (led.symm.trans t)

theorem coreVerifyResult_acts {pass : Bool} (asked : b.maint.mbox = some .verify) :
    coreVerifyResult pass b = mboxDone { b with maint := { b.maint with verified := some pass } } := by
  unfold coreVerifyResult
  rw [asked]
  exact if_neg (cellarers_led led)

theorem coreSettingsNone_acts {type strait : Nat} (asked : b.maint.mbox = some (.read type strait)) :
    coreSettingsNone b = settingsStep (mboxDone (settingsReply b)) := by
  unfold coreSettingsNone
  rw [asked]
  exact if_neg (cellarers_led led)

theorem coreSettingsAck_acts {type strait : Nat} {body : List Byte} (asked : b.maint.mbox = some (.write type strait body)) :
    coreSettingsAck b = settingsStep (mboxDone (useSetting type strait body b)) := by
  unfold coreSettingsAck
  rw [asked]
  exact if_neg (cellarers_led led)

end

theorem coreVerifyResult_stray {pass : Bool} (stray : b.maint.lost = true ∨ b.maint.mbox ≠ some .verify) :
    coreVerifyResult pass b = b := by
  unfold coreVerifyResult
  split
  case h_1 asked => exact if_pos (stray.resolve_right fun other => other asked)
  case h_2 => rfl

section
variable (stray : b.maint.lost = true ∨ ∀ type strait, b.maint.mbox ≠ some (.read type strait))
include stray

theorem coreSettingsNone_stray : coreSettingsNone b = b := by
  unfold coreSettingsNone
  split
  case h_1 type strait asked => exact if_pos (stray.resolve_right fun other => other type strait asked)
  case h_2 => rfl

theorem coreSettingsRecord_stray {ws : List Word} : coreSettingsRecord ws b = b := by
  unfold coreSettingsRecord
  split
  case h_1 type strait asked => exact if_pos (stray.resolve_right fun other => other type strait asked)
  case h_2 => rfl

end

theorem coreSettingsAck_stray (stray : b.maint.lost = true ∨ ∀ type strait body, b.maint.mbox ≠ some (.write type strait body)) :
    coreSettingsAck b = b := by
  unfold coreSettingsAck
  split
  case h_1 type strait body asked => exact if_pos (stray.resolve_right fun other => other type strait body asked)
  case h_2 => rfl

/-! ### A record of the stored settings -/

/-- The body of a record. -/
def recordBody (bs : List Byte) : List Byte := slice bs 16 (bytesNat (slice bs 2 2))

/-- A record is whole, and the one asked for. -/
def RecordGood (type strait : Nat) (bs : List Byte) : Prop :=
  (byteAt bs 0).toNat = type ∧ (byteAt bs 4).toNat = strait ∧ 16 + bytesNat (slice bs 2 2) ≤ bs.length ∧
    (crc32c (recordBody bs)).toNat = bytesNat (slice bs 8 4)

/-- The version of a record's TYPE that an image reads. -/
def recordOwn (image : List Byte) (bs : List Byte) : Nat := (Config.imageReads image (byteAt bs 0)).toNat

/-- A record of an older version is written back, migrated. -/
def recordMigrated (type strait : Nat) (bs : List Byte) (image : List Byte) (b : Block) : Block :=
  mboxNext { b with maint := { b.maint with
    mbox := none
    mboxQueue := writeMsg type (recordOwn image bs) strait (Config.migrateBody image (byteAt bs 0) (recordBody bs)) ::
      b.maint.mboxQueue } }

theorem settingsReply_runImage : (settingsReply b).maint.runImage = b.maint.runImage := by
  unfold settingsReply
  split <;> rfl

theorem recordGood_iff {type strait : Nat} {bs : List Byte} :
    (decide ((byteAt bs 0).toNat = type ∧ (byteAt bs 4).toNat = strait ∧ 16 + bytesNat (slice bs 2 2) ≤ bs.length) &&
      decide ((crc32c (recordBody bs)).toNat = bytesNat (slice bs 8 4))) = true ↔ RecordGood type strait bs := by
  simp only [Bool.and_eq_true, decide_eq_true_eq, RecordGood, and_assoc]

section
variable {type strait : Nat} {ws : List Word} (led : b.maint.lost = false) (asked : b.maint.mbox = some (.read type strait))
include led asked

/-- What a record does, that is not used or written back unless it is good and of no newer version. -/
theorem coreSettingsRecord_asked :
    (¬RecordGood type strait (recordBytes ws) ∨
        recordOwn b.maint.runImage (recordBytes ws) < (byteAt (recordBytes ws) 1).toNat →
      coreSettingsRecord ws b = settingsStep (mboxDone (discardSetting (settingsReply b)))) ∧
    (RecordGood type strait (recordBytes ws) →
      ¬recordOwn b.maint.runImage (recordBytes ws) < (byteAt (recordBytes ws) 1).toNat →
      coreSettingsRecord ws b =
        if (byteAt (recordBytes ws) 1).toNat = recordOwn b.maint.runImage (recordBytes ws) then
          settingsStep (mboxDone (useSetting type strait (recordBody (recordBytes ws)) (settingsReply b)))
        else recordMigrated type strait (recordBytes ws) b.maint.runImage (settingsReply b)) := by
  unfold coreSettingsRecord
  rw [asked, ← settingsReply_runImage]
  refine ⟨fun bad => (if_neg (cellarers_led led)).trans (if_pos (bad.imp_left fun torn => ?_)), fun good known =>
    (if_neg (cellarers_led led)).trans (if_neg ?_)⟩
  · rw [Bool.not_eq_true']
    exact Bool.eq_false_iff.mpr fun t => torn (recordGood_iff.mp t)
  · rintro (torn | newer)
    · rw [Bool.not_eq_true'] at torn
      exact Bool.false_ne_true (torn.symm.trans (recordGood_iff.mpr good))
    · exact known newer

theorem coreSettingsRecord_discards (bad : ¬RecordGood type strait (recordBytes ws) ∨
    recordOwn b.maint.runImage (recordBytes ws) < (byteAt (recordBytes ws) 1).toNat) :
    coreSettingsRecord ws b = settingsStep (mboxDone (discardSetting (settingsReply b))) :=
  (coreSettingsRecord_asked led asked).1 bad

section
variable (good : RecordGood type strait (recordBytes ws))
include good

theorem coreSettingsRecord_uses
    (same : (byteAt (recordBytes ws) 1).toNat = recordOwn b.maint.runImage (recordBytes ws)) :
    coreSettingsRecord ws b =
      settingsStep (mboxDone (useSetting type strait (recordBody (recordBytes ws)) (settingsReply b))) :=
  ((coreSettingsRecord_asked led asked).2 good (by omega)).trans (if_pos same)

theorem coreSettingsRecord_migrates
    (older : (byteAt (recordBytes ws) 1).toNat < recordOwn b.maint.runImage (recordBytes ws)) :
    coreSettingsRecord ws b = recordMigrated type strait (recordBytes ws) b.maint.runImage (settingsReply b) :=
  ((coreSettingsRecord_asked led asked).2 good (by omega)).trans (if_neg (Nat.ne_of_lt older))

end

end

end

end Sys2Proof.Machine

open Sys2Proof Sys2Proof.Machine

/-- Settles O56: the commands of the service port by what stands in their way, and each reply of the RoT by the
message that awaits it. -/
theorem serviceAndMailboxAct : Obligations.ServiceAndMailboxAct := by
  intro s x idle off why
  refine ⟨fun ready => ?_, fun addr len ready => ?_, fun addr len early => ⟨?_, ?_⟩,
    fun addr data len stops => ⟨?_, ?_, ?_, ?_⟩, fun st addr data len on refused => ⟨?_, ?_, ?_⟩,
    fun on free => ⟨?_, fun addr data => ⟨fun good => ?_, fun bad => ?_⟩,
      fun len => ⟨fun other => ?_, fun staging torn => ?_, fun staging whole => ?_⟩⟩,
    fun on settled => ?_, rfl,
    fun led => ⟨fun pass asked => ?_, fun type strait asked => ?_, fun type strait body asked => ?_,
      fun type strait ws asked => ⟨fun bad => ?_, fun good same => ?_, fun good older => ?_⟩⟩,
    fun pass ws => ⟨fun stray => ?_, fun stray => ⟨?_, ?_⟩, fun stray => ?_⟩⟩
  case refine_1 => exact act_eq (s := s) (coreReadStatus_ready (b := s.start) ready)
  case refine_2 => exact act_eq (s := s) (coreSvcRead_ready (b := s.start) ready)
  case refine_3 => exact act_eq (s := s) (coreReadStatus_early (b := s.start) early)
  case refine_4 => exact act_eq (s := s) (coreSvcRead_early (b := s.start) early)
  case refine_5 => exact act_eq (s := s) (coreStageBegin_off (b := s.start) stops)
  case refine_6 => exact act_eq (s := s) (coreSvcWrite_off (b := s.start) stops)
  case refine_7 => exact act_eq (s := s) (coreStageEnd_off (b := s.start) stops)
  case refine_8 => exact act_eq (s := s) (coreStageAbort_off (b := s.start) stops)
  case refine_9 => exact act_eq (s := s) (coreStageBegin_refused (b := s.start) on refused)
  case refine_10 => exact act_eq (s := s) (coreSvcWrite_refused (b := s.start) on refused)
  case refine_11 => exact act_eq (s := s) (coreStageEnd_refused (b := s.start) on refused)
  case refine_12 => exact act_eq (s := s) (coreStageBegin_begins (b := s.start) on free)
  case refine_13 => exact act_eq (s := s) (coreSvcWrite_good (b := s.start) on free good)
  case refine_14 => exact act_eq (s := s) (coreSvcWrite_bad (b := s.start) on free bad)
  case refine_15 => exact act_eq (s := s) (coreStageEnd_other (b := s.start) on free other)
  case refine_16 => exact act_eq (s := s) (coreStageEnd_torn (b := s.start) on free staging torn)
  case refine_17 => exact act_eq (s := s) (coreStageEnd_whole (b := s.start) on free staging whole)
  case refine_18 => exact act_eq (s := s) (coreStageAbort_empties (b := s.start) on settled)
  case refine_19 => exact act_eq (s := s) (coreVerifyResult_acts (b := s.start) led asked)
  case refine_20 => exact act_eq (s := s) (coreSettingsNone_acts (b := s.start) led asked)
  case refine_21 => exact act_eq (s := s) (coreSettingsAck_acts (b := s.start) led asked)
  case refine_22 => exact act_eq (s := s) (coreSettingsRecord_discards (b := s.start) led asked bad)
  case refine_23 => exact act_eq (s := s) (coreSettingsRecord_uses (b := s.start) led asked good same)
  case refine_24 => exact act_eq (s := s) (coreSettingsRecord_migrates (b := s.start) led asked good older)
  case refine_25 => exact act_eq (s := s) (coreVerifyResult_stray (b := s.start) stray)
  case refine_26 => exact act_eq (s := s) (coreSettingsNone_stray (b := s.start) stray)
  case refine_27 => exact act_eq (s := s) (coreSettingsRecord_stray (b := s.start) stray)
  case refine_28 => exact act_eq (s := s) (coreSettingsAck_stray (b := s.start) stray)

end

section
/-!
PROOFS. Registers after reset (R723).
-/

namespace Sys2Proof.Machine

/-! ### Units after reset -/

theorem reset_ctx (c : Nat) : Block.reset.ctx c = {} := rfl
theorem reset_seq (q : Nat) : Block.reset.seq q = {} := rfl
theorem reset_rack (e : Nat) : Block.reset.rack e = {} := rfl
theorem reset_inst (i : Nat) : Block.reset.inst i = {} := rfl
theorem reset_slot (k : Nat) : Block.reset.slot k = {} := rfl

/-- No strait is enabled at reset, whatever its class. -/
theorem reset_strait_disabled : ∀ n < 32, (Block.reset.strait n).enable = false := by decide

/-! ### Their registers -/

theorem reset_ctx_registers (c : Nat) :
    readCtx Block.reset c 0x000 = 0 ∧ readCtx Block.reset c 0x010 = 0 ∧ readCtx Block.reset c 0x040 = 12288 ∧
      readCtx Block.reset c 0x048 = 0 := by
  unfold readCtx
  rw [reset_ctx]
  exact ⟨rfl, rfl, rfl, rfl⟩

theorem reset_xctx_root (c : Nat) : readReg [] Block.reset (.xctx c 0x08) = 0 := rfl

theorem reset_seq_registers (q : Nat) :
    readSeq Block.reset q 0x000 = 0 ∧ readSeq Block.reset q 0x008 = 0 ∧ readSeq Block.reset q 0x030 = 0 ∧
      readSeq Block.reset q 0x048 = 0 ∧ readSeq Block.reset q 0x050 = 0 := by
  unfold readSeq
  rw [reset_seq]
  exact ⟨rfl, rfl, rfl, rfl, rfl⟩

theorem reset_rack_registers (e : Nat) :
    readRack Block.reset e 0x000 = 0 ∧ readRack Block.reset e 0x010 = 0 ∧ readRack Block.reset e 0x018 = 0 := by
  unfold readRack rackCtx
  rw [reset_rack]
  exact ⟨rfl, rfl, rfl⟩

theorem reset_inst_register (i : Nat) : readInst Block.reset i 0 = 0 := by
  unfold readInst
  rw [reset_inst]
  exact if_pos rfl

theorem reset_strait_ctrl {n : Nat} (small : n < 32) : readStrait Block.reset n 0x010 = 0 := by
  unfold readStrait
  simp only [reset_strait_disabled n small]
  rfl

theorem reset_slot_register {k : Nat} (small : k < 16) : readSec Block.reset (0x100 + 0x20 * k) = 0 := by
  have start : (0x100 + 0x20 * k) % 0x20 = 0 := by omega
  unfold readSec
  rw [if_pos (by omega), start, reset_slot]
  rfl

end Sys2Proof.Machine

open Sys2Proof Sys2Proof.Machine

/-- Settles O58: each unit is at its default after reset, and its registers read what follows. -/
theorem registersAtResetReadTheirValues : Obligations.RegistersAtResetReadTheirValues := by
  refine ⟨fun c _ => ?_, fun q _ => ?_, fun e _ => ?_, fun i _ => ?_, fun n small => ?_, fun c n => ?_, fun o => ?_,
    fun k small => ?_, ?_⟩
  case refine_1 =>
    obtain ⟨owner, state, limit, held⟩ := reset_ctx_registers c
    exact ⟨owner, state, limit, held, reset_xctx_root c⟩
  case refine_2 =>
    obtain ⟨owner, state, pc, records, fault⟩ := reset_seq_registers q
    exact ⟨owner, state, pc, records, fault⟩
  case refine_3 =>
    obtain ⟨state, flight, fault⟩ := reset_rack_registers e
    exact ⟨state, flight, fault⟩
  case refine_4 => exact reset_inst_register i
  case refine_5 => exact reset_strait_ctrl small
  case refine_6 => rfl
  case refine_7 => rfl
  case refine_8 => exact reset_slot_register small
  case refine_9 => rfl

end
